-- ==== Sys2Proof/Word.lean ====
section
/-!
DEFINITION. The widths the spec uses (R7, R13, R59) and their plainest arithmetic.
-/
namespace Sys2Proof

/-- A register, an instruction word, a literal word (R51, R68). -/
abbrev Word := BitVec 32

/-- An address, a program counter, a 64-bit operand (R13, R65). -/
abbrev DWord := BitVec 64

/-- The unit of memory (R7). -/
abbrev Byte := BitVec 8

/-- Ceiling division on counts. -/
def ceilDiv (a b : Nat) : Nat := (a + b - 1) / b

end Sys2Proof
end

