-- ==== Sys2Proof/Config.lean ====
section
/-!
DEFINITION. What the spec leaves to an implementation or leaves open, as constants without a body (log entry 5): nothing
can be proved of their values. A counter of the state gives each use its own argument.
-/
namespace Sys2Proof.Config
open Sys2Proof

/-- Bytes the spec leaves unspecified: TMP after a sort (R273), the arrays of a stopped sort (R271). -/
opaque freeByte : Nat → Byte

/-- Where between its stop points a cancelled or faulted engine operation has come to (R271): any number. -/
opaque freeCount : Nat → Nat

/-- Whether the rasterizer's binning buffer is full at a module time at which it holds primitives (R279). -/
opaque binningFull : Nat → Bool

/-- What an image carries for its verification (R412, R414), in a format that the spec does not give: the root key as it is encoded, the
bytes that are signed, and the signature. -/
opaque imageParts : List Byte → List Byte × List Byte × List Byte

/-- The modulus and the exponent of an encoded public key (R414). -/
opaque publicKey : List Byte → Nat × Nat

/-- The version an image carries (R412, R413). -/
opaque imageVersion : List Byte → Nat

/-- Whether the standby complex knows the format of the exported state table (R413). -/
opaque knowsFormat : List Byte → Bool

/-- The identity key pair that a first boot creates (R414): modulus, public and private exponent. -/
opaque newKey : Nat → Nat × Nat × Nat

/-- The certificate chain of a public key to the Wairum root (R414). -/
opaque certificates : Nat × Nat → List Byte

/-- The salt of the n-th signature: its first 64 bytes (R414). -/
opaque salt : Nat → List Byte

/-- A constant other than zero of a type whose width is not the position's (R63): f64 or a packed or narrow type named in
a position that reads another width. -/
opaque freeConst : Nat → Nat → Nat

end Sys2Proof.Config
end

