-- ==== Sys2Proof/Syntax.lean ====
section
/-!
DEFINITION. The instruction set as syntax: operands (R62) and one constructor of `Instr` for every row of the opcode
table. Those of R94 and R95 carry the fields of an instruction word (R59, R93). The others are the machine's steps that
have no instruction word: the clause header (R52) and the events of its units, of the firmware and of the outside
world, each with what tells one such event from another.
-/
namespace Sys2Proof

/-- The constants of the operand codes 0xF0-0xF4 (R62, R63). -/
inductive Const where
  | zero | one | mone | half | two
  deriving DecidableEq, Repr

/-- The specials of the operand codes 0xF5-0xFA (R62, R64). -/
inductive Special where
  | lid | gix | tix | width | glid | core
  deriving DecidableEq, Repr

/-- The 256 operand codes of R62. -/
inductive Opnd where
  | v (n : Fin 192)
  | s (n : Fin 32)
  | vx (k : Fin 8)
  | lit (k : Fin 8)
  | const (c : Const)
  | special (x : Special)
  | reserved (n : Fin 4)
  | sink
  deriving DecidableEq, Repr

/-- Who makes an access from outside the module: the host through BAR2 or BAR0 (R405), or a peer (R409). -/
inductive Outside where
  | bar2 | bar0
  | peer (n : Nat)
  deriving DecidableEq, Repr

/-- The PCI Express AtomicOps (R196, R404). -/
inductive HostAtom where
  | fetchAdd | swap | cas
  deriving DecidableEq, Repr

/-- The two voted sensor sets of a cluster (R400). -/
inductive SensorKind where
  | thermal | current
  deriving DecidableEq, Repr

/-- The limit states of R398: two of a cluster, one of the module. -/
inductive LimitSource where
  | thermal | current | power
  deriving DecidableEq, Repr

/-- What a `UNIT_FAILURE` takes away (R403, R416). -/
inductive UnitKind where
  | core | memoryDevice
  deriving DecidableEq, Repr

/-- One constructor per row of the opcode table. -/
inductive Instr where
  /-- CLAUSE_HEADER (R52). -/
  | clauseHeader
  /-- MODE (R141). -/
  | mode (d : BitVec 8) (i : BitVec 16)
  /-- GUARD (R142). -/
  | guard (n : Bool) (g : BitVec 6)
  /-- FMT (R143). -/
  | fmt (d : BitVec 8) (a : Opnd)
  /-- OMAP (R144). -/
  | omap (d : BitVec 8) (a : Opnd)
  /-- XSET (R145). -/
  | xset (u : Bool) (k : BitVec 3) (b : BitVec 8) (l : BitVec 8)
  /-- XOFF (R145). -/
  | xoff (u : Bool) (k : BitVec 3) (a : Opnd)
  /-- XADD (R145). -/
  | xadd (u : Bool) (k : BitVec 3) (a : Opnd)
  /-- MOV (R146). -/
  | mov (u : Bool) (d : Opnd) (a : Opnd)
  /-- MOVI (R147). -/
  | movi (u : Bool) (d : Opnd) (i : BitVec 16)
  /-- MOVH (R148). -/
  | movh (u : Bool) (d : Opnd) (i : BitVec 16)
  /-- SEL (R149). -/
  | sel (u : Bool) (d : Opnd) (a : Opnd) (b : Opnd)
  /-- RETAG (R150). -/
  | retag (u : Bool) (d : Opnd) (a : Opnd) (t : BitVec 8)
  /-- TAGOF (R151). -/
  | tagof (u : Bool) (d : Opnd) (a : Opnd)
  /-- RDSR (R152). -/
  | rdsr (u : Bool) (d : Opnd) (i : BitVec 16)
  /-- WRSR (R153). -/
  | wrsr (u : Bool) (d : Opnd) (i : BitVec 16)
  /-- ADD (R154). -/
  | add (u : Bool) (d : Opnd) (a : Opnd) (b : Opnd)
  /-- SUB (R154). -/
  | sub (u : Bool) (d : Opnd) (a : Opnd) (b : Opnd)
  /-- MUL (R154). -/
  | mul (u : Bool) (d : Opnd) (a : Opnd) (b : Opnd)
  /-- MULH (R155). -/
  | mulh (u : Bool) (d : Opnd) (a : Opnd) (b : Opnd)
  /-- MAD (R154). -/
  | mad (u : Bool) (d : Opnd) (a : Opnd) (b : Opnd)
  /-- DIV (R154). -/
  | div (u : Bool) (d : Opnd) (a : Opnd) (b : Opnd)
  /-- REM (R154). -/
  | rem (u : Bool) (d : Opnd) (a : Opnd) (b : Opnd)
  /-- MIN (R157). -/
  | min (u : Bool) (d : Opnd) (a : Opnd) (b : Opnd)
  /-- MAX (R157). -/
  | max (u : Bool) (d : Opnd) (a : Opnd) (b : Opnd)
  /-- ABS (R154). -/
  | abs (u : Bool) (d : Opnd) (a : Opnd)
  /-- NEG (R154). -/
  | neg (u : Bool) (d : Opnd) (a : Opnd)
  /-- ADD64 (R159). -/
  | add64 (u : Bool) (d : Opnd) (a : Opnd) (b : Opnd)
  /-- MAD64 (R159). -/
  | mad64 (u : Bool) (d : Opnd) (a : Opnd) (b : Opnd)
  /-- CLAMP (R157). -/
  | clamp (u : Bool) (d : Opnd) (a : Opnd) (b : Opnd)
  /-- ADDI (R158). -/
  | addi (u : Bool) (d : Opnd) (i : BitVec 16)
  /-- MULI (R158). -/
  | muli (u : Bool) (d : Opnd) (i : BitVec 16)
  /-- AND (R160). -/
  | and (u : Bool) (d : Opnd) (a : Opnd) (b : Opnd)
  /-- OR (R160). -/
  | or (u : Bool) (d : Opnd) (a : Opnd) (b : Opnd)
  /-- XOR (R160). -/
  | xor (u : Bool) (d : Opnd) (a : Opnd) (b : Opnd)
  /-- NOT (R160). -/
  | not (u : Bool) (d : Opnd) (a : Opnd)
  /-- ANDN (R160). -/
  | andn (u : Bool) (d : Opnd) (a : Opnd) (b : Opnd)
  /-- SHL (R160). -/
  | shl (u : Bool) (d : Opnd) (a : Opnd) (b : Opnd)
  /-- SHR (R160). -/
  | shr (u : Bool) (d : Opnd) (a : Opnd) (b : Opnd)
  /-- SRA (R160). -/
  | sra (u : Bool) (d : Opnd) (a : Opnd) (b : Opnd)
  /-- ROT (R160). -/
  | rot (u : Bool) (d : Opnd) (a : Opnd) (b : Opnd)
  /-- POPC (R160). -/
  | popc (u : Bool) (d : Opnd) (a : Opnd)
  /-- CLZ (R160). -/
  | clz (u : Bool) (d : Opnd) (a : Opnd)
  /-- BREV (R160). -/
  | brev (u : Bool) (d : Opnd) (a : Opnd)
  /-- BFX (R161). -/
  | bfx (u : Bool) (d : Opnd) (a : Opnd) (b : Opnd)
  /-- BFI (R161). -/
  | bfi (u : Bool) (d : Opnd) (a : Opnd) (b : Opnd)
  /-- PERM (R162). -/
  | perm (u : Bool) (d : Opnd) (a : Opnd) (b : Opnd)
  /-- FFS (R160). -/
  | ffs (u : Bool) (d : Opnd) (a : Opnd)
  /-- CEQ (R163). -/
  | ceq (u : Bool) (p : BitVec 6) (c : BitVec 2) (a : Opnd) (b : Opnd)
  /-- CNE (R163). -/
  | cne (u : Bool) (p : BitVec 6) (c : BitVec 2) (a : Opnd) (b : Opnd)
  /-- CLT (R163). -/
  | clt (u : Bool) (p : BitVec 6) (c : BitVec 2) (a : Opnd) (b : Opnd)
  /-- CLE (R163). -/
  | cle (u : Bool) (p : BitVec 6) (c : BitVec 2) (a : Opnd) (b : Opnd)
  /-- CGT (R163). -/
  | cgt (u : Bool) (p : BitVec 6) (c : BitVec 2) (a : Opnd) (b : Opnd)
  /-- CGE (R163). -/
  | cge (u : Bool) (p : BitVec 6) (c : BitVec 2) (a : Opnd) (b : Opnd)
  /-- CUN (R163). -/
  | cun (u : Bool) (p : BitVec 6) (c : BitVec 2) (a : Opnd) (b : Opnd)
  /-- CCLASS (R164). -/
  | cclass (u : Bool) (p : BitVec 6) (c : BitVec 2) (a : Opnd) (b : Opnd)
  /-- PLOG (R165). -/
  | plog (u : Bool) (p : BitVec 6) (c : BitVec 2) (f : BitVec 2) (ia : Bool) (qa : BitVec 6) (ib : Bool) (qb : BitVec 6)
  /-- PTOV (R166). -/
  | ptov (u : Bool) (d : Opnd) (a : BitVec 8) (b : BitVec 8)
  /-- VTOP (R167). -/
  | vtop (u : Bool) (p : BitVec 6) (c : BitVec 2) (a : Opnd) (b : Opnd)
  /-- PSET (R167). -/
  | pset (u : Bool) (p : BitVec 6) (c : BitVec 2) (a : Opnd) (b : Opnd)
  /-- SHFL (R210). -/
  | shfl (d : Opnd) (a : Opnd) (b : Opnd)
  /-- SHFX (R210). -/
  | shfx (d : Opnd) (a : Opnd) (b : Opnd)
  /-- LANE_ANY (R211). -/
  | laneAny (p : BitVec 6) (n : Bool) (q : BitVec 6)
  /-- LANE_ALL (R211). -/
  | laneAll (p : BitVec 6) (n : Bool) (q : BitVec 6)
  /-- LANE_BALLOT (R212). -/
  | laneBallot (d : Opnd) (n : Bool) (q : BitVec 6)
  /-- LANE_BCAST (R213). -/
  | laneBcast (d : Opnd) (a : Opnd)
  /-- LANE_COUNT (R212). -/
  | laneCount (d : Opnd) (n : Bool) (q : BitVec 6)
  /-- LANE_FIRST (R212). -/
  | laneFirst (d : Opnd) (n : Bool) (q : BitVec 6)
  /-- LANE_RND (R213). -/
  | laneRnd (d : Opnd)
  /-- LANE_RADD (R214). -/
  | laneRadd (d : Opnd) (a : Opnd)
  /-- LANE_RMIN (R214). -/
  | laneRmin (d : Opnd) (a : Opnd)
  /-- LANE_RMAX (R214). -/
  | laneRmax (d : Opnd) (a : Opnd)
  /-- LANE_RBAND (R214). -/
  | laneRband (d : Opnd) (a : Opnd)
  /-- LANE_RBOR (R214). -/
  | laneRbor (d : Opnd) (a : Opnd)
  /-- LANE_RBXOR (R214). -/
  | laneRbxor (d : Opnd) (a : Opnd)
  /-- LANE_SCAN (R214). -/
  | laneScan (d : Opnd) (a : Opnd)
  /-- REGRP_GIVE (R215). -/
  | regrpGive (u : Bool) (p : BitVec 6) (a : Opnd)
  /-- REGRP_TAKE (R215). -/
  | regrpTake (u : Bool) (p : BitVec 6) (a : Opnd)
  /-- FMS (R156). -/
  | fms (u : Bool) (d : Opnd) (a : Opnd) (b : Opnd)
  /-- FNMA (R156). -/
  | fnma (u : Bool) (d : Opnd) (a : Opnd) (b : Opnd)
  /-- RCP (R168). -/
  | rcp (u : Bool) (d : Opnd) (a : Opnd)
  /-- RSQ (R168). -/
  | rsq (u : Bool) (d : Opnd) (a : Opnd)
  /-- SQRT (R168). -/
  | sqrt (u : Bool) (d : Opnd) (a : Opnd)
  /-- EXP2 (R169). -/
  | exp2 (u : Bool) (d : Opnd) (a : Opnd)
  /-- LOG2 (R169). -/
  | log2 (u : Bool) (d : Opnd) (a : Opnd)
  /-- SINP (R169). -/
  | sinp (u : Bool) (d : Opnd) (a : Opnd)
  /-- COSP (R169). -/
  | cosp (u : Bool) (d : Opnd) (a : Opnd)
  /-- FRAC (R170). -/
  | frac (u : Bool) (d : Opnd) (a : Opnd)
  /-- RINT (R170). -/
  | rint (u : Bool) (d : Opnd) (a : Opnd)
  /-- CVT (R172). -/
  | cvt (u : Bool) (d : Opnd) (a : Opnd) (f : BitVec 3) (t : BitVec 4)
  /-- PACK (R173). -/
  | pack (u : Bool) (d : Opnd) (a : Opnd) (f : BitVec 3) (t : BitVec 4)
  /-- UNPACK (R174). -/
  | unpack (u : Bool) (d : Opnd) (a : Opnd) (f : BitVec 3) (t : BitVec 4)
  /-- DOT (R175). -/
  | dot (u : Bool) (d : Opnd) (a : Opnd) (b : Opnd)
  /-- LD8 (R184). -/
  | ld8 (u : Bool) (d : Opnd) (a : Opnd) (o : BitVec 8)
  /-- LD16 (R184). -/
  | ld16 (u : Bool) (d : Opnd) (a : Opnd) (o : BitVec 8)
  /-- LD32 (R184). -/
  | ld32 (u : Bool) (d : Opnd) (a : Opnd) (o : BitVec 8)
  /-- LD64 (R184). -/
  | ld64 (u : Bool) (d : Opnd) (a : Opnd) (o : BitVec 8)
  /-- LD128 (R184). -/
  | ld128 (u : Bool) (d : Opnd) (a : Opnd) (o : BitVec 8)
  /-- ST8 (R186). -/
  | st8 (u : Bool) (d : Opnd) (a : Opnd) (o : BitVec 8)
  /-- ST16 (R186). -/
  | st16 (u : Bool) (d : Opnd) (a : Opnd) (o : BitVec 8)
  /-- ST32 (R186). -/
  | st32 (u : Bool) (d : Opnd) (a : Opnd) (o : BitVec 8)
  /-- ST64 (R186). -/
  | st64 (u : Bool) (d : Opnd) (a : Opnd) (o : BitVec 8)
  /-- ST128 (R186). -/
  | st128 (u : Bool) (d : Opnd) (a : Opnd) (o : BitVec 8)
  /-- LDA (R185). -/
  | lda (u : Bool) (d : Opnd) (a : Opnd) (o : BitVec 8)
  /-- STRL (R187). -/
  | strl (u : Bool) (d : Opnd) (a : Opnd) (o : BitVec 8)
  /-- FENCE_FULL (R189). -/
  | fenceFull (u : Bool)
  /-- FENCE_ACQ (R189). -/
  | fenceAcq (u : Bool)
  /-- FENCE_REL (R189). -/
  | fenceRel (u : Bool)
  /-- FENCE_ENGINE (R189). -/
  | fenceEngine (u : Bool)
  /-- CMO_CLEAN (R191). -/
  | cmoClean (u : Bool) (l : BitVec 4) (a : Opnd) (b : Opnd)
  /-- CMO_INV (R191). -/
  | cmoInv (u : Bool) (l : BitVec 4) (a : Opnd) (b : Opnd)
  /-- CMO_CINV (R191). -/
  | cmoCinv (u : Bool) (l : BitVec 4) (a : Opnd) (b : Opnd)
  /-- CMO_SETTLE (R191). -/
  | cmoSettle (u : Bool) (l : BitVec 4) (a : Opnd) (b : Opnd)
  /-- PREF (R193). -/
  | pref (u : Bool) (l : Bool) (a : Opnd) (o : BitVec 8)
  /-- DTAG (R201). -/
  | dtag (u : Bool) (d : Opnd) (a : Opnd) (o : BitVec 8)
  /-- AADD (R194). -/
  | aadd (u : Bool) (d : Opnd) (a : Opnd) (b : Opnd)
  /-- AMIN (R194). -/
  | amin (u : Bool) (d : Opnd) (a : Opnd) (b : Opnd)
  /-- AMAX (R194). -/
  | amax (u : Bool) (d : Opnd) (a : Opnd) (b : Opnd)
  /-- AAND (R194). -/
  | aand (u : Bool) (d : Opnd) (a : Opnd) (b : Opnd)
  /-- AOR (R194). -/
  | aor (u : Bool) (d : Opnd) (a : Opnd) (b : Opnd)
  /-- AXOR (R194). -/
  | axor (u : Bool) (d : Opnd) (a : Opnd) (b : Opnd)
  /-- AXCHG (R194). -/
  | axchg (u : Bool) (d : Opnd) (a : Opnd) (b : Opnd)
  /-- ACAS (R195). -/
  | acas (u : Bool) (d : Opnd) (a : Opnd) (b : Opnd)
  /-- DPLATE (R199). -/
  | dplate (u : Bool) (d : Opnd) (a : Opnd) (o : BitVec 8)
  /-- DPUB (R200). -/
  | dpub (d : Opnd) (n : BitVec 8)
  /-- GAL_RES (R232). -/
  | galRes (u : Bool) (d : Opnd) (a : Opnd)
  /-- GAL_COM (R233). -/
  | galCom (u : Bool) (d : Opnd) (a : Opnd)
  /-- GAL_TAKE (R234). -/
  | galTake (u : Bool) (d : Opnd) (a : Opnd)
  /-- GAL_FREE (R235). -/
  | galFree (u : Bool) (d : Opnd) (a : Opnd)
  /-- FPOP (R228). -/
  | fpop (u : Bool) (d : Opnd) (a : Opnd) (p : BitVec 6)
  /-- BR (R205). -/
  | br (u : Bool) (p : BitVec 6) (n : Bool) (o : BitVec 16)
  /-- JMP (R206). -/
  | jmp (u : Bool) (a : Opnd)
  /-- CALL (R207). -/
  | call (u : Bool) (p : BitVec 6) (n : Bool) (o : BitVec 16)
  /-- CALLR (R207). -/
  | callr (u : Bool) (a : Opnd)
  /-- RET (R208). -/
  | ret
  /-- EXIT (R209). -/
  | exit (u : Bool)
  /-- EXIT_SUCCESSOR (R209). -/
  | exitSuccessor (u : Bool) (a : Opnd)
  /-- BAR_MEET (R217). -/
  | barMeet (u : Bool) (d : BitVec 8)
  /-- BAR_POST (R217). -/
  | barPost (u : Bool) (d : BitVec 8)
  /-- BAR_AWAIT (R217). -/
  | barAwait (u : Bool) (d : BitVec 8)
  /-- WAITV (R219). -/
  | waitv (u : Bool) (d : Opnd) (a : Opnd) (b : Opnd)
  /-- SPAWN (R220). -/
  | spawn (u : Bool) (r : BitVec 5) (a : Opnd) (n : BitVec 8)
  /-- LAUNCH (R222). -/
  | launch (u : Bool) (a : Opnd)
  /-- FUT_WAIT (R239). -/
  | futWait (u : Bool) (d : Opnd) (a : Opnd)
  /-- FUT_TEST (R239). -/
  | futTest (u : Bool) (d : Opnd) (a : Opnd)
  /-- FUT_CANCEL (R240). -/
  | futCancel (u : Bool) (a : Opnd)
  /-- FUT_ADOPT (R241). -/
  | futAdopt (u : Bool) (d : Opnd) (a : Opnd)
  /-- TIM_CYC (R242). -/
  | timCyc (u : Bool) (d : Opnd)
  /-- TIM_WCYC (R242). -/
  | timWcyc (u : Bool) (a : Opnd)
  /-- TIM_PCLASS (R243). -/
  | timPclass (u : Bool) (a : Opnd)
  /-- TIM_YIELD (R243). -/
  | timYield (u : Bool)
  /-- TIM_LOCKQ (R244). -/
  | timLockq (u : Bool) (d : Opnd) (a : Opnd)
  /-- MMA (R254). -/
  | mma (r : Bool) (a : Opnd) (c : BitVec 6) (n : BitVec 2) (o : BitVec 3) (k : BitVec 4)
  /-- MMJ (R258). -/
  | mmj (r : Bool) (a : Opnd) (c : BitVec 6) (n : BitVec 2) (o : BitVec 3) (k : BitVec 4)
  /-- ACC_ZERO (R260). -/
  | accZero (c : BitVec 6) (n : BitVec 2) (x : BitVec 3)
  /-- ACC_LD (R261). -/
  | accLd (a : Opnd) (c : BitVec 6) (n : BitVec 2) (x : BitVec 3)
  /-- ACC_ST (R262). -/
  | accSt (a : Opnd) (c : BitVec 6) (n : BitVec 2) (x : BitVec 3)
  /-- ACC_RD (R263). -/
  | accRd (d : Opnd) (c : BitVec 6) (x : BitVec 3)
  /-- ACC_SCALE (R264). -/
  | accScale (a : Opnd) (c : BitVec 6) (n : BitVec 2) (x : BitVec 3)
  /-- SMP (R265). -/
  | smp (d : Opnd) (a : Opnd) (b : BitVec 5)
  /-- ENG_COPY (R272). -/
  | engCopy (u : Bool) (d : Opnd) (a : Opnd)
  /-- ENG_COLL (R273). -/
  | engColl (u : Bool) (d : Opnd) (a : Opnd)
  /-- ENG_GATH (R274). -/
  | engGath (u : Bool) (d : Opnd) (a : Opnd)
  /-- ENG_XFER (R275). -/
  | engXfer (u : Bool) (d : Opnd) (a : Opnd)
  /-- ENG_SMMA (R276). -/
  | engSmma (u : Bool) (d : Opnd) (a : Opnd)
  /-- ENG_WPIN (R277). -/
  | engWpin (u : Bool) (d : Opnd) (a : Opnd)
  /-- ENG_WINV (R277). -/
  | engWinv (u : Bool) (d : Opnd) (a : Opnd)
  /-- SYS_TRAP (R245). -/
  | sysTrap (u : Bool) (a : Opnd)
  /-- SYS_BRK (R245). -/
  | sysBrk (u : Bool) (a : Opnd)
  /-- SYS_PERF (R246). -/
  | sysPerf (u : Bool) (a : Opnd)
  /-- PRIM_TRI (R279). -/
  | primTri (d : Opnd) (a : Opnd)
  /-- PRIM_ELL (R279). -/
  | primEll (d : Opnd) (a : Opnd)
  /-- PRIM_PT (R279). -/
  | primPt (d : Opnd) (a : Opnd)
  /-- PRIM_CUT (R279). -/
  | primCut
  /-- PRIM_FOUT (R280). -/
  | primFout (a : Opnd)
  /-- PRIM_KILL (R280). -/
  | primKill
  /-- STARVED_QUEUE_ENTRY (R28). -/
  | starvedQueueEntry (gid : Nat)
  /-- LONG_LATENCY_COMPLETION (R56). -/
  | longLatencyCompletion (op : Nat)
  /-- GROUP_RETIRE (R41). -/
  | groupRetire (gid : Nat)
  /-- TEAM_RETIRE (R42). -/
  | teamRetire (tid : Nat)
  /-- REGROUP_MOVE (R47). -/
  | regroupMove (donor : Nat) (receiver : Nat)
  /-- BARRIER_WAVE_RELEASE (R218). -/
  | barrierWaveRelease (tid : Nat) (b : Nat)
  /-- PLACEMENT_WAVE (R397). -/
  | placementWave (tid : Nat)
  /-- TASK_WAVE_TIMEOUT (R36). -/
  | taskWaveTimeout (cluster : Nat) (wave : Nat)
  /-- TASK_WAVE_PLACEMENT (R38). -/
  | taskWavePlacement (cluster : Nat)
  /-- EVALUATOR_PLACEMENT (R338). -/
  | evaluatorPlacement (part : Nat)
  /-- WAITER_REPLAY (R341). -/
  | waiterReplay (cell : Nat)
  /-- DEFER_TIMEOUT (R344). -/
  | deferTimeout (cell : Nat) (op : Nat)
  /-- MATRIX_OPERATION (R250). -/
  | matrixOperation (core : Nat)
  /-- JOINT_OPERATION_START (R258). -/
  | jointOperationStart (tid : Nat)
  /-- JOINT_TIMEOUT (R259). -/
  | jointTimeout (tid : Nat)
  /-- ENGINE_COMPLETION (R270). -/
  | engineCompletion (eng : Nat)
  /-- LAUNCH_COMPLETE (R226). -/
  | launchComplete (launch : Nat)
  /-- PENDING_LAUNCH_ACCEPT (R359). -/
  | pendingLaunchAccept (tid : Nat)
  /-- TEAM_PLACEMENT (R357). -/
  | teamPlacement (part : Nat)
  /-- SWAP_OUT (R360). -/
  | swapOut (tid : Nat)
  /-- WAITV_RECHECK (R219). -/
  | waitvRecheck (gid : Nat)
  /-- TIM_WCYC_RELEASE (R392). -/
  | timWcycRelease (gid : Nat)
  /-- TRANSLATION_WALK (R313). -/
  | translationWalk (core : Nat) (va : DWord) (wr : Bool)
  /-- PARK (R317). -/
  | park (gid : Nat)
  /-- PARKED_SWITCH_OUT (R319). -/
  | parkedSwitchOut (part : Nat)
  /-- HALT (R320). -/
  | halt (part : Nat)
  /-- PREEMPT_SAVE (R326). -/
  | preemptSave (part : Nat)
  /-- PREEMPT_TIMEOUT (R326). -/
  | preemptTimeout (part : Nat)
  /-- WATCHDOG (R330). -/
  | watchdog (part : Nat)
  /-- LOCKUP_BREACH (R390). -/
  | lockupBreach (op : Nat)
  /-- REFERENCE_PAUSE (R401). -/
  | referencePause (part : Nat)
  /-- L2_LINE_MIGRATION (R287). -/
  | l2LineMigration (part : Nat) (line : Nat) (slice : Nat)
  /-- TELEMETRY_SLOT (R399). -/
  | telemetrySlot (cluster : Nat) (thermal : List Nat) (current : List Nat) (power : Nat)
  /-- SENSOR_FAIL (R400). -/
  | sensorFail (cluster : Nat) (kind : SensorKind) (idx : Nat)
  /-- LIMIT_STATE_CHANGE (R399). -/
  | limitStateChange (cluster : Nat) (src : LimitSource) (level : Nat)
  /-- CLASS_CHANGE (R395). -/
  | classChange (cluster : Nat)
  /-- DROOP_STRETCH (R385). -/
  | droopStretch (cluster : Nat)
  /-- DOORBELL (R406). -/
  | doorbell (part : Nat) (queue : Nat) (value : DWord)
  /-- STOPTAIL (R323). -/
  | stoptail (part : Nat) (value : DWord)
  /-- LAUNCH_PACKET (R349). -/
  | launchPacket (part : Nat) (queue : Nat)
  /-- FEED (R351). -/
  | feed (part : Nat) (queue : Nat)
  /-- WAIT (R350). -/
  | wait (part : Nat) (queue : Nat)
  /-- WAIT_RECHECK (R350). -/
  | waitRecheck (part : Nat) (queue : Nat)
  /-- SIGNAL (R350). -/
  | signal (part : Nat) (queue : Nat)
  /-- DRAW (R377). -/
  | draw (part : Nat) (queue : Nat)
  /-- COPY (R350). -/
  | copy (part : Nat) (queue : Nat)
  /-- FENCE (R349). -/
  | fence (part : Nat) (queue : Nat)
  /-- INDIRECT (R353). -/
  | indirect (part : Nat) (queue : Nat)
  /-- TIMESTAMP (R350). -/
  | timestamp (part : Nat) (queue : Nat)
  /-- NOP (R349). -/
  | nop (part : Nat) (queue : Nat)
  /-- DRAW_FRAME_ALLOCATION (R378). -/
  | drawFrameAllocation (part : Nat)
  /-- FRAGMENT_GROUP_RELEASE (R380). -/
  | fragmentGroupRelease (part : Nat) (draw : Nat) (tile : Nat) (count : Nat)
  /-- FRAGMENT_GROUP_PLACEMENT (R380). -/
  | fragmentGroupPlacement (cluster : Nat)
  /-- TILE_FRAME_LOAD (R378). -/
  | tileFrameLoad (part : Nat) (draw : Nat) (tile : Nat)
  /-- OVERPRINT_FRAGMENT (R383). -/
  | overprintFragment (part : Nat) (draw : Nat) (px : Nat) (py : Nat)
  /-- TILE_WRITE_BACK (R378). -/
  | tileWriteBack (part : Nat) (draw : Nat) (tile : Nat)
  /-- SAMPLER_QUAD (R372). -/
  | samplerQuad (core : Nat) (sampler : Nat)
  /-- WEIGHT_FILL (R373). -/
  | weightFill (core : Nat) (sampler : Nat)
  /-- WINV_OBSERVE (R374). -/
  | winvObserve (core : Nat) (sampler : Nat)
  /-- HOST_WRITE (R335). -/
  | hostWrite (src : Outside) (addr : Nat) (data : List Byte)
  /-- HOST_READ (R307). -/
  | hostRead (src : Outside) (addr : Nat) (n : Nat)
  /-- LINK_UNREACHABLE (R410). -/
  | linkUnreachable (port : Nat)
  /-- PCIE_LINK_TRAINED (R404). -/
  | pcieLinkTrained (width : Nat) (gen : Nat)
  /-- HOST_ATOMIC (R404). -/
  | hostAtomic (src : Outside) (kind : HostAtom) (addr : Nat) (wide : Bool) (x : DWord) (y : DWord)
  /-- L1_LINE_EVICTION (R297). -/
  | l1LineEviction (core : Nat) (line : Nat)
  /-- WRITE_PERFORMED (R298). -/
  | writePerformed (core : Nat) (line : Nat)
  /-- UNIT_FAILURE (R403). -/
  | unitFailure (kind : UnitKind) (idx : Nat)
  /-- MEMORY_REFRESH (R393). -/
  | memoryRefresh
  /-- SCRUB_PASS (R282). -/
  | scrubPass
  /-- THERMAL_STOP (R402). -/
  | thermalStop
  /-- POWER_ON (R412). -/
  | powerOn
  /-- CREATE (R332). -/
  | create
  /-- START (R408). -/
  | start
  /-- PREEMPT (R326). -/
  | preempt
  /-- RESUME (R331). -/
  | resume
  /-- KILL (R329). -/
  | kill
  /-- SHOOTDOWN (R315). -/
  | shootdown
  /-- PARKRES (R317). -/
  | parkres
  /-- QUEUE (R347). -/
  | queue
  /-- QRESET (R352). -/
  | qreset
  /-- PARTITION (R408). -/
  | partition
  /-- UPDATE (R413). -/
  | update
  /-- UPDATE_TAKEOVER (R413). -/
  | updateTakeover
  /-- ATTEST (R415). -/
  | attest
  /-- CLEAR (R416). -/
  | clear
  deriving DecidableEq, Repr

end Sys2Proof
end

