-- ==== Sys2Proof/Decode.lean ====
section
/-!
DEFINITION. Decoding and encoding of instruction words (R59, R60, R93-R95). A word is read as a number, bit 0 its least
significant bit; four bytes of memory hold it little-endian (R7, R51). `decodeWord` is total: a word that is no
instruction answers `none`, and `badWord` names its fate (R96).
-/
namespace Sys2Proof

/-- The field of `len` bits of `w` whose lowest bit is `lo`. -/
def fld (w lo len : Nat) : Nat := w / 2 ^ lo % 2 ^ len

def Const.ofIndex : Nat → Const
  | 0 => .zero | 1 => .one | 2 => .mone | 3 => .half | _ => .two

def Const.index : Const → Nat
  | .zero => 0 | .one => 1 | .mone => 2 | .half => 3 | .two => 4

def Special.ofIndex : Nat → Special
  | 0 => .lid | 1 => .gix | 2 => .tix | 3 => .width | 4 => .glid | _ => .core

def Special.index : Special → Nat
  | .lid => 0 | .gix => 1 | .tix => 2 | .width => 3 | .glid => 4 | .core => 5

/-- The operand an 8-bit code names (R62). -/
def Opnd.ofCode (n : Nat) : Opnd :=
  if h : n < 192 then .v ⟨n, h⟩
  else if n < 224 then .s (Fin.ofNat 32 (n - 192))
  else if n < 232 then .vx (Fin.ofNat 8 (n - 224))
  else if n < 240 then .lit (Fin.ofNat 8 (n - 232))
  else if n < 245 then .const (.ofIndex (n - 240))
  else if n < 251 then .special (.ofIndex (n - 245))
  else if n < 255 then .reserved (Fin.ofNat 4 (n - 251))
  else .sink

/-- The code of an operand (R62). -/
def Opnd.code : Opnd → Nat
  | .v n => n.val
  | .s n => 192 + n.val
  | .vx k => 224 + k.val
  | .lit k => 232 + k.val
  | .const c => 240 + c.index
  | .special x => 245 + x.index
  | .reserved n => 251 + n.val
  | .sink => 255

/-- Decoding of the major opcodes 0x0 to 0xf (R94, R95). -/
def decodeOp0 (op w : Nat) : Option Instr :=
  if op = 0x1 then
    if fld w 24 1 = 1 then
      some (.mode (BitVec.ofNat 8 (fld w 16 8)) (BitVec.ofNat 16 (fld w 0 16)))
    else none
  else if op = 0x2 then
    if fld w 7 18 = 131072 then
      some (.guard (fld w 6 1 == 1) (BitVec.ofNat 6 (fld w 0 6)))
    else none
  else if op = 0x3 then
    if fld w 24 1 = 1 ∧ fld w 0 8 = 0 then
      some (.fmt (BitVec.ofNat 8 (fld w 16 8)) (Opnd.ofCode (fld w 8 8)))
    else none
  else if op = 0x4 then
    if fld w 24 1 = 1 ∧ fld w 0 8 = 0 then
      some (.omap (BitVec.ofNat 8 (fld w 16 8)) (Opnd.ofCode (fld w 8 8)))
    else none
  else if op = 0x5 then
    if fld w 16 5 = 0 then
      some (.xset (fld w 24 1 == 1) (BitVec.ofNat 3 (fld w 21 3)) (BitVec.ofNat 8 (fld w 8 8)) (BitVec.ofNat 8 (fld w 0 8)))
    else none
  else if op = 0x6 then
    if fld w 16 5 = 0 ∧ fld w 0 8 = 0 then
      some (.xoff (fld w 24 1 == 1) (BitVec.ofNat 3 (fld w 21 3)) (Opnd.ofCode (fld w 8 8)))
    else none
  else if op = 0x7 then
    if fld w 16 5 = 0 ∧ fld w 0 8 = 0 then
      some (.xadd (fld w 24 1 == 1) (BitVec.ofNat 3 (fld w 21 3)) (Opnd.ofCode (fld w 8 8)))
    else none
  else if op = 0x8 then
    if fld w 0 8 = 0 then
      some (.mov (fld w 24 1 == 1) (Opnd.ofCode (fld w 16 8)) (Opnd.ofCode (fld w 8 8)))
    else none
  else if op = 0x9 then
    some (.movi (fld w 24 1 == 1) (Opnd.ofCode (fld w 16 8)) (BitVec.ofNat 16 (fld w 0 16)))
  else if op = 0xa then
    some (.movh (fld w 24 1 == 1) (Opnd.ofCode (fld w 16 8)) (BitVec.ofNat 16 (fld w 0 16)))
  else if op = 0xb then
    some (.sel (fld w 24 1 == 1) (Opnd.ofCode (fld w 16 8)) (Opnd.ofCode (fld w 8 8)) (Opnd.ofCode (fld w 0 8)))
  else if op = 0xc then
    some (.retag (fld w 24 1 == 1) (Opnd.ofCode (fld w 16 8)) (Opnd.ofCode (fld w 8 8)) (BitVec.ofNat 8 (fld w 0 8)))
  else if op = 0xd then
    if fld w 0 8 = 0 then
      some (.tagof (fld w 24 1 == 1) (Opnd.ofCode (fld w 16 8)) (Opnd.ofCode (fld w 8 8)))
    else none
  else if op = 0xe then
    some (.rdsr (fld w 24 1 == 1) (Opnd.ofCode (fld w 16 8)) (BitVec.ofNat 16 (fld w 0 16)))
  else if op = 0xf then
    some (.wrsr (fld w 24 1 == 1) (Opnd.ofCode (fld w 16 8)) (BitVec.ofNat 16 (fld w 0 16)))
  else none

/-- Decoding of the major opcodes 0x10 to 0x1f (R94, R95). -/
def decodeOp1 (op w : Nat) : Option Instr :=
  if op = 0x10 then
    some (.add (fld w 24 1 == 1) (Opnd.ofCode (fld w 16 8)) (Opnd.ofCode (fld w 8 8)) (Opnd.ofCode (fld w 0 8)))
  else if op = 0x11 then
    some (.sub (fld w 24 1 == 1) (Opnd.ofCode (fld w 16 8)) (Opnd.ofCode (fld w 8 8)) (Opnd.ofCode (fld w 0 8)))
  else if op = 0x12 then
    some (.mul (fld w 24 1 == 1) (Opnd.ofCode (fld w 16 8)) (Opnd.ofCode (fld w 8 8)) (Opnd.ofCode (fld w 0 8)))
  else if op = 0x13 then
    some (.mulh (fld w 24 1 == 1) (Opnd.ofCode (fld w 16 8)) (Opnd.ofCode (fld w 8 8)) (Opnd.ofCode (fld w 0 8)))
  else if op = 0x14 then
    some (.mad (fld w 24 1 == 1) (Opnd.ofCode (fld w 16 8)) (Opnd.ofCode (fld w 8 8)) (Opnd.ofCode (fld w 0 8)))
  else if op = 0x15 then
    some (.div (fld w 24 1 == 1) (Opnd.ofCode (fld w 16 8)) (Opnd.ofCode (fld w 8 8)) (Opnd.ofCode (fld w 0 8)))
  else if op = 0x16 then
    some (.rem (fld w 24 1 == 1) (Opnd.ofCode (fld w 16 8)) (Opnd.ofCode (fld w 8 8)) (Opnd.ofCode (fld w 0 8)))
  else if op = 0x17 then
    some (.min (fld w 24 1 == 1) (Opnd.ofCode (fld w 16 8)) (Opnd.ofCode (fld w 8 8)) (Opnd.ofCode (fld w 0 8)))
  else if op = 0x18 then
    some (.max (fld w 24 1 == 1) (Opnd.ofCode (fld w 16 8)) (Opnd.ofCode (fld w 8 8)) (Opnd.ofCode (fld w 0 8)))
  else if op = 0x19 then
    if fld w 0 8 = 0 then
      some (.abs (fld w 24 1 == 1) (Opnd.ofCode (fld w 16 8)) (Opnd.ofCode (fld w 8 8)))
    else none
  else if op = 0x1a then
    if fld w 0 8 = 0 then
      some (.neg (fld w 24 1 == 1) (Opnd.ofCode (fld w 16 8)) (Opnd.ofCode (fld w 8 8)))
    else none
  else if op = 0x1b then
    some (.add64 (fld w 24 1 == 1) (Opnd.ofCode (fld w 16 8)) (Opnd.ofCode (fld w 8 8)) (Opnd.ofCode (fld w 0 8)))
  else if op = 0x1c then
    some (.mad64 (fld w 24 1 == 1) (Opnd.ofCode (fld w 16 8)) (Opnd.ofCode (fld w 8 8)) (Opnd.ofCode (fld w 0 8)))
  else if op = 0x1d then
    some (.clamp (fld w 24 1 == 1) (Opnd.ofCode (fld w 16 8)) (Opnd.ofCode (fld w 8 8)) (Opnd.ofCode (fld w 0 8)))
  else if op = 0x1e then
    some (.addi (fld w 24 1 == 1) (Opnd.ofCode (fld w 16 8)) (BitVec.ofNat 16 (fld w 0 16)))
  else if op = 0x1f then
    some (.muli (fld w 24 1 == 1) (Opnd.ofCode (fld w 16 8)) (BitVec.ofNat 16 (fld w 0 16)))
  else none

/-- Decoding of the major opcodes 0x20 to 0x2f (R94, R95). -/
def decodeOp2 (op w : Nat) : Option Instr :=
  if op = 0x20 then
    some (.and (fld w 24 1 == 1) (Opnd.ofCode (fld w 16 8)) (Opnd.ofCode (fld w 8 8)) (Opnd.ofCode (fld w 0 8)))
  else if op = 0x21 then
    some (.or (fld w 24 1 == 1) (Opnd.ofCode (fld w 16 8)) (Opnd.ofCode (fld w 8 8)) (Opnd.ofCode (fld w 0 8)))
  else if op = 0x22 then
    some (.xor (fld w 24 1 == 1) (Opnd.ofCode (fld w 16 8)) (Opnd.ofCode (fld w 8 8)) (Opnd.ofCode (fld w 0 8)))
  else if op = 0x23 then
    if fld w 0 8 = 0 then
      some (.not (fld w 24 1 == 1) (Opnd.ofCode (fld w 16 8)) (Opnd.ofCode (fld w 8 8)))
    else none
  else if op = 0x24 then
    some (.andn (fld w 24 1 == 1) (Opnd.ofCode (fld w 16 8)) (Opnd.ofCode (fld w 8 8)) (Opnd.ofCode (fld w 0 8)))
  else if op = 0x25 then
    some (.shl (fld w 24 1 == 1) (Opnd.ofCode (fld w 16 8)) (Opnd.ofCode (fld w 8 8)) (Opnd.ofCode (fld w 0 8)))
  else if op = 0x26 then
    some (.shr (fld w 24 1 == 1) (Opnd.ofCode (fld w 16 8)) (Opnd.ofCode (fld w 8 8)) (Opnd.ofCode (fld w 0 8)))
  else if op = 0x27 then
    some (.sra (fld w 24 1 == 1) (Opnd.ofCode (fld w 16 8)) (Opnd.ofCode (fld w 8 8)) (Opnd.ofCode (fld w 0 8)))
  else if op = 0x28 then
    some (.rot (fld w 24 1 == 1) (Opnd.ofCode (fld w 16 8)) (Opnd.ofCode (fld w 8 8)) (Opnd.ofCode (fld w 0 8)))
  else if op = 0x29 then
    if fld w 0 8 = 0 then
      some (.popc (fld w 24 1 == 1) (Opnd.ofCode (fld w 16 8)) (Opnd.ofCode (fld w 8 8)))
    else none
  else if op = 0x2a then
    if fld w 0 8 = 0 then
      some (.clz (fld w 24 1 == 1) (Opnd.ofCode (fld w 16 8)) (Opnd.ofCode (fld w 8 8)))
    else none
  else if op = 0x2b then
    if fld w 0 8 = 0 then
      some (.brev (fld w 24 1 == 1) (Opnd.ofCode (fld w 16 8)) (Opnd.ofCode (fld w 8 8)))
    else none
  else if op = 0x2c then
    some (.bfx (fld w 24 1 == 1) (Opnd.ofCode (fld w 16 8)) (Opnd.ofCode (fld w 8 8)) (Opnd.ofCode (fld w 0 8)))
  else if op = 0x2d then
    some (.bfi (fld w 24 1 == 1) (Opnd.ofCode (fld w 16 8)) (Opnd.ofCode (fld w 8 8)) (Opnd.ofCode (fld w 0 8)))
  else if op = 0x2e then
    some (.perm (fld w 24 1 == 1) (Opnd.ofCode (fld w 16 8)) (Opnd.ofCode (fld w 8 8)) (Opnd.ofCode (fld w 0 8)))
  else if op = 0x2f then
    if fld w 0 8 = 0 then
      some (.ffs (fld w 24 1 == 1) (Opnd.ofCode (fld w 16 8)) (Opnd.ofCode (fld w 8 8)))
    else none
  else none

/-- Decoding of the major opcodes 0x30 to 0x3f (R94, R95). -/
def decodeOp3 (op w : Nat) : Option Instr :=
  if op = 0x30 then
    some (.ceq (fld w 24 1 == 1) (BitVec.ofNat 6 (fld w 18 6)) (BitVec.ofNat 2 (fld w 16 2)) (Opnd.ofCode (fld w 8 8)) (Opnd.ofCode (fld w 0 8)))
  else if op = 0x31 then
    some (.cne (fld w 24 1 == 1) (BitVec.ofNat 6 (fld w 18 6)) (BitVec.ofNat 2 (fld w 16 2)) (Opnd.ofCode (fld w 8 8)) (Opnd.ofCode (fld w 0 8)))
  else if op = 0x32 then
    some (.clt (fld w 24 1 == 1) (BitVec.ofNat 6 (fld w 18 6)) (BitVec.ofNat 2 (fld w 16 2)) (Opnd.ofCode (fld w 8 8)) (Opnd.ofCode (fld w 0 8)))
  else if op = 0x33 then
    some (.cle (fld w 24 1 == 1) (BitVec.ofNat 6 (fld w 18 6)) (BitVec.ofNat 2 (fld w 16 2)) (Opnd.ofCode (fld w 8 8)) (Opnd.ofCode (fld w 0 8)))
  else if op = 0x34 then
    some (.cgt (fld w 24 1 == 1) (BitVec.ofNat 6 (fld w 18 6)) (BitVec.ofNat 2 (fld w 16 2)) (Opnd.ofCode (fld w 8 8)) (Opnd.ofCode (fld w 0 8)))
  else if op = 0x35 then
    some (.cge (fld w 24 1 == 1) (BitVec.ofNat 6 (fld w 18 6)) (BitVec.ofNat 2 (fld w 16 2)) (Opnd.ofCode (fld w 8 8)) (Opnd.ofCode (fld w 0 8)))
  else if op = 0x36 then
    some (.cun (fld w 24 1 == 1) (BitVec.ofNat 6 (fld w 18 6)) (BitVec.ofNat 2 (fld w 16 2)) (Opnd.ofCode (fld w 8 8)) (Opnd.ofCode (fld w 0 8)))
  else if op = 0x37 then
    some (.cclass (fld w 24 1 == 1) (BitVec.ofNat 6 (fld w 18 6)) (BitVec.ofNat 2 (fld w 16 2)) (Opnd.ofCode (fld w 8 8)) (Opnd.ofCode (fld w 0 8)))
  else if op = 0x38 then
    some (.plog (fld w 24 1 == 1) (BitVec.ofNat 6 (fld w 18 6)) (BitVec.ofNat 2 (fld w 16 2)) (BitVec.ofNat 2 (fld w 15 1 * 2 + fld w 7 1)) (fld w 14 1 == 1) (BitVec.ofNat 6 (fld w 8 6)) (fld w 6 1 == 1) (BitVec.ofNat 6 (fld w 0 6)))
  else if op = 0x39 then
    some (.ptov (fld w 24 1 == 1) (Opnd.ofCode (fld w 16 8)) (BitVec.ofNat 8 (fld w 8 8)) (BitVec.ofNat 8 (fld w 0 8)))
  else if op = 0x3a then
    some (.vtop (fld w 24 1 == 1) (BitVec.ofNat 6 (fld w 18 6)) (BitVec.ofNat 2 (fld w 16 2)) (Opnd.ofCode (fld w 8 8)) (Opnd.ofCode (fld w 0 8)))
  else if op = 0x3b then
    some (.pset (fld w 24 1 == 1) (BitVec.ofNat 6 (fld w 18 6)) (BitVec.ofNat 2 (fld w 16 2)) (Opnd.ofCode (fld w 8 8)) (Opnd.ofCode (fld w 0 8)))
  else if op = 0x3c then
    if fld w 24 1 = 0 then
      some (.shfl (Opnd.ofCode (fld w 16 8)) (Opnd.ofCode (fld w 8 8)) (Opnd.ofCode (fld w 0 8)))
    else none
  else if op = 0x3d then
    if fld w 24 1 = 0 then
      some (.shfx (Opnd.ofCode (fld w 16 8)) (Opnd.ofCode (fld w 8 8)) (Opnd.ofCode (fld w 0 8)))
    else none
  else if op = 0x3e then
    if fld w 22 3 = 0 ∧ fld w 15 1 = 0 ∧ fld w 0 8 = 0 then
      some (.laneAny (BitVec.ofNat 6 (fld w 16 6)) (fld w 14 1 == 1) (BitVec.ofNat 6 (fld w 8 6)))
    else if fld w 22 3 = 0 ∧ fld w 15 1 = 0 ∧ fld w 0 8 = 1 then
      some (.laneAll (BitVec.ofNat 6 (fld w 16 6)) (fld w 14 1 == 1) (BitVec.ofNat 6 (fld w 8 6)))
    else if fld w 24 1 = 0 ∧ fld w 15 1 = 0 ∧ fld w 0 8 = 2 then
      some (.laneBallot (Opnd.ofCode (fld w 16 8)) (fld w 14 1 == 1) (BitVec.ofNat 6 (fld w 8 6)))
    else if fld w 24 1 = 0 ∧ fld w 0 8 = 3 then
      some (.laneBcast (Opnd.ofCode (fld w 16 8)) (Opnd.ofCode (fld w 8 8)))
    else if fld w 24 1 = 0 ∧ fld w 15 1 = 0 ∧ fld w 0 8 = 4 then
      some (.laneCount (Opnd.ofCode (fld w 16 8)) (fld w 14 1 == 1) (BitVec.ofNat 6 (fld w 8 6)))
    else if fld w 24 1 = 0 ∧ fld w 15 1 = 0 ∧ fld w 0 8 = 5 then
      some (.laneFirst (Opnd.ofCode (fld w 16 8)) (fld w 14 1 == 1) (BitVec.ofNat 6 (fld w 8 6)))
    else if fld w 24 1 = 0 ∧ fld w 0 16 = 6 then
      some (.laneRnd (Opnd.ofCode (fld w 16 8)))
    else if fld w 24 1 = 0 ∧ fld w 0 8 = 7 then
      some (.laneRadd (Opnd.ofCode (fld w 16 8)) (Opnd.ofCode (fld w 8 8)))
    else if fld w 24 1 = 0 ∧ fld w 0 8 = 8 then
      some (.laneRmin (Opnd.ofCode (fld w 16 8)) (Opnd.ofCode (fld w 8 8)))
    else if fld w 24 1 = 0 ∧ fld w 0 8 = 9 then
      some (.laneRmax (Opnd.ofCode (fld w 16 8)) (Opnd.ofCode (fld w 8 8)))
    else if fld w 24 1 = 0 ∧ fld w 0 8 = 10 then
      some (.laneRband (Opnd.ofCode (fld w 16 8)) (Opnd.ofCode (fld w 8 8)))
    else if fld w 24 1 = 0 ∧ fld w 0 8 = 11 then
      some (.laneRbor (Opnd.ofCode (fld w 16 8)) (Opnd.ofCode (fld w 8 8)))
    else if fld w 24 1 = 0 ∧ fld w 0 8 = 12 then
      some (.laneRbxor (Opnd.ofCode (fld w 16 8)) (Opnd.ofCode (fld w 8 8)))
    else if fld w 24 1 = 0 ∧ fld w 0 8 = 13 then
      some (.laneScan (Opnd.ofCode (fld w 16 8)) (Opnd.ofCode (fld w 8 8)))
    else none
  else if op = 0x3f then
    if fld w 16 2 = 0 ∧ fld w 0 8 = 0 then
      some (.regrpGive (fld w 24 1 == 1) (BitVec.ofNat 6 (fld w 18 6)) (Opnd.ofCode (fld w 8 8)))
    else if fld w 16 2 = 0 ∧ fld w 0 8 = 1 then
      some (.regrpTake (fld w 24 1 == 1) (BitVec.ofNat 6 (fld w 18 6)) (Opnd.ofCode (fld w 8 8)))
    else none
  else none

/-- Decoding of the major opcodes 0x40 to 0x4f (R94, R95). -/
def decodeOp4 (op w : Nat) : Option Instr :=
  if op = 0x41 then
    some (.fms (fld w 24 1 == 1) (Opnd.ofCode (fld w 16 8)) (Opnd.ofCode (fld w 8 8)) (Opnd.ofCode (fld w 0 8)))
  else if op = 0x42 then
    some (.fnma (fld w 24 1 == 1) (Opnd.ofCode (fld w 16 8)) (Opnd.ofCode (fld w 8 8)) (Opnd.ofCode (fld w 0 8)))
  else if op = 0x43 then
    if fld w 0 8 = 0 then
      some (.rcp (fld w 24 1 == 1) (Opnd.ofCode (fld w 16 8)) (Opnd.ofCode (fld w 8 8)))
    else none
  else if op = 0x44 then
    if fld w 0 8 = 0 then
      some (.rsq (fld w 24 1 == 1) (Opnd.ofCode (fld w 16 8)) (Opnd.ofCode (fld w 8 8)))
    else none
  else if op = 0x45 then
    if fld w 0 8 = 0 then
      some (.sqrt (fld w 24 1 == 1) (Opnd.ofCode (fld w 16 8)) (Opnd.ofCode (fld w 8 8)))
    else none
  else if op = 0x46 then
    if fld w 0 8 = 0 then
      some (.exp2 (fld w 24 1 == 1) (Opnd.ofCode (fld w 16 8)) (Opnd.ofCode (fld w 8 8)))
    else none
  else if op = 0x47 then
    if fld w 0 8 = 0 then
      some (.log2 (fld w 24 1 == 1) (Opnd.ofCode (fld w 16 8)) (Opnd.ofCode (fld w 8 8)))
    else none
  else if op = 0x48 then
    if fld w 0 8 = 0 then
      some (.sinp (fld w 24 1 == 1) (Opnd.ofCode (fld w 16 8)) (Opnd.ofCode (fld w 8 8)))
    else none
  else if op = 0x49 then
    if fld w 0 8 = 0 then
      some (.cosp (fld w 24 1 == 1) (Opnd.ofCode (fld w 16 8)) (Opnd.ofCode (fld w 8 8)))
    else none
  else if op = 0x4a then
    if fld w 0 8 = 0 then
      some (.frac (fld w 24 1 == 1) (Opnd.ofCode (fld w 16 8)) (Opnd.ofCode (fld w 8 8)))
    else none
  else if op = 0x4b then
    if fld w 0 8 = 0 then
      some (.rint (fld w 24 1 == 1) (Opnd.ofCode (fld w 16 8)) (Opnd.ofCode (fld w 8 8)))
    else none
  else if op = 0x4c then
    if fld w 7 1 = 0 then
      some (.cvt (fld w 24 1 == 1) (Opnd.ofCode (fld w 16 8)) (Opnd.ofCode (fld w 8 8)) (BitVec.ofNat 3 (fld w 4 3)) (BitVec.ofNat 4 (fld w 0 4)))
    else none
  else if op = 0x4d then
    if fld w 7 1 = 0 then
      some (.pack (fld w 24 1 == 1) (Opnd.ofCode (fld w 16 8)) (Opnd.ofCode (fld w 8 8)) (BitVec.ofNat 3 (fld w 4 3)) (BitVec.ofNat 4 (fld w 0 4)))
    else none
  else if op = 0x4e then
    if fld w 7 1 = 0 then
      some (.unpack (fld w 24 1 == 1) (Opnd.ofCode (fld w 16 8)) (Opnd.ofCode (fld w 8 8)) (BitVec.ofNat 3 (fld w 4 3)) (BitVec.ofNat 4 (fld w 0 4)))
    else none
  else if op = 0x4f then
    some (.dot (fld w 24 1 == 1) (Opnd.ofCode (fld w 16 8)) (Opnd.ofCode (fld w 8 8)) (Opnd.ofCode (fld w 0 8)))
  else none

/-- Decoding of the major opcodes 0x50 to 0x5f (R94, R95). -/
def decodeOp5 (op w : Nat) : Option Instr :=
  if op = 0x50 then
    some (.ld8 (fld w 24 1 == 1) (Opnd.ofCode (fld w 16 8)) (Opnd.ofCode (fld w 8 8)) (BitVec.ofNat 8 (fld w 0 8)))
  else if op = 0x51 then
    some (.ld16 (fld w 24 1 == 1) (Opnd.ofCode (fld w 16 8)) (Opnd.ofCode (fld w 8 8)) (BitVec.ofNat 8 (fld w 0 8)))
  else if op = 0x52 then
    some (.ld32 (fld w 24 1 == 1) (Opnd.ofCode (fld w 16 8)) (Opnd.ofCode (fld w 8 8)) (BitVec.ofNat 8 (fld w 0 8)))
  else if op = 0x53 then
    some (.ld64 (fld w 24 1 == 1) (Opnd.ofCode (fld w 16 8)) (Opnd.ofCode (fld w 8 8)) (BitVec.ofNat 8 (fld w 0 8)))
  else if op = 0x54 then
    some (.ld128 (fld w 24 1 == 1) (Opnd.ofCode (fld w 16 8)) (Opnd.ofCode (fld w 8 8)) (BitVec.ofNat 8 (fld w 0 8)))
  else if op = 0x55 then
    some (.st8 (fld w 24 1 == 1) (Opnd.ofCode (fld w 16 8)) (Opnd.ofCode (fld w 8 8)) (BitVec.ofNat 8 (fld w 0 8)))
  else if op = 0x56 then
    some (.st16 (fld w 24 1 == 1) (Opnd.ofCode (fld w 16 8)) (Opnd.ofCode (fld w 8 8)) (BitVec.ofNat 8 (fld w 0 8)))
  else if op = 0x57 then
    some (.st32 (fld w 24 1 == 1) (Opnd.ofCode (fld w 16 8)) (Opnd.ofCode (fld w 8 8)) (BitVec.ofNat 8 (fld w 0 8)))
  else if op = 0x58 then
    some (.st64 (fld w 24 1 == 1) (Opnd.ofCode (fld w 16 8)) (Opnd.ofCode (fld w 8 8)) (BitVec.ofNat 8 (fld w 0 8)))
  else if op = 0x59 then
    some (.st128 (fld w 24 1 == 1) (Opnd.ofCode (fld w 16 8)) (Opnd.ofCode (fld w 8 8)) (BitVec.ofNat 8 (fld w 0 8)))
  else if op = 0x5a then
    some (.lda (fld w 24 1 == 1) (Opnd.ofCode (fld w 16 8)) (Opnd.ofCode (fld w 8 8)) (BitVec.ofNat 8 (fld w 0 8)))
  else if op = 0x5b then
    some (.strl (fld w 24 1 == 1) (Opnd.ofCode (fld w 16 8)) (Opnd.ofCode (fld w 8 8)) (BitVec.ofNat 8 (fld w 0 8)))
  else if op = 0x5c then
    if fld w 0 24 = 0 then
      some (.fenceFull (fld w 24 1 == 1))
    else if fld w 0 24 = 65536 then
      some (.fenceAcq (fld w 24 1 == 1))
    else if fld w 0 24 = 131072 then
      some (.fenceRel (fld w 24 1 == 1))
    else if fld w 0 24 = 196608 then
      some (.fenceEngine (fld w 24 1 == 1))
    else none
  else if op = 0x5d then
    if 3 < fld w 16 4 then none
    else if fld w 20 4 = 0 then
      some (.cmoClean (fld w 24 1 == 1) (BitVec.ofNat 4 (fld w 16 4)) (Opnd.ofCode (fld w 8 8)) (Opnd.ofCode (fld w 0 8)))
    else if fld w 20 4 = 1 then
      some (.cmoInv (fld w 24 1 == 1) (BitVec.ofNat 4 (fld w 16 4)) (Opnd.ofCode (fld w 8 8)) (Opnd.ofCode (fld w 0 8)))
    else if fld w 20 4 = 2 then
      some (.cmoCinv (fld w 24 1 == 1) (BitVec.ofNat 4 (fld w 16 4)) (Opnd.ofCode (fld w 8 8)) (Opnd.ofCode (fld w 0 8)))
    else if fld w 20 4 = 3 then
      some (.cmoSettle (fld w 24 1 == 1) (BitVec.ofNat 4 (fld w 16 4)) (Opnd.ofCode (fld w 8 8)) (Opnd.ofCode (fld w 0 8)))
    else none
  else if op = 0x5e then
    if fld w 17 7 = 0 then
      some (.pref (fld w 24 1 == 1) (fld w 16 1 == 1) (Opnd.ofCode (fld w 8 8)) (BitVec.ofNat 8 (fld w 0 8)))
    else none
  else if op = 0x5f then
    some (.dtag (fld w 24 1 == 1) (Opnd.ofCode (fld w 16 8)) (Opnd.ofCode (fld w 8 8)) (BitVec.ofNat 8 (fld w 0 8)))
  else none

/-- Decoding of the major opcodes 0x60 to 0x6f (R94, R95). -/
def decodeOp6 (op w : Nat) : Option Instr :=
  if op = 0x60 then
    some (.aadd (fld w 24 1 == 1) (Opnd.ofCode (fld w 16 8)) (Opnd.ofCode (fld w 8 8)) (Opnd.ofCode (fld w 0 8)))
  else if op = 0x61 then
    some (.amin (fld w 24 1 == 1) (Opnd.ofCode (fld w 16 8)) (Opnd.ofCode (fld w 8 8)) (Opnd.ofCode (fld w 0 8)))
  else if op = 0x62 then
    some (.amax (fld w 24 1 == 1) (Opnd.ofCode (fld w 16 8)) (Opnd.ofCode (fld w 8 8)) (Opnd.ofCode (fld w 0 8)))
  else if op = 0x63 then
    some (.aand (fld w 24 1 == 1) (Opnd.ofCode (fld w 16 8)) (Opnd.ofCode (fld w 8 8)) (Opnd.ofCode (fld w 0 8)))
  else if op = 0x64 then
    some (.aor (fld w 24 1 == 1) (Opnd.ofCode (fld w 16 8)) (Opnd.ofCode (fld w 8 8)) (Opnd.ofCode (fld w 0 8)))
  else if op = 0x65 then
    some (.axor (fld w 24 1 == 1) (Opnd.ofCode (fld w 16 8)) (Opnd.ofCode (fld w 8 8)) (Opnd.ofCode (fld w 0 8)))
  else if op = 0x66 then
    some (.axchg (fld w 24 1 == 1) (Opnd.ofCode (fld w 16 8)) (Opnd.ofCode (fld w 8 8)) (Opnd.ofCode (fld w 0 8)))
  else if op = 0x67 then
    some (.acas (fld w 24 1 == 1) (Opnd.ofCode (fld w 16 8)) (Opnd.ofCode (fld w 8 8)) (Opnd.ofCode (fld w 0 8)))
  else if op = 0x68 then
    some (.dplate (fld w 24 1 == 1) (Opnd.ofCode (fld w 16 8)) (Opnd.ofCode (fld w 8 8)) (BitVec.ofNat 8 (fld w 0 8)))
  else if op = 0x69 then
    if fld w 24 1 = 0 ∧ fld w 8 8 = 0 then
      some (.dpub (Opnd.ofCode (fld w 16 8)) (BitVec.ofNat 8 (fld w 0 8)))
    else none
  else if op = 0x6a then
    if fld w 0 8 = 0 then
      some (.galRes (fld w 24 1 == 1) (Opnd.ofCode (fld w 16 8)) (Opnd.ofCode (fld w 8 8)))
    else if fld w 0 8 = 1 then
      some (.galCom (fld w 24 1 == 1) (Opnd.ofCode (fld w 16 8)) (Opnd.ofCode (fld w 8 8)))
    else if fld w 0 8 = 2 then
      some (.galTake (fld w 24 1 == 1) (Opnd.ofCode (fld w 16 8)) (Opnd.ofCode (fld w 8 8)))
    else if fld w 0 8 = 3 then
      some (.galFree (fld w 24 1 == 1) (Opnd.ofCode (fld w 16 8)) (Opnd.ofCode (fld w 8 8)))
    else none
  else if op = 0x6b then
    if fld w 6 2 = 0 then
      some (.fpop (fld w 24 1 == 1) (Opnd.ofCode (fld w 16 8)) (Opnd.ofCode (fld w 8 8)) (BitVec.ofNat 6 (fld w 0 6)))
    else none
  else if op = 0x6c then
    if fld w 16 1 = 0 then
      some (.br (fld w 24 1 == 1) (BitVec.ofNat 6 (fld w 18 6)) (fld w 17 1 == 1) (BitVec.ofNat 16 (fld w 0 16)))
    else none
  else if op = 0x6d then
    if fld w 16 8 = 0 ∧ fld w 0 8 = 0 then
      some (.jmp (fld w 24 1 == 1) (Opnd.ofCode (fld w 8 8)))
    else none
  else if op = 0x6e then
    if fld w 16 1 = 0 then
      some (.call (fld w 24 1 == 1) (BitVec.ofNat 6 (fld w 18 6)) (fld w 17 1 == 1) (BitVec.ofNat 16 (fld w 0 16)))
    else none
  else if op = 0x6f then
    if fld w 16 8 = 0 ∧ fld w 0 8 = 0 then
      some (.callr (fld w 24 1 == 1) (Opnd.ofCode (fld w 8 8)))
    else none
  else none

/-- Decoding of the major opcodes 0x70 to 0x7f (R94, R95). -/
def decodeOp7 (op w : Nat) : Option Instr :=
  if op = 0x70 then
    if fld w 0 25 = 0 then
      some .ret
    else none
  else if op = 0x71 then
    if fld w 0 24 = 0 then
      some (.exit (fld w 24 1 == 1))
    else if fld w 16 8 = 0 ∧ fld w 0 8 = 1 then
      some (.exitSuccessor (fld w 24 1 == 1) (Opnd.ofCode (fld w 8 8)))
    else none
  else if op = 0x72 then
    if fld w 0 16 = 0 then
      some (.barMeet (fld w 24 1 == 1) (BitVec.ofNat 8 (fld w 16 8)))
    else if fld w 0 16 = 1 then
      some (.barPost (fld w 24 1 == 1) (BitVec.ofNat 8 (fld w 16 8)))
    else if fld w 0 16 = 2 then
      some (.barAwait (fld w 24 1 == 1) (BitVec.ofNat 8 (fld w 16 8)))
    else none
  else if op = 0x73 then
    some (.waitv (fld w 24 1 == 1) (Opnd.ofCode (fld w 16 8)) (Opnd.ofCode (fld w 8 8)) (Opnd.ofCode (fld w 0 8)))
  else if op = 0x74 then
    if fld w 21 3 = 0 then
      some (.spawn (fld w 24 1 == 1) (BitVec.ofNat 5 (fld w 16 5)) (Opnd.ofCode (fld w 8 8)) (BitVec.ofNat 8 (fld w 0 8)))
    else none
  else if op = 0x75 then
    if fld w 16 8 = 0 ∧ fld w 0 8 = 0 then
      some (.launch (fld w 24 1 == 1) (Opnd.ofCode (fld w 8 8)))
    else none
  else if op = 0x76 then
    if fld w 0 8 = 0 then
      some (.futWait (fld w 24 1 == 1) (Opnd.ofCode (fld w 16 8)) (Opnd.ofCode (fld w 8 8)))
    else if fld w 0 8 = 1 then
      some (.futTest (fld w 24 1 == 1) (Opnd.ofCode (fld w 16 8)) (Opnd.ofCode (fld w 8 8)))
    else if fld w 16 8 = 0 ∧ fld w 0 8 = 2 then
      some (.futCancel (fld w 24 1 == 1) (Opnd.ofCode (fld w 8 8)))
    else if fld w 0 8 = 3 then
      some (.futAdopt (fld w 24 1 == 1) (Opnd.ofCode (fld w 16 8)) (Opnd.ofCode (fld w 8 8)))
    else none
  else if op = 0x77 then
    if fld w 0 16 = 0 then
      some (.timCyc (fld w 24 1 == 1) (Opnd.ofCode (fld w 16 8)))
    else if fld w 16 8 = 0 ∧ fld w 0 8 = 1 then
      some (.timWcyc (fld w 24 1 == 1) (Opnd.ofCode (fld w 8 8)))
    else if fld w 16 8 = 0 ∧ fld w 0 8 = 2 then
      some (.timPclass (fld w 24 1 == 1) (Opnd.ofCode (fld w 8 8)))
    else if fld w 0 24 = 3 then
      some (.timYield (fld w 24 1 == 1))
    else if fld w 0 8 = 4 then
      some (.timLockq (fld w 24 1 == 1) (Opnd.ofCode (fld w 16 8)) (Opnd.ofCode (fld w 8 8)))
    else none
  else if op = 0x78 then
    if fld w 4 1 = 0 then
      some (.mma (fld w 24 1 == 1) (Opnd.ofCode (fld w 16 8)) (BitVec.ofNat 6 (fld w 10 6)) (BitVec.ofNat 2 (fld w 8 2)) (BitVec.ofNat 3 (fld w 5 3)) (BitVec.ofNat 4 (fld w 0 4)))
    else none
  else if op = 0x79 then
    if fld w 4 1 = 1 then
      some (.mmj (fld w 24 1 == 1) (Opnd.ofCode (fld w 16 8)) (BitVec.ofNat 6 (fld w 10 6)) (BitVec.ofNat 2 (fld w 8 2)) (BitVec.ofNat 3 (fld w 5 3)) (BitVec.ofNat 4 (fld w 0 4)))
    else none
  else if op = 0x7a then
    if fld w 16 9 = 0 ∧ fld w 0 5 = 0 then
      some (.accZero (BitVec.ofNat 6 (fld w 10 6)) (BitVec.ofNat 2 (fld w 8 2)) (BitVec.ofNat 3 (fld w 5 3)))
    else if fld w 24 1 = 0 ∧ fld w 0 5 = 4 then
      some (.accLd (Opnd.ofCode (fld w 16 8)) (BitVec.ofNat 6 (fld w 10 6)) (BitVec.ofNat 2 (fld w 8 2)) (BitVec.ofNat 3 (fld w 5 3)))
    else if fld w 24 1 = 0 ∧ fld w 0 5 = 8 then
      some (.accSt (Opnd.ofCode (fld w 16 8)) (BitVec.ofNat 6 (fld w 10 6)) (BitVec.ofNat 2 (fld w 8 2)) (BitVec.ofNat 3 (fld w 5 3)))
    else if fld w 24 1 = 0 ∧ fld w 8 2 = 0 ∧ fld w 0 5 = 12 then
      some (.accRd (Opnd.ofCode (fld w 16 8)) (BitVec.ofNat 6 (fld w 10 6)) (BitVec.ofNat 3 (fld w 5 3)))
    else if fld w 24 1 = 0 ∧ fld w 0 5 = 16 then
      some (.accScale (Opnd.ofCode (fld w 16 8)) (BitVec.ofNat 6 (fld w 10 6)) (BitVec.ofNat 2 (fld w 8 2)) (BitVec.ofNat 3 (fld w 5 3)))
    else none
  else if op = 0x7b then
    if fld w 24 1 = 0 ∧ fld w 5 3 = 6 then
      some (.smp (Opnd.ofCode (fld w 16 8)) (Opnd.ofCode (fld w 8 8)) (BitVec.ofNat 5 (fld w 0 5)))
    else none
  else if op = 0x7c then
    if fld w 0 8 = 0 then
      some (.engCopy (fld w 24 1 == 1) (Opnd.ofCode (fld w 16 8)) (Opnd.ofCode (fld w 8 8)))
    else if fld w 0 8 = 1 then
      some (.engColl (fld w 24 1 == 1) (Opnd.ofCode (fld w 16 8)) (Opnd.ofCode (fld w 8 8)))
    else if fld w 0 8 = 2 then
      some (.engGath (fld w 24 1 == 1) (Opnd.ofCode (fld w 16 8)) (Opnd.ofCode (fld w 8 8)))
    else if fld w 0 8 = 3 then
      some (.engXfer (fld w 24 1 == 1) (Opnd.ofCode (fld w 16 8)) (Opnd.ofCode (fld w 8 8)))
    else if fld w 0 8 = 4 then
      some (.engSmma (fld w 24 1 == 1) (Opnd.ofCode (fld w 16 8)) (Opnd.ofCode (fld w 8 8)))
    else if fld w 0 8 = 5 then
      some (.engWpin (fld w 24 1 == 1) (Opnd.ofCode (fld w 16 8)) (Opnd.ofCode (fld w 8 8)))
    else if fld w 0 8 = 6 then
      some (.engWinv (fld w 24 1 == 1) (Opnd.ofCode (fld w 16 8)) (Opnd.ofCode (fld w 8 8)))
    else none
  else if op = 0x7d then
    if fld w 16 8 = 0 ∧ fld w 0 8 = 0 then
      some (.sysTrap (fld w 24 1 == 1) (Opnd.ofCode (fld w 8 8)))
    else if fld w 16 8 = 0 ∧ fld w 0 8 = 1 then
      some (.sysBrk (fld w 24 1 == 1) (Opnd.ofCode (fld w 8 8)))
    else if fld w 16 8 = 0 ∧ fld w 0 8 = 2 then
      some (.sysPerf (fld w 24 1 == 1) (Opnd.ofCode (fld w 8 8)))
    else none
  else if op = 0x7e then
    if fld w 24 1 = 0 ∧ fld w 0 8 = 0 then
      some (.primTri (Opnd.ofCode (fld w 16 8)) (Opnd.ofCode (fld w 8 8)))
    else if fld w 24 1 = 0 ∧ fld w 0 8 = 1 then
      some (.primEll (Opnd.ofCode (fld w 16 8)) (Opnd.ofCode (fld w 8 8)))
    else if fld w 24 1 = 0 ∧ fld w 0 8 = 2 then
      some (.primPt (Opnd.ofCode (fld w 16 8)) (Opnd.ofCode (fld w 8 8)))
    else if fld w 0 25 = 3 then
      some .primCut
    else if fld w 16 9 = 0 ∧ fld w 0 8 = 4 then
      some (.primFout (Opnd.ofCode (fld w 8 8)))
    else if fld w 0 25 = 5 then
      some .primKill
    else none
  else none

/-- The instruction of a 32-bit word (R59, R93, R94), fixed and reserved bits checked. -/
def decodeWord (w : Nat) : Option Instr :=
  let op := fld w 25 7
  if op < 0x10 then decodeOp0 op w
  else if op < 0x20 then decodeOp1 op w
  else if op < 0x30 then decodeOp2 op w
  else if op < 0x40 then decodeOp3 op w
  else if op < 0x50 then decodeOp4 op w
  else if op < 0x60 then decodeOp5 op w
  else if op < 0x70 then decodeOp6 op w
  else decodeOp7 op w

/-- The fates R96 gives a word that is no instruction: the fault is raised for the whole gang. -/
inductive BadWord where
  | opcode | operand
  deriving DecidableEq, Repr

/-- The fate of a word that `decodeWord` refuses (R94, R95, R96): an unassigned major opcode, family sub-opcode, `fence`
kind, `cmo` kind or `cmo` level is ILLEGAL_OPCODE; every other word is ILLEGAL_OPERAND (a reserved bit or an unused field set). -/
def badWord (w : Nat) : BadWord :=
  let sub := fld w 0 8
  match fld w 25 7 with
  | 0x00 | 0x40 | 0x7F => .opcode
  | 0x3E => if sub ≤ 13 then .operand else .opcode
  | 0x3F => if sub ≤ 1 then .operand else .opcode
  | 0x6A => if sub ≤ 3 then .operand else .opcode
  | 0x72 => if sub ≤ 2 then .operand else .opcode
  | 0x76 => if sub ≤ 3 then .operand else .opcode
  | 0x77 => if sub ≤ 4 then .operand else .opcode
  | 0x7A => if fld w 2 3 ≤ 4 then .operand else .opcode
  | 0x7C => if sub ≤ 6 then .operand else .opcode
  | 0x7D => if sub ≤ 2 then .operand else .opcode
  | 0x7E => if sub ≤ 5 then .operand else .opcode
  | 0x5C => if fld w 16 8 ≤ 3 then .operand else .opcode
  | 0x5D => if fld w 20 4 ≤ 3 ∧ fld w 16 4 ≤ 3 then .operand else .opcode
  | _ => .operand

/-- A word's fixed bits with fields put in: each field's value and its lowest bit. -/
def put : Nat → List (Nat × Nat) → Nat
  | w, [] => w
  | w, (v, lo) :: fs => put (w + v * 2 ^ lo) fs

/-- The word of an instruction, from the same formats; `none` for a row that has no word. -/
def encode : Instr → Option Nat
  | .mode d i => some (put 0x3000000 [(d.toNat, 16), (i.toNat, 0)])
  | .guard n g => some (put 0x5000000 [(n.toNat, 6), (g.toNat, 0)])
  | .fmt d a => some (put 0x7000000 [(d.toNat, 16), (a.code, 8)])
  | .omap d a => some (put 0x9000000 [(d.toNat, 16), (a.code, 8)])
  | .xset u k b l => some (put 0xa000000 [(u.toNat, 24), (k.toNat, 21), (b.toNat, 8), (l.toNat, 0)])
  | .xoff u k a => some (put 0xc000000 [(u.toNat, 24), (k.toNat, 21), (a.code, 8)])
  | .xadd u k a => some (put 0xe000000 [(u.toNat, 24), (k.toNat, 21), (a.code, 8)])
  | .mov u d a => some (put 0x10000000 [(u.toNat, 24), (d.code, 16), (a.code, 8)])
  | .movi u d i => some (put 0x12000000 [(u.toNat, 24), (d.code, 16), (i.toNat, 0)])
  | .movh u d i => some (put 0x14000000 [(u.toNat, 24), (d.code, 16), (i.toNat, 0)])
  | .sel u d a b => some (put 0x16000000 [(u.toNat, 24), (d.code, 16), (a.code, 8), (b.code, 0)])
  | .retag u d a t => some (put 0x18000000 [(u.toNat, 24), (d.code, 16), (a.code, 8), (t.toNat, 0)])
  | .tagof u d a => some (put 0x1a000000 [(u.toNat, 24), (d.code, 16), (a.code, 8)])
  | .rdsr u d i => some (put 0x1c000000 [(u.toNat, 24), (d.code, 16), (i.toNat, 0)])
  | .wrsr u d i => some (put 0x1e000000 [(u.toNat, 24), (d.code, 16), (i.toNat, 0)])
  | .add u d a b => some (put 0x20000000 [(u.toNat, 24), (d.code, 16), (a.code, 8), (b.code, 0)])
  | .sub u d a b => some (put 0x22000000 [(u.toNat, 24), (d.code, 16), (a.code, 8), (b.code, 0)])
  | .mul u d a b => some (put 0x24000000 [(u.toNat, 24), (d.code, 16), (a.code, 8), (b.code, 0)])
  | .mulh u d a b => some (put 0x26000000 [(u.toNat, 24), (d.code, 16), (a.code, 8), (b.code, 0)])
  | .mad u d a b => some (put 0x28000000 [(u.toNat, 24), (d.code, 16), (a.code, 8), (b.code, 0)])
  | .div u d a b => some (put 0x2a000000 [(u.toNat, 24), (d.code, 16), (a.code, 8), (b.code, 0)])
  | .rem u d a b => some (put 0x2c000000 [(u.toNat, 24), (d.code, 16), (a.code, 8), (b.code, 0)])
  | .min u d a b => some (put 0x2e000000 [(u.toNat, 24), (d.code, 16), (a.code, 8), (b.code, 0)])
  | .max u d a b => some (put 0x30000000 [(u.toNat, 24), (d.code, 16), (a.code, 8), (b.code, 0)])
  | .abs u d a => some (put 0x32000000 [(u.toNat, 24), (d.code, 16), (a.code, 8)])
  | .neg u d a => some (put 0x34000000 [(u.toNat, 24), (d.code, 16), (a.code, 8)])
  | .add64 u d a b => some (put 0x36000000 [(u.toNat, 24), (d.code, 16), (a.code, 8), (b.code, 0)])
  | .mad64 u d a b => some (put 0x38000000 [(u.toNat, 24), (d.code, 16), (a.code, 8), (b.code, 0)])
  | .clamp u d a b => some (put 0x3a000000 [(u.toNat, 24), (d.code, 16), (a.code, 8), (b.code, 0)])
  | .addi u d i => some (put 0x3c000000 [(u.toNat, 24), (d.code, 16), (i.toNat, 0)])
  | .muli u d i => some (put 0x3e000000 [(u.toNat, 24), (d.code, 16), (i.toNat, 0)])
  | .and u d a b => some (put 0x40000000 [(u.toNat, 24), (d.code, 16), (a.code, 8), (b.code, 0)])
  | .or u d a b => some (put 0x42000000 [(u.toNat, 24), (d.code, 16), (a.code, 8), (b.code, 0)])
  | .xor u d a b => some (put 0x44000000 [(u.toNat, 24), (d.code, 16), (a.code, 8), (b.code, 0)])
  | .not u d a => some (put 0x46000000 [(u.toNat, 24), (d.code, 16), (a.code, 8)])
  | .andn u d a b => some (put 0x48000000 [(u.toNat, 24), (d.code, 16), (a.code, 8), (b.code, 0)])
  | .shl u d a b => some (put 0x4a000000 [(u.toNat, 24), (d.code, 16), (a.code, 8), (b.code, 0)])
  | .shr u d a b => some (put 0x4c000000 [(u.toNat, 24), (d.code, 16), (a.code, 8), (b.code, 0)])
  | .sra u d a b => some (put 0x4e000000 [(u.toNat, 24), (d.code, 16), (a.code, 8), (b.code, 0)])
  | .rot u d a b => some (put 0x50000000 [(u.toNat, 24), (d.code, 16), (a.code, 8), (b.code, 0)])
  | .popc u d a => some (put 0x52000000 [(u.toNat, 24), (d.code, 16), (a.code, 8)])
  | .clz u d a => some (put 0x54000000 [(u.toNat, 24), (d.code, 16), (a.code, 8)])
  | .brev u d a => some (put 0x56000000 [(u.toNat, 24), (d.code, 16), (a.code, 8)])
  | .bfx u d a b => some (put 0x58000000 [(u.toNat, 24), (d.code, 16), (a.code, 8), (b.code, 0)])
  | .bfi u d a b => some (put 0x5a000000 [(u.toNat, 24), (d.code, 16), (a.code, 8), (b.code, 0)])
  | .perm u d a b => some (put 0x5c000000 [(u.toNat, 24), (d.code, 16), (a.code, 8), (b.code, 0)])
  | .ffs u d a => some (put 0x5e000000 [(u.toNat, 24), (d.code, 16), (a.code, 8)])
  | .ceq u p c a b => some (put 0x60000000 [(u.toNat, 24), (p.toNat, 18), (c.toNat, 16), (a.code, 8), (b.code, 0)])
  | .cne u p c a b => some (put 0x62000000 [(u.toNat, 24), (p.toNat, 18), (c.toNat, 16), (a.code, 8), (b.code, 0)])
  | .clt u p c a b => some (put 0x64000000 [(u.toNat, 24), (p.toNat, 18), (c.toNat, 16), (a.code, 8), (b.code, 0)])
  | .cle u p c a b => some (put 0x66000000 [(u.toNat, 24), (p.toNat, 18), (c.toNat, 16), (a.code, 8), (b.code, 0)])
  | .cgt u p c a b => some (put 0x68000000 [(u.toNat, 24), (p.toNat, 18), (c.toNat, 16), (a.code, 8), (b.code, 0)])
  | .cge u p c a b => some (put 0x6a000000 [(u.toNat, 24), (p.toNat, 18), (c.toNat, 16), (a.code, 8), (b.code, 0)])
  | .cun u p c a b => some (put 0x6c000000 [(u.toNat, 24), (p.toNat, 18), (c.toNat, 16), (a.code, 8), (b.code, 0)])
  | .cclass u p c a b => some (put 0x6e000000 [(u.toNat, 24), (p.toNat, 18), (c.toNat, 16), (a.code, 8), (b.code, 0)])
  | .plog u p c f ia qa ib qb => some (put 0x70000000 [(u.toNat, 24), (p.toNat, 18), (c.toNat, 16), (f.toNat / 2, 15), (f.toNat % 2, 7), (ia.toNat, 14), (qa.toNat, 8), (ib.toNat, 6), (qb.toNat, 0)])
  | .ptov u d a b => some (put 0x72000000 [(u.toNat, 24), (d.code, 16), (a.toNat, 8), (b.toNat, 0)])
  | .vtop u p c a b => some (put 0x74000000 [(u.toNat, 24), (p.toNat, 18), (c.toNat, 16), (a.code, 8), (b.code, 0)])
  | .pset u p c a b => some (put 0x76000000 [(u.toNat, 24), (p.toNat, 18), (c.toNat, 16), (a.code, 8), (b.code, 0)])
  | .shfl d a b => some (put 0x78000000 [(d.code, 16), (a.code, 8), (b.code, 0)])
  | .shfx d a b => some (put 0x7a000000 [(d.code, 16), (a.code, 8), (b.code, 0)])
  | .laneAny p n q => some (put 0x7c000000 [(p.toNat, 16), (n.toNat, 14), (q.toNat, 8)])
  | .laneAll p n q => some (put 0x7c000001 [(p.toNat, 16), (n.toNat, 14), (q.toNat, 8)])
  | .laneBallot d n q => some (put 0x7c000002 [(d.code, 16), (n.toNat, 14), (q.toNat, 8)])
  | .laneBcast d a => some (put 0x7c000003 [(d.code, 16), (a.code, 8)])
  | .laneCount d n q => some (put 0x7c000004 [(d.code, 16), (n.toNat, 14), (q.toNat, 8)])
  | .laneFirst d n q => some (put 0x7c000005 [(d.code, 16), (n.toNat, 14), (q.toNat, 8)])
  | .laneRnd d => some (put 0x7c000006 [(d.code, 16)])
  | .laneRadd d a => some (put 0x7c000007 [(d.code, 16), (a.code, 8)])
  | .laneRmin d a => some (put 0x7c000008 [(d.code, 16), (a.code, 8)])
  | .laneRmax d a => some (put 0x7c000009 [(d.code, 16), (a.code, 8)])
  | .laneRband d a => some (put 0x7c00000a [(d.code, 16), (a.code, 8)])
  | .laneRbor d a => some (put 0x7c00000b [(d.code, 16), (a.code, 8)])
  | .laneRbxor d a => some (put 0x7c00000c [(d.code, 16), (a.code, 8)])
  | .laneScan d a => some (put 0x7c00000d [(d.code, 16), (a.code, 8)])
  | .regrpGive u p a => some (put 0x7e000000 [(u.toNat, 24), (p.toNat, 18), (a.code, 8)])
  | .regrpTake u p a => some (put 0x7e000001 [(u.toNat, 24), (p.toNat, 18), (a.code, 8)])
  | .fms u d a b => some (put 0x82000000 [(u.toNat, 24), (d.code, 16), (a.code, 8), (b.code, 0)])
  | .fnma u d a b => some (put 0x84000000 [(u.toNat, 24), (d.code, 16), (a.code, 8), (b.code, 0)])
  | .rcp u d a => some (put 0x86000000 [(u.toNat, 24), (d.code, 16), (a.code, 8)])
  | .rsq u d a => some (put 0x88000000 [(u.toNat, 24), (d.code, 16), (a.code, 8)])
  | .sqrt u d a => some (put 0x8a000000 [(u.toNat, 24), (d.code, 16), (a.code, 8)])
  | .exp2 u d a => some (put 0x8c000000 [(u.toNat, 24), (d.code, 16), (a.code, 8)])
  | .log2 u d a => some (put 0x8e000000 [(u.toNat, 24), (d.code, 16), (a.code, 8)])
  | .sinp u d a => some (put 0x90000000 [(u.toNat, 24), (d.code, 16), (a.code, 8)])
  | .cosp u d a => some (put 0x92000000 [(u.toNat, 24), (d.code, 16), (a.code, 8)])
  | .frac u d a => some (put 0x94000000 [(u.toNat, 24), (d.code, 16), (a.code, 8)])
  | .rint u d a => some (put 0x96000000 [(u.toNat, 24), (d.code, 16), (a.code, 8)])
  | .cvt u d a f t => some (put 0x98000000 [(u.toNat, 24), (d.code, 16), (a.code, 8), (f.toNat, 4), (t.toNat, 0)])
  | .pack u d a f t => some (put 0x9a000000 [(u.toNat, 24), (d.code, 16), (a.code, 8), (f.toNat, 4), (t.toNat, 0)])
  | .unpack u d a f t => some (put 0x9c000000 [(u.toNat, 24), (d.code, 16), (a.code, 8), (f.toNat, 4), (t.toNat, 0)])
  | .dot u d a b => some (put 0x9e000000 [(u.toNat, 24), (d.code, 16), (a.code, 8), (b.code, 0)])
  | .ld8 u d a o => some (put 0xa0000000 [(u.toNat, 24), (d.code, 16), (a.code, 8), (o.toNat, 0)])
  | .ld16 u d a o => some (put 0xa2000000 [(u.toNat, 24), (d.code, 16), (a.code, 8), (o.toNat, 0)])
  | .ld32 u d a o => some (put 0xa4000000 [(u.toNat, 24), (d.code, 16), (a.code, 8), (o.toNat, 0)])
  | .ld64 u d a o => some (put 0xa6000000 [(u.toNat, 24), (d.code, 16), (a.code, 8), (o.toNat, 0)])
  | .ld128 u d a o => some (put 0xa8000000 [(u.toNat, 24), (d.code, 16), (a.code, 8), (o.toNat, 0)])
  | .st8 u d a o => some (put 0xaa000000 [(u.toNat, 24), (d.code, 16), (a.code, 8), (o.toNat, 0)])
  | .st16 u d a o => some (put 0xac000000 [(u.toNat, 24), (d.code, 16), (a.code, 8), (o.toNat, 0)])
  | .st32 u d a o => some (put 0xae000000 [(u.toNat, 24), (d.code, 16), (a.code, 8), (o.toNat, 0)])
  | .st64 u d a o => some (put 0xb0000000 [(u.toNat, 24), (d.code, 16), (a.code, 8), (o.toNat, 0)])
  | .st128 u d a o => some (put 0xb2000000 [(u.toNat, 24), (d.code, 16), (a.code, 8), (o.toNat, 0)])
  | .lda u d a o => some (put 0xb4000000 [(u.toNat, 24), (d.code, 16), (a.code, 8), (o.toNat, 0)])
  | .strl u d a o => some (put 0xb6000000 [(u.toNat, 24), (d.code, 16), (a.code, 8), (o.toNat, 0)])
  | .fenceFull u => some (put 0xb8000000 [(u.toNat, 24)])
  | .fenceAcq u => some (put 0xb8010000 [(u.toNat, 24)])
  | .fenceRel u => some (put 0xb8020000 [(u.toNat, 24)])
  | .fenceEngine u => some (put 0xb8030000 [(u.toNat, 24)])
  | .cmoClean u l a b => some (put 0xba000000 [(u.toNat, 24), (l.toNat, 16), (a.code, 8), (b.code, 0)])
  | .cmoInv u l a b => some (put 0xba100000 [(u.toNat, 24), (l.toNat, 16), (a.code, 8), (b.code, 0)])
  | .cmoCinv u l a b => some (put 0xba200000 [(u.toNat, 24), (l.toNat, 16), (a.code, 8), (b.code, 0)])
  | .cmoSettle u l a b => some (put 0xba300000 [(u.toNat, 24), (l.toNat, 16), (a.code, 8), (b.code, 0)])
  | .pref u l a o => some (put 0xbc000000 [(u.toNat, 24), (l.toNat, 16), (a.code, 8), (o.toNat, 0)])
  | .dtag u d a o => some (put 0xbe000000 [(u.toNat, 24), (d.code, 16), (a.code, 8), (o.toNat, 0)])
  | .aadd u d a b => some (put 0xc0000000 [(u.toNat, 24), (d.code, 16), (a.code, 8), (b.code, 0)])
  | .amin u d a b => some (put 0xc2000000 [(u.toNat, 24), (d.code, 16), (a.code, 8), (b.code, 0)])
  | .amax u d a b => some (put 0xc4000000 [(u.toNat, 24), (d.code, 16), (a.code, 8), (b.code, 0)])
  | .aand u d a b => some (put 0xc6000000 [(u.toNat, 24), (d.code, 16), (a.code, 8), (b.code, 0)])
  | .aor u d a b => some (put 0xc8000000 [(u.toNat, 24), (d.code, 16), (a.code, 8), (b.code, 0)])
  | .axor u d a b => some (put 0xca000000 [(u.toNat, 24), (d.code, 16), (a.code, 8), (b.code, 0)])
  | .axchg u d a b => some (put 0xcc000000 [(u.toNat, 24), (d.code, 16), (a.code, 8), (b.code, 0)])
  | .acas u d a b => some (put 0xce000000 [(u.toNat, 24), (d.code, 16), (a.code, 8), (b.code, 0)])
  | .dplate u d a o => some (put 0xd0000000 [(u.toNat, 24), (d.code, 16), (a.code, 8), (o.toNat, 0)])
  | .dpub d n => some (put 0xd2000000 [(d.code, 16), (n.toNat, 0)])
  | .galRes u d a => some (put 0xd4000000 [(u.toNat, 24), (d.code, 16), (a.code, 8)])
  | .galCom u d a => some (put 0xd4000001 [(u.toNat, 24), (d.code, 16), (a.code, 8)])
  | .galTake u d a => some (put 0xd4000002 [(u.toNat, 24), (d.code, 16), (a.code, 8)])
  | .galFree u d a => some (put 0xd4000003 [(u.toNat, 24), (d.code, 16), (a.code, 8)])
  | .fpop u d a p => some (put 0xd6000000 [(u.toNat, 24), (d.code, 16), (a.code, 8), (p.toNat, 0)])
  | .br u p n o => some (put 0xd8000000 [(u.toNat, 24), (p.toNat, 18), (n.toNat, 17), (o.toNat, 0)])
  | .jmp u a => some (put 0xda000000 [(u.toNat, 24), (a.code, 8)])
  | .call u p n o => some (put 0xdc000000 [(u.toNat, 24), (p.toNat, 18), (n.toNat, 17), (o.toNat, 0)])
  | .callr u a => some (put 0xde000000 [(u.toNat, 24), (a.code, 8)])
  | .ret => some (put 0xe0000000 [])
  | .exit u => some (put 0xe2000000 [(u.toNat, 24)])
  | .exitSuccessor u a => some (put 0xe2000001 [(u.toNat, 24), (a.code, 8)])
  | .barMeet u d => some (put 0xe4000000 [(u.toNat, 24), (d.toNat, 16)])
  | .barPost u d => some (put 0xe4000001 [(u.toNat, 24), (d.toNat, 16)])
  | .barAwait u d => some (put 0xe4000002 [(u.toNat, 24), (d.toNat, 16)])
  | .waitv u d a b => some (put 0xe6000000 [(u.toNat, 24), (d.code, 16), (a.code, 8), (b.code, 0)])
  | .spawn u r a n => some (put 0xe8000000 [(u.toNat, 24), (r.toNat, 16), (a.code, 8), (n.toNat, 0)])
  | .launch u a => some (put 0xea000000 [(u.toNat, 24), (a.code, 8)])
  | .futWait u d a => some (put 0xec000000 [(u.toNat, 24), (d.code, 16), (a.code, 8)])
  | .futTest u d a => some (put 0xec000001 [(u.toNat, 24), (d.code, 16), (a.code, 8)])
  | .futCancel u a => some (put 0xec000002 [(u.toNat, 24), (a.code, 8)])
  | .futAdopt u d a => some (put 0xec000003 [(u.toNat, 24), (d.code, 16), (a.code, 8)])
  | .timCyc u d => some (put 0xee000000 [(u.toNat, 24), (d.code, 16)])
  | .timWcyc u a => some (put 0xee000001 [(u.toNat, 24), (a.code, 8)])
  | .timPclass u a => some (put 0xee000002 [(u.toNat, 24), (a.code, 8)])
  | .timYield u => some (put 0xee000003 [(u.toNat, 24)])
  | .timLockq u d a => some (put 0xee000004 [(u.toNat, 24), (d.code, 16), (a.code, 8)])
  | .mma r a c n o k => some (put 0xf0000000 [(r.toNat, 24), (a.code, 16), (c.toNat, 10), (n.toNat, 8), (o.toNat, 5), (k.toNat, 0)])
  | .mmj r a c n o k => some (put 0xf2000010 [(r.toNat, 24), (a.code, 16), (c.toNat, 10), (n.toNat, 8), (o.toNat, 5), (k.toNat, 0)])
  | .accZero c n x => some (put 0xf4000000 [(c.toNat, 10), (n.toNat, 8), (x.toNat, 5)])
  | .accLd a c n x => some (put 0xf4000004 [(a.code, 16), (c.toNat, 10), (n.toNat, 8), (x.toNat, 5)])
  | .accSt a c n x => some (put 0xf4000008 [(a.code, 16), (c.toNat, 10), (n.toNat, 8), (x.toNat, 5)])
  | .accRd d c x => some (put 0xf400000c [(d.code, 16), (c.toNat, 10), (x.toNat, 5)])
  | .accScale a c n x => some (put 0xf4000010 [(a.code, 16), (c.toNat, 10), (n.toNat, 8), (x.toNat, 5)])
  | .smp d a b => some (put 0xf60000c0 [(d.code, 16), (a.code, 8), (b.toNat, 0)])
  | .engCopy u d a => some (put 0xf8000000 [(u.toNat, 24), (d.code, 16), (a.code, 8)])
  | .engColl u d a => some (put 0xf8000001 [(u.toNat, 24), (d.code, 16), (a.code, 8)])
  | .engGath u d a => some (put 0xf8000002 [(u.toNat, 24), (d.code, 16), (a.code, 8)])
  | .engXfer u d a => some (put 0xf8000003 [(u.toNat, 24), (d.code, 16), (a.code, 8)])
  | .engSmma u d a => some (put 0xf8000004 [(u.toNat, 24), (d.code, 16), (a.code, 8)])
  | .engWpin u d a => some (put 0xf8000005 [(u.toNat, 24), (d.code, 16), (a.code, 8)])
  | .engWinv u d a => some (put 0xf8000006 [(u.toNat, 24), (d.code, 16), (a.code, 8)])
  | .sysTrap u a => some (put 0xfa000000 [(u.toNat, 24), (a.code, 8)])
  | .sysBrk u a => some (put 0xfa000001 [(u.toNat, 24), (a.code, 8)])
  | .sysPerf u a => some (put 0xfa000002 [(u.toNat, 24), (a.code, 8)])
  | .primTri d a => some (put 0xfc000000 [(d.code, 16), (a.code, 8)])
  | .primEll d a => some (put 0xfc000001 [(d.code, 16), (a.code, 8)])
  | .primPt d a => some (put 0xfc000002 [(d.code, 16), (a.code, 8)])
  | .primCut => some (put 0xfc000003 [])
  | .primFout a => some (put 0xfc000004 [(a.code, 8)])
  | .primKill => some (put 0xfc000005 [])
  | .clauseHeader | .starvedQueueEntry .. | .longLatencyCompletion .. | .groupRetire .. | .teamRetire .. | .regroupMove ..
  | .barrierWaveRelease .. | .placementWave .. | .taskWaveTimeout .. | .taskWavePlacement .. | .evaluatorPlacement ..
  | .waiterReplay .. | .deferTimeout .. | .matrixOperation .. | .jointOperationStart .. | .jointTimeout ..
  | .engineCompletion .. | .launchComplete .. | .pendingLaunchAccept .. | .teamPlacement .. | .swapOut ..
  | .waitvRecheck .. | .timWcycRelease .. | .translationWalk .. | .park .. | .parkedSwitchOut .. | .halt ..
  | .preemptSave .. | .preemptTimeout .. | .watchdog .. | .lockupBreach .. | .referencePause .. | .memoryRefresh
  | .scrubPass | .l2LineMigration .. | .telemetrySlot .. | .sensorFail .. | .limitStateChange .. | .classChange ..
  | .droopStretch .. | .thermalStop | .doorbell .. | .stoptail .. | .launchPacket .. | .feed .. | .wait ..
  | .waitRecheck .. | .signal .. | .draw .. | .copy .. | .fence .. | .indirect .. | .timestamp .. | .nop ..
  | .drawFrameAllocation .. | .fragmentGroupRelease .. | .fragmentGroupPlacement .. | .tileFrameLoad ..
  | .overprintFragment .. | .tileWriteBack .. | .samplerQuad .. | .weightFill .. | .winvObserve .. | .hostWrite ..
  | .hostRead .. | .linkUnreachable .. | .pcieLinkTrained .. | .powerOn | .create | .start | .preempt | .resume | .kill
  | .shootdown | .parkres | .queue | .qreset | .partition | .update | .updateTakeover | .attest | .clear | .hostAtomic ..
  | .l1LineEviction .. | .writePerformed .. | .unitFailure .. => none

/-- A 32-bit word from four bytes, the lowest address first (R7). -/
def wordOfBytes (b0 b1 b2 b3 : Byte) : Nat :=
  b0.toNat + b1.toNat * 2 ^ 8 + b2.toNat * 2 ^ 16 + b3.toNat * 2 ^ 24

/-- The `n` bytes of a number, little-endian (R7). -/
def leBytes : Nat → Nat → List Byte
  | 0, _ => []
  | n + 1, w => BitVec.ofNat 8 w :: leBytes n (w / 256)

/-- The number of a little-endian list of bytes (R7). -/
def leNat : List Byte → Nat
  | [] => 0
  | b :: bs => b.toNat + 256 * leNat bs

/-- The first instruction of a list of bytes, and the rest. -/
def decodeBytes : List Byte → Option (Instr × List Byte)
  | b0 :: b1 :: b2 :: b3 :: rest => (decodeWord (wordOfBytes b0 b1 b2 b3)).map (fun i => (i, rest))
  | _ => none

/-- What the decoder reads from a word of the opcode table; the bits above `nbits` are zero. -/
def decodeTableWord (nbits w : Nat) : Option Instr :=
  (decodeBytes (leBytes 4 (w % 2 ^ nbits))).map (·.1)

end Sys2Proof
end

