-- ==== Sys2Proof/Machine/Numbers.lean ====
section
/-!
DEFINITION. Number formats and arithmetic (R114-R138, R168-R170): exact values, the floating-point and narrow formats,
rounding, integers, DOTSUM, exact accumulation and the functions. Values are computed exactly and narrowed once.
-/
namespace Sys2Proof.Machine
open Sys2Proof

/-- A floating-point or narrow value: NaN, an infinity, or (-1)^neg * m * 2^e. -/
inductive FVal where
  | nan
  | inf (neg : Bool)
  | fin (neg : Bool) (m : Nat) (e : Int)
  deriving DecidableEq, Repr

/-- A binary format (R87, R116-R118). The IEEE types are formats of SPEC 2. -/
structure Fmt where
  sgn : Bool
  ebits : Nat
  mbits : Nat
  bias : Nat
  spec : Nat
  deriving DecidableEq, Repr

def Fmt.f64 : Fmt := { sgn := true, ebits := 11, mbits := 52, bias := 1023, spec := 2 }
def Fmt.f32 : Fmt := { sgn := true, ebits := 8, mbits := 23, bias := 127, spec := 2 }
def Fmt.f16 : Fmt := { sgn := true, ebits := 5, mbits := 10, bias := 15, spec := 2 }
def Fmt.bf16 : Fmt := { sgn := true, ebits := 8, mbits := 7, bias := 127, spec := 2 }
/-- E4M3 and E2M1 as R371 decodes weights, E4M3 also as R120 decodes scales. -/
def Fmt.e4m3 : Fmt := { sgn := true, ebits := 4, mbits := 3, bias := 7, spec := 1 }
def Fmt.e2m1 : Fmt := { sgn := true, ebits := 2, mbits := 1, bias := 1, spec := 0 }

/-- The bits of a code (R116). -/
def Fmt.width (f : Fmt) : Nat := (if f.sgn then 1 else 0) + f.ebits + f.mbits

/-- The largest magnitude code that is not special (R118). -/
def Fmt.maxCode (f : Fmt) : Nat :=
  if f.spec = 0 then 2 ^ (f.ebits + f.mbits) - 1
  else if f.spec = 1 then 2 ^ (f.ebits + f.mbits) - 2
  else (2 ^ f.ebits - 1) * 2 ^ f.mbits - 1

/-- The exponent of the lowest mantissa bit of a subnormal (R117). -/
def Fmt.emin (f : Fmt) : Int := 1 - (f.bias : Int) - (f.mbits : Int)

/-- The value of a code (R117, R118). -/
def Fmt.decode (f : Fmt) (c : Nat) : FVal :=
  let m := c % 2 ^ f.mbits
  let e := c / 2 ^ f.mbits % 2 ^ f.ebits
  let neg := f.sgn && (c / 2 ^ (f.ebits + f.mbits) % 2 == 1)
  let top := e == 2 ^ f.ebits - 1
  if f.spec = 1 ∧ top = true ∧ m = 2 ^ f.mbits - 1 then .nan
  else if f.spec = 2 ∧ top = true then (if m = 0 then .inf neg else .nan)
  else if e = 0 then .fin neg m f.emin
  else .fin neg (2 ^ f.mbits + m) (f.emin + (e - 1 : Nat))

/-- The code of a NaN result (R118, R127). -/
def Fmt.nanCode (f : Fmt) : Nat :=
  if f.spec = 0 then 0
  else if f.spec = 1 then 2 ^ (f.ebits + f.mbits) - 1
  else if f.mbits = 0 then 0
  else (2 ^ f.ebits - 1) * 2 ^ f.mbits + 2 ^ (f.mbits - 1)

/-- A magnitude code with its sign; an unsigned format writes a negative result as +0 (R119). -/
def Fmt.withSign (f : Fmt) (neg : Bool) (c : Nat) : Nat :=
  if neg then (if f.sgn then 2 ^ (f.ebits + f.mbits) + c else 0) else c

/-- The rounding modes of R84. -/
inductive Rnd where
  | rne | rtz | rdn | rup | rna | rsto
  deriving DecidableEq, Repr

def Rnd.ofCode (n : Nat) : Rnd :=
  if n = 0 then .rne else if n = 1 then .rtz else if n = 2 then .rdn else if n = 3 then .rup else if n = 4 then .rna
  else .rsto

/-- How an instruction rounds: mode, SAT, FTZ, and the stream word of this rounding (R122-R126). -/
structure RCtx where
  rnd : Rnd
  sat : Bool
  ftz : Bool
  word : Nat
  deriving DecidableEq, Repr

/-- Round to nearest even, nothing flushed or saturated: the mode of the samplers and overprint (R267, R382). -/
def RCtx.plain : RCtx := { rnd := .rne, sat := false, ftz := false, word := 0 }

/-- Whether the discarded part moves a magnitude away from zero (R122, R123): `q` is the kept part, the discarded part
is `rem / 2^sh` of a unit. In a format with no mantissa bit a kept part of 1 counts as odd: DESIGN CHOICE, log entry 47. -/
def roundsUp (r : Rnd) (word : Nat) (neg : Bool) (q rem sh : Nat) : Bool :=
  if rem = 0 then false
  else match r with
    | .rne => 2 ^ sh < 2 * rem || (2 * rem == 2 ^ sh && q % 2 == 1)
    | .rtz => false
    | .rdn => neg
    | .rup => !neg
    | .rna => 2 ^ sh ≤ 2 * rem
    | .rsto => 2 ^ 32 ≤ rem * 2 ^ 32 / 2 ^ sh + word

/-- A nonzero magnitude m * 2^e cut at the bit of weight 2^lsb and rounded there; far below that bit the discarded part
is a fraction smaller than 2^-40 of a unit. -/
def roundAt (r : Rnd) (word : Nat) (neg : Bool) (m : Nat) (e lsb : Int) : Nat :=
  if lsb ≤ e then m * 2 ^ (e - lsb).toNat
  else
    let sh := (lsb - e).toNat
    let len := Nat.log2 m + 1
    if len + 40 < sh then (if roundsUp r word neg 0 1 41 then 1 else 0)
    else
      let q := m / 2 ^ sh
      q + (if roundsUp r word neg q (m % 2 ^ sh) sh then 1 else 0)

/-- What an overflow becomes (R124). -/
def Fmt.overflow (f : Fmt) (c : RCtx) (neg : Bool) : Nat :=
  let max := f.withSign neg f.maxCode
  let inf := f.withSign neg ((2 ^ f.ebits - 1) * 2 ^ f.mbits)
  if c.sat = true ∨ f.spec ≠ 2 then max
  else match c.rnd with
    | .rne | .rna | .rsto => inf
    | .rtz => max
    | .rdn => if neg then inf else max
    | .rup => if neg then max else inf

/-- The code a value is written as (R118, R119, R122-R124, R126). `flush` is FTZ where it applies to the result type. -/
def Fmt.round (f : Fmt) (c : RCtx) (flush : Bool) (x : FVal) : Nat :=
  match x with
  | .nan => f.nanCode
  | .inf neg => if f.spec = 2 then f.withSign neg ((2 ^ f.ebits - 1) * 2 ^ f.mbits) else f.withSign neg f.maxCode
  | .fin neg m e =>
    if m = 0 then f.withSign neg 0
    else
      let top := e + (Nat.log2 m : Int)
      if (f.bias : Int) + 2 ^ f.ebits + 64 < top then f.overflow c neg
      else
        let lsb := if f.ebits = 0 then f.emin else max f.emin (top - (f.mbits : Int))
        let q := roundAt c.rnd c.word neg m e lsb
        let code := (lsb - f.emin).toNat * 2 ^ f.mbits + q
        if f.maxCode < code then f.overflow c neg
        else if flush = true ∧ code < 2 ^ f.mbits then f.withSign neg 0
        else f.withSign neg code

/-- A subnormal operand read as a zero of its sign (R126): `c` is its code in an IEEE format. -/
def Fmt.flushIn (f : Fmt) (ftz : Bool) (c : Nat) : Nat :=
  if ftz = true ∧ c / 2 ^ f.mbits % 2 ^ f.ebits = 0 then c - c % 2 ^ f.mbits else c

/-- The value of an IEEE operand under FTZ (R126). -/
def Fmt.read (f : Fmt) (ftz : Bool) (c : Nat) : FVal := f.decode (f.flushIn ftz c)

/-! Exact operations on values (R128). -/

def FVal.neg : FVal → FVal
  | .nan => .nan
  | .inf n => .inf (!n)
  | .fin n m e => .fin (!n) m e

def FVal.abs : FVal → FVal
  | .nan => .nan
  | .inf _ => .inf false
  | .fin _ m e => .fin false m e

def FVal.isNan : FVal → Bool
  | .nan => true
  | _ => false

def FVal.isZero : FVal → Bool
  | .fin _ 0 _ => true
  | _ => false

def FVal.isNeg : FVal → Bool
  | .nan => false
  | .inf n => n
  | .fin n _ _ => n

def FVal.zero : FVal := .fin false 0 0

/-- The value of an integer. -/
def FVal.ofInt (x : Int) : FVal := .fin (decide (x < 0)) x.natAbs 0

def FVal.mul : FVal → FVal → FVal
  | .nan, _ => .nan
  | _, .nan => .nan
  | .inf a, .inf b => .inf (xor a b)
  | .inf a, .fin b m _ => if m = 0 then .nan else .inf (xor a b)
  | .fin a m _, .inf b => if m = 0 then .nan else .inf (xor a b)
  | .fin a m e, .fin b n k => .fin (xor a b) (m * n) (e + k)

/-- A signed multiple of 2^e. -/
def signedAt (neg : Bool) (m : Nat) (e at_ : Int) : Int :=
  let v : Int := (m * 2 ^ (e - at_).toNat : Nat)
  if neg then -v else v

/-- Exact sum; an exact zero of terms that are not zeros of one sign is +0, or -0 under RDN (R128). -/
def FVal.add (rdn : Bool) : FVal → FVal → FVal
  | .nan, _ => .nan
  | _, .nan => .nan
  | .inf a, .inf b => if a = b then .inf a else .nan
  | .inf a, .fin _ _ _ => .inf a
  | .fin _ _ _, .inf b => .inf b
  | .fin a m e, .fin b n k =>
    if m = 0 then (if n = 0 then .fin (if a = b then a else rdn) 0 0 else .fin b n k)
    else if n = 0 then .fin a m e
    else
      let lo := min e k
      let s := signedAt a m e lo + signedAt b n k lo
      if s = 0 then .fin rdn 0 0 else .fin (decide (s < 0)) s.natAbs lo

/-- The exact sum of a list on one grid, for terms that are all finite. -/
def FVal.sub (rdn : Bool) (a b : FVal) : FVal := FVal.add rdn a b.neg

def FVal.fma (rdn : Bool) (a b d : FVal) : FVal := FVal.add rdn (FVal.mul a b) d

/-- Numerical order of two values that are not NaN; -0 equals +0. -/
def FVal.le : FVal → FVal → Bool
  | .nan, _ => false
  | _, .nan => false
  | .inf a, .inf b => a || !b
  | .inf a, .fin _ _ _ => a
  | .fin _ _ _, .inf b => !b
  | .fin a m e, .fin b n k =>
    let lo := min e k
    decide (signedAt a m e lo ≤ signedAt b n k lo)

def FVal.lt (a b : FVal) : Bool := FVal.le a b && !FVal.le b a
def FVal.eq (a b : FVal) : Bool := FVal.le a b && FVal.le b a

/-- minimumNumber and maximumNumber (R128): the non-NaN operand, and -0 below +0. -/
def FVal.min (a b : FVal) : FVal :=
  if a.isNan then b else if b.isNan then a
  else if a.isZero && b.isZero then (if a.isNeg then a else b)
  else if FVal.le a b then a else b

def FVal.max (a b : FVal) : FVal :=
  if a.isNan then b else if b.isNan then a
  else if a.isZero && b.isZero then (if a.isNeg then b else a)
  else if FVal.le a b then b else a

/-! Division and roots: the quotient or root to 200 bits with a sticky bit below them, which every rounding of R122 and
R123 to a format of at most 53 bits rounds as it rounds the exact value. -/

def FVal.div : FVal → FVal → FVal
  | .nan, _ => .nan
  | _, .nan => .nan
  | .inf _, .inf _ => .nan
  | .inf a, .fin b _ _ => .inf (xor a b)
  | .fin a _ _, .inf b => .fin (xor a b) 0 0
  | .fin a m e, .fin b n k =>
    if n = 0 then (if m = 0 then .nan else .inf (xor a b))
    else
      let num := m * 2 ^ (200 + Nat.log2 n)
      .fin (xor a b) (2 * (num / n) + (if num % n = 0 then 0 else 1)) (e - k - 201 - (Nat.log2 n : Int))

/-- The integer square root of `x`, its bits found from bit `i` - 1 down. -/
def isqrtFrom : Nat → Nat → Nat → Nat
  | 0, _, r => r
  | i + 1, x, r => isqrtFrom i x (if (r + 2 ^ i) * (r + 2 ^ i) ≤ x then r + 2 ^ i else r)

def isqrt (x : Nat) : Nat := isqrtFrom (Nat.log2 x / 2 + 1) x 0

def FVal.sqrt : FVal → FVal
  | .nan => .nan
  | .inf n => if n then .nan else .inf false
  | .fin n m e =>
    if m = 0 then .fin n 0 0
    else if n then .nan
    else
      let odd : Nat := if e % 2 = 0 then 0 else 1
      let x := m * 2 ^ (400 + odd)
      let r := isqrt x
      .fin false (2 * r + (if r * r = x then 0 else 1)) ((e - (odd : Int)) / 2 - 201)

def FVal.rsq : FVal → FVal
  | .nan => .nan
  | .inf n => if n then .nan else .fin false 0 0
  | .fin n m e =>
    if m = 0 then .inf n
    else if n then .nan
    else
      let odd : Nat := if e % 2 = 0 then 0 else 1
      -- 1 / sqrt(m 2^odd 2^(e - odd)), to (400 + log2 m) / 2 bits
      let d := m * 2 ^ odd
      let k := 200 + Nat.log2 d
      let r := isqrt (2 ^ (2 * k) / d)
      .fin false (2 * r + (if r * r * d = 2 ^ (2 * k) then 0 else 1)) (-((e - (odd : Int)) / 2) - (k : Int) - 1)

/-- An integral value by a rounding mode: destination precision 1 (R122, R138, R170). The magnitude and the sign. -/
def roundToInt (c : RCtx) (neg : Bool) (m : Nat) (e : Int) : Nat :=
  if m = 0 then 0 else roundAt c.rnd c.word neg m e 0

/-- The integer a finite value rounds to; a magnitude beyond 2^200 stands for any larger one, for clamping. -/
def FVal.toInt (c : RCtx) : FVal → Int
  | .nan => 0
  | .inf n => if n then -(2 ^ 200) else 2 ^ 200
  | .fin n m e =>
    if 200 < e + (Nat.log2 m : Int) then (if m = 0 then 0 else if n then -(2 ^ 200) else 2 ^ 200)
    else
      let v : Int := (roundToInt c n m e : Nat)
      if n then -v else v

/-- `rint` (R170). -/
def FVal.rint (c : RCtx) : FVal → FVal
  | .nan => .nan
  | .inf n => .inf n
  | .fin n m e => if 0 ≤ e then .fin n m e else .fin n (roundToInt c n m e) 0

/-- The largest integer not above a finite value. -/
def FVal.floor : FVal → Int
  | .fin n m e => FVal.toInt { RCtx.plain with rnd := .rdn } (.fin n m e)
  | _ => 0

/-- a - floor(a) exactly (R170). -/
def FVal.frac : FVal → FVal
  | .fin n m e =>
    if 0 ≤ e then .fin false 0 0
    else
      let sh := (-e).toNat
      let r := m % 2 ^ sh
      if r = 0 then .fin false 0 0 else .fin false (if n then 2 ^ sh - r else r) e
  | _ => .nan

/-! Integers (R130). -/

/-- The integer of a w-bit element. -/
def intOf (signed : Bool) (w n : Nat) : Int :=
  if signed && (n % 2 ^ w ≥ 2 ^ (w - 1)) then (n % 2 ^ w : Nat) - (2 ^ w : Nat) else (n % 2 ^ w : Nat)

/-- Least and greatest value of a w-bit element. -/
def intMin (signed : Bool) (w : Nat) : Int := if signed then -(2 ^ (w - 1) : Nat) else 0
def intMax (signed : Bool) (w : Nat) : Int := if signed then (2 ^ (w - 1) : Nat) - 1 else (2 ^ w : Nat) - 1

/-- An exact result narrowed to an element: wrapped, or clamped under SAT (R130). -/
def narrowInt (signed sat : Bool) (w : Nat) (x : Int) : Nat :=
  let y := if sat then max (intMin signed w) (min (intMax signed w) x) else x
  (y % (2 ^ w : Nat)).toNat

/-- Integer division and remainder (R130), on the element's own values. -/
def intDiv (signed sat : Bool) (w : Nat) (a b : Int) : Nat :=
  if b = 0 then 2 ^ w - 1 else narrowInt signed sat w (a.tdiv b)

def intRem (signed : Bool) (w : Nat) (a b : Int) : Nat :=
  if b = 0 then narrowInt signed false w a else narrowInt signed false w (a.tmod b)

/-! DOTSUM (R131). -/

/-- floor(log2 |t|) of a nonzero finite value. -/
def FVal.exponent : FVal → Option Int
  | .fin _ m e => if m = 0 then none else some (e + (Nat.log2 m : Int))
  | _ => none

def maxExponent : List FVal → Option Int
  | [] => none
  | t :: ts => match t.exponent, maxExponent ts with
    | none, r => r
    | some e, none => some e
    | some e, some f => some (max e f)

/-- A term in whole quanta of 2^q, truncated toward zero. -/
def FVal.quanta (q : Int) : FVal → Int
  | .fin n m e => signedAt n (if q ≤ e then m * 2 ^ (e - q).toNat else m / 2 ^ (q - e).toNat) 0 0
  | _ => 0

def FVal.isInf (neg : Bool) : FVal → Bool
  | .inf n => n == neg
  | _ => false

/-- The exact sum that DOTSUM rounds. -/
def dotTotal (rdn : Bool) (terms : List FVal) : FVal :=
  if terms.any FVal.isNan then .nan
  else if terms.any (FVal.isInf false) && terms.any (FVal.isInf true) then .nan
  else if terms.any (FVal.isInf false) then .inf false
  else if terms.any (FVal.isInf true) then .inf true
  else match maxExponent terms with
    | none => .fin rdn 0 0
    | some e =>
      let q := e - 22
      let s := (terms.map (FVal.quanta q)).foldl (· + ·) 0
      if s = 0 then .fin rdn 0 0 else .fin (decide (s < 0)) s.natAbs q

/-- DOTSUM to a result format (R131; f16 in the samplers). -/
def dotSum (f : Fmt) (c : RCtx) (terms : List FVal) : Nat :=
  f.round c c.ftz (dotTotal (c.rnd == .rdn) terms)

/-- A block scale (R120): E8M0, or E4M3. -/
def scaleVal (sfmt code : Nat) : FVal :=
  if sfmt = 0 then (if code = 255 then .nan else .fin false 1 ((code : Int) - 127)) else Fmt.e4m3.decode code

/-! Functions by the reference procedure of R169: y is enclosed between two fixed-point bounds that round to one
binary64, at a precision that is raised until they do. `p` is the number of fraction bits. -/

/-- floor(2^p / k) summed as the odd series of atan or atanh of 1 / k: `n` terms from term `i`. -/
def atanSeries (alt : Bool) (k2 : Nat) : Nat → Nat → Nat → Int
  | 0, _, _ => 0
  | n + 1, i, t =>
    let term : Int := (t / (2 * i + 1) : Nat)
    (if alt && i % 2 == 1 then -term else term) + atanSeries alt k2 n (i + 1) (t / k2)

/-- ln 2 = 2 atanh(1/3). -/
def ln2At (p : Nat) : Nat := (2 * atanSeries false 9 (p / 3 + 2) 0 (2 ^ p / 3)).toNat

/-- pi = 16 atan(1/5) - 4 atan(1/239). -/
def piAt (p : Nat) : Nat :=
  (16 * atanSeries true 25 (p / 4 + 2) 0 (2 ^ p / 5) - 4 * atanSeries true 57121 (p / 15 + 2) 0 (2 ^ p / 239)).toNat

/-- Taylor sums in fixed point: terms t(i) with t(i+1) = t(i) * y / (a(i)), `n` of them. -/
def expSeries (p y : Nat) : Nat → Nat → Nat → Nat
  | 0, _, _ => 0
  | n + 1, i, t => t + expSeries p y n (i + 1) (t * y / 2 ^ p / (i + 1))

/-- The alternating sums 1 - y^2/(s(s+1)) + ... of sin(y)/y (s = 2) and cos(y) (s = 1); `y2` is y^2. -/
def trigSeries (p y2 : Nat) : Nat → Nat → Nat → Bool → Int
  | 0, _, _, _ => 0
  | n + 1, s, t, neg =>
    (if neg then -(t : Int) else (t : Int)) + trigSeries p y2 n (s + 2) (t * y2 / 2 ^ p / (s * (s + 1))) (!neg)

/-- A nonzero magnitude m * 2^e rounded to 53 bits by RNE with unbounded exponent. -/
def round53 (m : Nat) (e : Int) : Nat × Int :=
  let lsb := e + (Nat.log2 m : Int) - 52
  (roundAt .rne 0 false m e lsb, lsb)

/-- Both ends of v ± 2^14 units of 2^e round to one binary64; `k` multiplies both ends by an exact dyadic. -/
def agree53 (v k : Nat) (e : Int) : Option (Nat × Int) :=
  if v ≤ 2 ^ 14 ∨ k = 0 then none
  else
    let a := round53 ((v - 2 ^ 14) * k) e
    let b := round53 ((v + 2 ^ 14) * k) e
    if a = b then some a else none

/-- Fraction bits tried in turn. -/
def precisions : List Nat := [160, 320, 640, 1280, 2560]

def firstAgree (f : Nat → Option (Nat × Int)) : List Nat → Nat × Int
  | [] => (0, 0)
  | p :: ps => match f p with
    | some r => r
    | none => firstAgree f ps

/-- 2^(fr / 2^sh) for 0 < fr < 2^sh, times 2^n. -/
def exp2Mag (fr sh : Nat) (n : Int) : Nat × Int :=
  firstAgree (fun p =>
    let y := fr * ln2At p / 2 ^ sh
    agree53 (expSeries p y p 0 (2 ^ p)) 1 (n - (p : Int))) precisions

/-- exp2 (R168, R169): the value y64. -/
def FVal.exp2 : FVal → FVal
  | .nan => .nan
  | .inf n => if n then .fin false 0 0 else .inf false
  | .fin n m e =>
    if m = 0 then .fin false 1 0
    else
      let whole := FVal.floor (.fin n m e)
      if 200 < e + (Nat.log2 m : Int) then .fin false 1 (if n then -(2 ^ 100) else 2 ^ 100)
      else match FVal.frac (.fin n m e) with
        | .fin _ 0 _ => .fin false 1 whole
        | .fin _ r k => let y := exp2Mag r (-k).toNat whole; .fin false y.1 y.2
        | _ => .nan

/-- ln(t) for t = m / 2^l in [1/2, 2), in units of 2^-p, signed. -/
def lnAt (p m l : Nat) : Int :=
  let num : Int := (m : Int) - (2 ^ l : Nat)
  let z : Nat := num.natAbs * 2 ^ p / (m + 2 ^ l)
  let z2 := z * z / 2 ^ p
  let rec go : Nat → Nat → Nat → Nat
    | 0, _, _ => 0
    | n + 1, i, t => t / (2 * i + 1) + go n (i + 1) (t * z2 / 2 ^ p)
  let s : Int := (2 * go p 0 z : Nat)
  if num < 0 then -s else s

/-- log2 (R168, R169): the value y64. -/
def FVal.log2 : FVal → FVal
  | .nan => .nan
  | .inf n => if n then .nan else .inf false
  | .fin n m e =>
    if m = 0 then .inf true
    else if n then .nan
    else
      let l := Nat.log2 m
      if m = 2 ^ l then FVal.ofInt (e + (l : Int))
      else
        -- t = m / 2^l in (1, 2); above 1.5 use t / 2
        let big := decide (3 * 2 ^ l < 2 * m)
        let l' := if big then l + 1 else l
        let k : Int := e + (l' : Int)
        let y := fun (p : Nat) => k * (2 ^ p : Nat) + lnAt p m l' * (2 ^ p : Nat) / (ln2At p : Int)
        let neg := decide (y 160 < 0)
        let r := firstAgree (fun p => agree53 (y p).natAbs 1 (-(p : Int))) precisions
        .fin neg r.1 r.2

/-- sin(pi z) and cos(pi z) for z = r / 2^sh, 0 < z ≤ 1/4. -/
def sinMag (r sh : Nat) : Nat × Int :=
  firstAgree (fun p =>
    let y := piAt p * r / 2 ^ sh
    let s := (trigSeries p (y * y / 2 ^ p) p 2 (2 ^ p) false).toNat
    agree53 (s * piAt p / 2 ^ p) r (-(p : Int) - (sh : Int))) precisions

def cosMag (r sh : Nat) : Nat × Int :=
  firstAgree (fun p =>
    let y := piAt p * r / 2 ^ sh
    agree53 (trigSeries p (y * y / 2 ^ p) p 1 (2 ^ p) false).toNat 1 (-(p : Int))) precisions

/-- sin(pi q) for q = r / 2^sh with 0 ≤ q < 2 (a whole turn), sh at least 2. -/
def sinTurn (r sh : Nat) : FVal :=
  let one := 2 ^ sh
  let neg := decide (one ≤ r)
  let h := r % one
  let q := if one < 2 * h then one - h else h
  if q = 0 then .fin false 0 0
  else if 2 * q = one then .fin neg 1 0
  else
    let y := if 4 * q ≤ one then sinMag q sh else cosMag (one / 2 - q) sh
    .fin neg y.1 y.2

/-- sinp (R168, R169): an integer gives a zero with the sign of a. -/
def FVal.sinp : FVal → FVal
  | .fin n m e =>
    if 0 ≤ e then .fin n 0 0
    else
      let sh := (-e).toNat + 2
      let r := 4 * m % 2 ^ (sh + 1)
      match sinTurn r sh with
      | .fin s k x => if k = 0 then .fin n 0 0 else .fin (xor n s) k x
      | y => y
  | _ => .nan

/-- cosp (R168, R169): n + 0.5 gives +0. -/
def FVal.cosp : FVal → FVal
  | .fin _ m e =>
    if 0 ≤ e then .fin (decide (e = 0 ∧ m % 2 = 1)) 1 0
    else
      let sh := (-e).toNat + 2
      match sinTurn ((4 * m + 2 ^ (sh - 1)) % 2 ^ (sh + 1)) sh with
      | .fin s k x => if k = 0 then .fin false 0 0 else .fin s k x
      | y => y
  | _ => .nan

/-! Exact accumulation (R135, R136). -/

/-- A finite value as SUM: a multiple of 2^-149 modulo 2^384. -/
def sumOf : FVal → BitVec 384
  | .fin n m e => BitVec.ofInt 384 (signedAt n m e (-149))
  | _ => 0

/-- read(t) of R136 for a type. -/
def readExact (f : Fmt) (state : Nat) (sum : BitVec 384) : Nat :=
  if state = 0 then
    let s := sum.toInt
    f.round RCtx.plain false (if s = 0 then .fin false 0 0 else .fin (decide (s < 0)) s.natAbs (-149))
  else if state = 1 then f.round RCtx.plain false (.inf false)
  else if state = 2 then f.round RCtx.plain false (.inf true)
  else f.nanCode

/-- An accumulator created from the value in memory (R136): STATE and SUM; from a NaN or an infinity with SUM 0, of which the rule
says nothing (DESIGN CHOICE, log entry 47). -/
def exactOf : FVal → Nat × BitVec 384
  | .nan => (3, 0)
  | .inf n => (if n then 2 else 1, 0)
  | x => (0, sumOf x)

/-- A DET add of an element (R136). -/
def exactAdd (state : Nat) (sum : BitVec 384) : FVal → Nat × BitVec 384
  | .nan => (3, sum)
  | .inf n =>
    let s := if n then 2 else 1
    (if state = 3 ∨ state = 3 - s then 3 else s, sum)
  | x => if state = 0 then (0, sum + sumOf x) else (state, sum)

/-- The mixing function of the random stream (R375). -/
def mix32 (x : Word) : Word :=
  let a := x ^^^ (x >>> 16)
  let b := a * 0x7FEB352D#32
  let c := b ^^^ (b >>> 15)
  let d := c * 0x846CA68B#32
  d ^^^ (d >>> 16)

/-- Word n of a lane's stream (R375). -/
def streamWord (seed launch : Word) (glid : DWord) (n : Word) : Word :=
  let k := mix32 (seed ^^^ mix32 (glid.setWidth 32 ^^^ mix32 ((glid >>> 32).setWidth 32 + launch)))
  mix32 (k + n * 0x9E3779B9#32)

end Sys2Proof.Machine
end

