-- ==== Sys2Proof/Machine/State.lean ====
section
/-!
DEFINITION. The state of the module as plain data: lanes, groups, teams, launches, the units of cores, clusters and
partitions, the memory system, the firmware's state, and the model's own fields (log entry 2). `State.reset` is the
module before its first event: nothing is placed and no context exists.
-/
namespace Sys2Proof.Machine
open Sys2Proof

/-- Why the model stops. None of these is an exception of the spec: those are taken and give a next state. -/
inductive Fault where
  /-- `exec` of an instruction word or of the clause header while no gang is selected: no lane could issue it. Safe. -/
  | noGang
  /-- `exec` of a word for a gang that is not ready (R22): nothing issues. `step` goes to the next gang instead. Safe. -/
  | blocked
  /-- `exec` of an event whose condition does not hold in this state: the event cannot happen now. Safe. -/
  | notEnabled
  deriving DecidableEq, Repr

/-- Why the model gives no meaning. -/
inductive Refusal where
  /-- `exec` of an instruction that has no meaning in the model yet. Safe: nothing is claimed of it. -/
  | notModelled (mnemonic : String)
  deriving DecidableEq, Repr

/-- A table by number. -/
abbrev Tab (α : Type) := List (Nat × α)

/-- Memory in canonical form: addresses strictly rising, no byte equal to what an unlisted address reads as. -/
abbrev Memory := List Host.Cell

/-- The fault codes of R316. -/
inductive FCode where
  | illegalOpcode | illegalClause | illegalOperand | modeField | format | regBounds | uniform | align
  | translation | permission | rangeLock | deferCycle | deferPoison | deferBusy | stack | futureInvalid
  | jointTimeout | successorFit | launchRecord | breakpoint | softwareTrap | lockupBreach | eccUncorrectable
  | preemptTimeout | galley | deferTimeout | accBounds | barrier | watchdog
  deriving DecidableEq, Repr

/-- The 5-bit tags of R71. -/
inductive Tag where
  | raw | i32 | n32 | f32 | f16p | bf16p | i16p | n16p | i8q | n8q
  | f64l | f64h | i64l | i64h | n64l | n64h
  | narrow (k : Fin 8)
  | future | pending
  deriving DecidableEq, Repr

/-- A tagged 32-bit register (R68, R71). -/
structure Reg where
  bits : Word
  tag : Tag
  deriving DecidableEq, Repr

/-- An index register (R69). -/
structure XReg where
  off : Byte
  limit : Byte
  base : Byte
  deriving DecidableEq, Repr

/-- A clause fetched whole (R52): the address of its header, the header word and the words after it. -/
structure Clause where
  hdr : DWord
  header : Word
  words : List Word
  deriving DecidableEq, Repr

/-- The sequence key of a primitive (R279): draw index, mesh group index, primitive index. -/
structure SeqKey where
  draw : Nat
  mesh : Nat
  prim : Nat
  deriving DecidableEq, Repr

/-- What a fragment lane stands for (R280, R380). -/
structure Frag where
  key : SeqKey
  tile : Nat
  px : Nat
  py : Nat
  helper : Bool
  decided : Bool
  deriving DecidableEq, Repr

/-- A task handed to a task unit (R220). -/
structure Task where
  entry : DWord
  regs : Nat
  stack : Nat
  arg : DWord
  deriving DecidableEq, Repr

/-- An engine operation's kind with its checked descriptor (R272-R277). `bytes` is the descriptor as read. -/
inductive EngKind where
  | copy | coll | gath | xfer | smma | wpin | winv
  deriving DecidableEq, Repr

/-- A register destination of one lane's access: the first register of its run. -/
inductive Dst where
  | none
  | v (n : Nat)
  | s (n : Nat)
  deriving DecidableEq, Repr

/-- An engine operation that a lane has still to issue while its gang is held (R269), with the lanes that receive its
handle and where; `pc` and `all` name the instruction and its participating lanes, `issued` the cycle of its issue, and `timed` whether it has a deadline in lockup mode (R391). -/
structure EngReq where
  kind : EngKind
  lid : Nat
  writers : List (Nat × Dst)
  desc : List Byte
  hdrVa : DWord
  lockSrc : List (Nat × Nat)
  lockDst : List (Nat × Nat)
  pc : DWord
  all : List Nat
  issued : Nat
  timed : Bool
  deriving DecidableEq, Repr

/-- What holds a gang (R203), kept by its leader; the other lanes follow. The lanes' PC stays at the held instruction until
the hold ends, so that a save finds it not executed (R247). -/
inductive Hold where
  /-- `fence` of a kind (R189) at a scope. -/
  | fence (kind : Nat) (scope : Nat)
  /-- `cmo` of a kind and level on the byte ranges of the gang's lanes (R190-R192). -/
  | cmo (kind : Nat) (level : Nat) (ranges : List (Nat × DWord × Nat))
  /-- A read that comes before the instruction's effect, outstanding: that of `ret` (R208), or one that waits on a deferred cell (R198).
  Every lane keeps this one. -/
  | ret (op : Nat)
  /-- `tim.wcyc` until a count (R242). -/
  | wcyc (target : Nat)
  /-- `spawn`: the tasks still to hand over, each with its lane (R220). -/
  | spawn (rest : List (Nat × Task))
  /-- `launch`: the records still to queue, each with its lane (R222). -/
  | launch (rest : List (Nat × List Byte))
  /-- `eng.*`: a number of its own, the end of its hold in lockup mode (row 27 of R388), the operations still to issue, and
  the scope and fm values of its issue (R269, R270). -/
  | eng (id : Nat) (due : Option Nat) (rest : List EngReq) (scope : Nat) (fm : List Word)
  /-- `prim.fout` of lanes with their four inputs: their tile's pending store is full (R383). -/
  | fout (rest : List (Nat × List Word))
  /-- held with the leader of the gang. -/
  | follow (lead : Nat)
  deriving DecidableEq, Repr

/-- A lane (R13). `skip`: a save or a swap-out has left it at an instruction of which it has done a part that is not done again when the
instruction is reissued (R247): its task or record of a `spawn` or `launch` is handed over, or its arrival at a `bar.meet` counted. -/
structure Lane where
  lid : Nat
  exited : Bool
  pc : DWord
  depth : Nat
  clause : Option Clause
  v : List Reg
  p : BitVec 48
  x : List XReg
  sp : DWord
  rctr : Word
  cych : Word
  glid : DWord
  spin : Nat
  yielded : Bool
  hold : Option Hold
  skip : Bool
  frame : Nat
  ticket : Word
  chain : List Nat
  published : Bool
  cell : Nat
  cellVa : DWord
  frag : Option Frag
  deriving DecidableEq, Repr

/-- The reuse latch of a group (R255): A values of every non-exited lane, their base, ETYPE and fm value. -/
structure Latch where
  base : Nat
  etype : Nat
  fm : Word
  regs : List (Nat × List Reg)
  deriving DecidableEq, Repr

/-- Where a translated address leads: a physical address with the leaf's attributes, or a byte of a scratchpad. -/
inductive Place where
  | pa (pa : Nat) (cacheable coherent deferred : Bool)
  | scr (key : Nat)
  deriving DecidableEq, Repr

/-- What a group waits for (R22, R203). The lanes stay at the waiting instruction until the wait ends; the group's
`waiting` names them. -/
inductive GWait where
  /-- a barrier wait of a phase; `met` tells that a `bar.meet`'s arrival has counted (R217, R247). -/
  | barrier (b : Nat) (phase : Nat)
  /-- `waitv` (R219): the operation that reads its words, and the cycle by which they are read again. -/
  | waitv (op : Nat) (due : Nat)
  /-- `fut.wait` (R239), issued again when a handle it waits for is done. -/
  | futWait
  /-- `fpop` (R228) on a feed queue, issued again when the queue has a record or is closed. -/
  | fpop (q : Nat)
  /-- a regroup half: give or take, the peer's GIX, the register count, the predicate and the lanes past the guard. -/
  | regroup (give : Bool) (peer : Nat) (n : Nat) (pd : Nat) (lanes : List Nat)
  deriving DecidableEq, Repr

/-- A halting fault found (R316, R320): enough to write its stop record. -/
structure FaultRec where
  gid : Option Nat
  code : FCode
  pc : DWord
  mask : Nat
  addr : DWord
  core : Nat
  gslot : Nat
  gix : Nat
  tix : Nat
  launchId : Word
  unit : Nat
  detail : Nat
  delivered : List Nat
  written : Option Nat
  header : Bool
  hword : Option Word
  trap : Bool
  found : Nat
  deriving DecidableEq, Repr

/-- A group (R14). `placed` is the cycle of its placement (R27), `since` the cycle from which it has been ready and not selected, as its
issue slot has found it (R28). `pace` holds what is not due yet in lockup mode (R388): lane, result or next instruction, and cycle. -/
structure Group where
  gid : Nat
  tid : Nat
  part : Nat
  gix : Nat
  width : Nat
  budget : Nat
  role : Nat
  core : Nat
  gslot : Nat
  islot : Nat
  gen : Nat
  placed : Nat
  selectable : Bool
  since : Option Nat
  mode : Word
  sregs : List Reg
  fm : List Word
  om : List (BitVec 128)
  flags : List Nat
  latch : Option Latch
  wait : Option GWait
  waiting : List Nat
  parked : Option Nat
  parking : Option FaultRec
  breach : Nat
  prims : Nat
  primsClosed : Bool
  barLast : List (Option Nat)
  pace : List (Nat × Nat × Nat)
  lanes : List Lane
  deriving DecidableEq, Repr

/-- The kinds of team (R15). -/
inductive TeamKind where
  | launch | task | evaluator | fragment
  deriving DecidableEq, Repr

/-- A barrier (R217, R218): phase, arrived groups; `marks` names, for each arrival, the group and the first operation number after it;
`flip` is the cycle in which a met phase completes in lockup mode (row 25 of R388); then the groups still to leave, the marks whose
earlier operations must be over before they leave, and the cycle of their next wave. -/
structure Barrier where
  ph : Nat
  arrived : List Nat
  marks : List (Nat × Nat)
  flip : Option Nat
  leaving : List Nat
  after : List (Nat × Nat)
  due : Nat
  deriving DecidableEq, Repr

/-- The state of a future-table entry (R237). -/
inductive FutState where
  | free | busy | done
  deriving DecidableEq, Repr

/-- A future-table entry (R237, R238). -/
structure Fut where
  st : FutState
  gen : Nat
  kept : Option Word
  orphan : Bool
  deriving DecidableEq, Repr

/-- The fields of a launch record (R223). -/
structure LaunchRec where
  entry : DWord
  arg : DWord
  teams : Nat
  groups : Nat
  width : Nat
  regs : Nat
  acc : Nat
  scratch : Nat
  stack : Nat
  stagger : Nat
  pair : Bool
  quad : Bool
  breachTrap : Bool
  forme : Bool
  counter : DWord
  seed : Word
  launchId : Word
  roles : List (DWord × Nat × Nat)
  deriving DecidableEq, Repr

/-- The joint operations of a joint set (R257-R259): how many each member has issued. -/
structure JointSt where
  issued : List Nat
  deriving DecidableEq, Repr

/-- A team (R30). `stamp` rises with its placement (R360); `draw` is the draw of a fragment group or of its successors (R42, R380). -/
structure Team where
  tid : Nat
  kind : TeamKind
  part : Nat
  launch : Nat
  tix : Nat
  shape : LaunchRec
  cores : List Nat
  barriers : List Barrier
  futs : List Fut
  pending : List (Nat × List Byte)
  pclass : Option Nat
  joint : JointSt
  succ : Option LaunchRec
  placedAt : Nat
  hidden : List Nat
  nGroups : Nat
  out : Bool
  candidateSince : Option Nat
  draw : Option Nat
  stamp : Nat
  deriving DecidableEq, Repr

/-- Who started a launch. -/
inductive LaunchOrigin where
  | packet (queue : Nat) (serial : Nat)
  | device
  | draw (idx : Nat)
  deriving DecidableEq, Repr

/-- A launch (R34, R226, R356): the record, how many teams are placed, and how many of its teams (successor chains
included) have retired. -/
structure Launch where
  lno : Nat
  part : Nat
  shape : LaunchRec
  origin : LaunchOrigin
  nextTix : Nat
  retired : Nat
  lastPlaced : Option Nat
  inTable : Bool
  deriving DecidableEq, Repr

/-- The kinds of outstanding memory operation. -/
inductive OpKind where
  | load | lda | dtag
  | atomic (op : Nat) (det : Bool)
  | strl
  | ret
  | waitv
  | smp
  | accLd | accSt
  | store
  | plate
  /-- a read that an instruction makes before it issues and that waits on a deferred cell. -/
  | look
  deriving DecidableEq, Repr

/-- One access of an outstanding operation: its lane, address and place, the data it carries, the lanes that write its
result and where, and, once performed, the bytes read. -/
structure Acc where
  lid : Nat
  va : DWord
  place : Place
  data : List Byte
  writers : List (Nat × Dst)
  got : Option (List Byte)
  cell : Option Nat
  joined : Nat
  deriving DecidableEq, Repr

/-- A long-latency instruction in flight, a release store or `ret` read that waits for earlier accesses of its lanes, a store held
for a tile, or a read that waits before its instruction issues (R56, R57, R187, R198, R208, R253). `gslot` is its group's slot; a `gen`
of 4096 is one that no group has. The words of a `waitv` are those read last. `size` is the access size; `mode`, `fm` and `om` are those of its issue (R86). -/
structure Op where
  opid : Nat
  gid : Nat
  tid : Nat
  part : Nat
  core : Nat
  gslot : Nat
  gen : Nat
  pc : DWord
  word : Word
  mode : Word
  fmv : Word
  omv : BitVec 128
  flag : Option Nat
  kind : OpKind
  size : Nat
  tags : List Tag
  accs : List Acc
  started : Bool
  breached : Bool
  deadline : Option Nat
  missed : Bool
  words : List Word
  hdrVa : DWord
  hdr : List Byte
  deriving DecidableEq, Repr

/-- The kinds of matrix-queue entry (R250). -/
inductive MxKind where
  | mma | mmj
  | zero | ld | st | rd | scale
  deriving DecidableEq, Repr

/-- The captured operands of one owned row (R249, R252, R261-R264): the lane, its q, the matrix row, the words read (A's
data then its scale, or the factor of `acc.scale`) and the stream words taken. -/
structure MxRow where
  lid : Nat
  q : Nat
  row : Nat
  words : List Word
  stream : List Word
  deriving DecidableEq, Repr

/-- The B tile of a matrix multiply as its issue read it (R253): its element tag and fm value, the first tile row, the bytes
of each of its rows in column order, the scale codes of each row, and the scratchpad bytes that hold all these, with their lengths. -/
structure MxTile where
  etag : Nat
  fm : Word
  first : Nat
  rows : List (List Byte)
  scales : List (List Byte)
  keys : List (Nat × Nat)
  deriving DecidableEq, Repr

/-- An entry of a core's matrix queue (R250), with everything it read at issue (R86, R252, R253). `accKey` and `accBase`
name the slots, `dst` the registers of `acc.rd`, `writers` the participating lanes, `issued` the cycle of its issue, `done` the chunks or
k steps of a multiply that are over (R256), and `cost` the cycles from its start to its deadline, 0 where it has none (R388, R391). -/
structure MxEntry where
  opid : Nat
  gid : Nat
  tid : Nat
  part : Nat
  gen : Nat
  pc : DWord
  word : Word
  kind : MxKind
  mode : Word
  fmv : Word
  omv : BitVec 128
  accKey : Nat
  accBase : Nat
  ncols : Nat
  aux : Nat
  dst : Nat
  rows : List MxRow
  writers : List Nat
  tile : MxTile
  flag : Option Nat
  deadline : Option Nat
  breached : Bool
  jointNo : Nat
  member : Nat
  issued : Nat
  done : Nat
  cost : Nat
  deriving DecidableEq, Repr

/-- An engine operation (R269-R277); `held` is what a sort carries between its passes; `pc` and `lids` name its instruction and that instruction's participating lanes. -/
structure Eng where
  eid : Nat
  kind : EngKind
  part : Nat
  core : Nat
  gid : Nat
  tid : Nat
  fut : Nat
  gen : Nat
  scope : Nat
  desc : List Byte
  hdrVa : DWord
  fm : List Word
  cancelled : Bool
  progress : Nat
  held : List Byte
  halfDone : List Nat
  parkSeq : Option Nat
  deadline : Option Nat
  packet : Option (Nat × Nat)
  launch : Nat
  tix : Nat
  pc : DWord
  lids : List Nat
  deriving DecidableEq, Repr

/-- An entry of a core's range-lock table (R202): an engine operation with its source and destination ranges, each a
space (0 translated, else a scratchpad allocation) with first byte and length. -/
structure Lock where
  eid : Nat
  src : List (Nat × Nat)
  dst : List (Nat × Nat)
  deriving DecidableEq, Repr

/-- An item of a sampler's order (R372): a quad operation of an `smp`, or a `winv` observation, with whether it has been
made (R374). -/
inductive SampItem where
  | quad (opid : Nat) (slice : Nat)
  | observe (eid : Nat) (hdrVa : DWord) (done : Bool)
  deriving DecidableEq, Repr

/-- A weight block: its tag (R373), bytes, pin and last use; and the fills in progress with their tags. -/
structure WBlock where
  hdrVa : DWord
  wver : Nat
  block : Nat
  data : List Byte
  pinned : Bool
  used : Nat
  deriving DecidableEq, Repr

/-- A weight fill in progress (R373): the block's tag, whether it pins, its image address, and the engine operation it
belongs to, if any. -/
structure Fill where
  hdrVa : DWord
  wver : Nat
  block : Nat
  pin : Bool
  wbase : DWord
  imageLen : Nat
  eng : Option Nat
  deriving DecidableEq, Repr

/-- A sampler (R372-R374): its order, its weight cache, its fills, and in lockup mode the start of its latest quad (R389); `clock`
counts the uses of its blocks. -/
structure Sampler where
  order : List SampItem
  blocks : List WBlock
  fills : List Fill
  lastStart : Option Nat
  clock : Nat
  deriving DecidableEq, Repr

/-- A core's own state; `lastSel` names, for a placement and issue slot, the group slot last selected there (R28), and `busy` the
cycle from which each issue slot may select again (R18). -/
structure Core where
  working : Bool
  cw : Nat
  locks : List Lock
  mq : List MxEntry
  samplers : List Sampler
  starved : List (Nat × Nat)
  busy : List Nat
  lastSel : Tab Nat
  lastDeadline : Nat
  lastCopy : Nat
  deriving DecidableEq, Repr

/-- A task wave, gathered or released (R36, R37, R362). -/
structure Wave where
  wno : Nat
  entry : DWord
  regs : Nat
  stack : Nat
  tasks : List (Nat × DWord)
  core : Nat
  first : Nat
  deriving DecidableEq, Repr

/-- A tile frame of a cluster's overprint unit (R378): its draw and tile, and four f32 channels a pixel. -/
structure TileFrame where
  draw : Nat
  tile : Nat
  pixels : List Word
  closed : List Nat
  deriving DecidableEq, Repr

/-- A limit state (R398, R399): its value, the reading it is compared with, when it last changed, and since when the condition
of each of the states 1 to 3 has held: to rise to it while the state is below it, else to fall below it. -/
structure Limit where
  state : Nat
  reading : Nat
  changed : Nat
  since : List (Option Nat)
  deriving DecidableEq, Repr

/-- A voted sensor set (R400): three readings, failure marks, and since when each has differed. -/
structure SensorSet where
  readings : List Nat
  failed : List Bool
  since : List (Option Nat)
  deriving DecidableEq, Repr

/-- A lane of a formed quad (R380): pixel, whether covered, the values of v4, v5 and v6. -/
structure QuadLane where
  px : Nat
  py : Nat
  covered : Bool
  w4 : Word
  w5 : Word
  depth : Word
  deriving DecidableEq, Repr

/-- A quad of a primitive (R380). -/
structure Quad where
  key : SeqKey
  payload : Word
  lanes : List QuadLane
  deriving DecidableEq, Repr

/-- A fragment group that is formed but not placed (R380). -/
structure FragGroup where
  draw : Nat
  tile : Nat
  first : Nat
  quads : List Quad
  deriving DecidableEq, Repr

/-- A cluster's own state. -/
structure Cluster where
  cyc : Nat
  waves : List Wave
  released : List Wave
  nextWave : Nat
  cslope : Word
  cls : Nat
  change : Option (Nat × Nat)
  lastChange : Option Nat
  thermal : Limit
  current : Limit
  tempSet : SensorSet
  currSet : SensorSet
  frames : List TileFrame
  frags : List FragGroup
  deriving DecidableEq, Repr

/-- The fields of a context descriptor (R332). -/
structure Desc where
  root : Nat
  ctxid : Nat
  ringBase : Nat
  save : Nat
  saveLen : Nat
  spill : Nat
  spillLen : Nat
  heap : DWord
  heapN : Nat
  ringLen : Nat
  parkPct : Nat
  poolW : Nat
  shadowW : Nat
  timing : Nat
  gatherWait : Nat
  deadlineA : Nat
  deadlineB : Nat
  deferTimeout : Nat
  jointWait : Nat
  swapWait : Nat
  watchdog : Nat
  stackPool : Nat
  stackLen : Nat
  wresPa : Nat
  bytes : List Byte
  deriving DecidableEq, Repr

/-- The run state of a context (R320, R326, R408). -/
inductive RunState where
  | created | running | draining | saving | out | ended
  deriving DecidableEq, Repr

/-- A replay record (R324). -/
structure Replay where
  gid : Nat
  op : Op
  ckind : Nat
  mask : List Nat
  seq : Nat
  resumeAt : Nat
  mx : Option MxEntry
  deriving DecidableEq, Repr

/-- What an open park record stands for (R317, R318, R352, R377). -/
inductive Parked where
  | group (gid : Nat)
  | engine (eid : Nat)
  | queue (q : Nat)
  | frame (draw tile : Nat)
  | fill (core sampler : Nat)
  deriving DecidableEq, Repr

/-- A command queue (R347, R354, R355): the physical address of its descriptor, the descriptor's fields, PASS, and the front
end's own state: the packet read and not started, or the WAIT not completed (`cur`, with its offset), the INDIRECT buffer's
next address and words left and its units read but not used up, by number, the park ticket it is blocked on, the serial
numbers of started packets that are not complete, and when its packet was read, in the arrival order of R356. -/
structure Queue where
  desc : Nat
  base : Nat
  size : Nat
  head : Nat
  tail : Nat
  tickets : Nat
  state : Nat
  errCode : Nat
  errOff : Nat
  pass : Nat
  cur : Option (List Word)
  curOff : Nat
  indirect : Option (DWord × Nat)
  units : Tab (List Word)
  waiting : Bool
  parkSeq : Option Nat
  live : List Nat
  serial : Nat
  stamp : Nat
  deriving DecidableEq, Repr

/-- A feed queue (R351). -/
structure Feed where
  records : List (List Byte)
  closed : Bool
  deriving DecidableEq, Repr

/-- A lane of an evaluator wave (R337, R339): argument pointer, cell address, ticket, chain, the cell's key and the number of
its trigger (R15). -/
structure EvalLane where
  arg : DWord
  va : DWord
  ticket : Nat
  chain : List Nat
  cell : Nat
  trig : Nat
  deriving DecidableEq, Repr

/-- An evaluator wave formed and not placed (R337, R338): its first loader's core, and whether it has gone to the partition's
evaluator queue. -/
structure EvalWave where
  entry : DWord
  lanes : List EvalLane
  core : Nat
  queued : Bool
  deriving DecidableEq, Repr

/-- A way-reservation register and its counter (R288, R289). -/
structure Wres where
  val : BitVec 128
  count : Nat
  deriving DecidableEq, Repr

/-- A primitive emitted (R279): its key, kind (0 triangle, 1 ellipse, 2 point), payload and f32 coordinates. -/
structure Prim where
  key : SeqKey
  kind : Nat
  payload : Word
  coords : List Word
  deriving DecidableEq, Repr

/-- The status of a fragment (R280, R383). -/
inductive FragState where
  | pending | fout (inputs : List Word) | resolved
  deriving DecidableEq, Repr

/-- A covered fragment of a draw (R380, R383). -/
structure DrawFrag where
  key : SeqKey
  tile : Nat
  px : Nat
  py : Nat
  st : FragState
  deriving DecidableEq, Repr

/-- A draw in flight (R377-R383): `needs` the clusters that own a tile of it and `allocs` the cores of its frame allocations, in
the same order; `prims` as emitted; `closedGroups` the mesh groups whose streams are closed; `released` the count of quads
released by tile; `written` the tiles written back. -/
structure Draw where
  idx : Nat
  queue : Nat
  serial : Nat
  width : Nat
  height : Nat
  target : DWord
  clear : Bool
  clearV : List Word
  prog : List Word
  thresh : Word
  fentry : DWord
  fregs : Nat
  fwidth : Nat
  farg : DWord
  mesh : LaunchRec
  launch : Nat
  allocs : List Nat
  needs : List Nat
  prims : List Prim
  closedGroups : List Nat
  released : List (Nat × Nat)
  frags : List DrawFrag
  written : List Nat
  deriving DecidableEq, Repr

/-- A partition's own state. `stale` lists the results of captured instructions that have still to return (R325): a number of their
own, the group and the generation of their issue. `arrivals` are the tasks that have arrived at task units in this cycle, each with its
core, and are numbered as the cycle ends (R15). -/
structure Part where
  desc : Option Desc
  run : RunState
  halt : Bool
  haltAt : Option Nat
  faults : List FaultRec
  replays : List Replay
  nextCapture : Nat
  seq : Nat
  ringTail : Nat
  parks : List (Nat × Parked)
  nextTicket : Nat
  tasks : Nat
  triggers : Nat
  dropped : Nat
  nextDraw : Nat
  draws : List Draw
  queues : List Queue
  feeds : List Feed
  launches : List Launch
  evals : List EvalWave
  out : List Nat
  wres : List Wres
  cyc : Nat
  paused : Bool
  stackUsed : List (Nat × Nat)
  overflow : Bool
  waiters : List (Nat × Nat)
  replaying : List Nat
  preemptAt : Option Nat
  progress : Nat
  trace : List (Nat × Word)
  tracing : Bool
  stale : List (Nat × Nat × Nat)
  arrivals : List (Nat × Task)
  deriving DecidableEq, Repr

/-- The 128 bytes of a cached line, with a dirty mark for each (R281, R297). -/
structure LineBytes where
  data : List Byte
  dirty : List Bool
  deriving DecidableEq, Repr

/-- A line in an L1 or texel cache (R281, R297): its core, its cache (0 the L1, 1 to 4 the texel caches), physical line number,
and whether it is marked to be replaced first (R188). A cache's lines stand with the latest used first. -/
structure CLine where
  core : Nat
  cache : Nat
  line : Nat
  stream : Bool
  body : LineBytes
  deriving DecidableEq, Repr

/-- A line in an L2 (R281, R287, R289): the partition and the slice in it that hold it, the line's number as a memory key and by physical
address, class (0 normal, 1
stream, 2 + k retained by wres k), and the clusters of its last 16 counted accesses. The lines stand with the latest used first. -/
structure L2Line where
  part : Nat
  line : Nat
  phys : Nat
  slice : Nat
  cls : Nat
  hist : List Nat
  body : LineBytes
  deriving DecidableEq, Repr

/-- Where an error stands (R282): a line of memory or of an L2, a line of a core's L1 or of one of its texel caches, a block of a
weight cache, 128 bytes of a scratchpad, an accumulator slot, a vector, predicate or index register of a lane, or an s register of a
group. -/
inductive ErrSite where
  | mem (line : Nat)
  | l1 (core line : Nat)
  | texel (core sampler line : Nat)
  | block (core sampler : Nat) (hdrVa : DWord) (wver block : Nat)
  | scr (block : Nat)
  | acc (slot : Nat)
  | reg (gid lid i : Nat)
  | pred (gid lid i : Nat)
  | xreg (gid lid i : Nat)
  | sreg (gid i : Nat)
  deriving DecidableEq, Repr

/-- An exact accumulator (R135, R292): its word, element, type (0 f32, 1 f16, 2 bf16), STATE and SUM, and its entry of
the spill area if it is there and not in the pool. -/
structure Exact where
  pa : Nat
  elem : Nat
  ty : Nat
  state : Nat
  sum : BitVec 384
  spill : Option Nat
  deriving DecidableEq, Repr

/-- A TLB entry (R314): partition, cluster-level or core-level, page base and size as shifts, and the leaf entry. -/
structure Tlb where
  part : Nat
  owner : Nat
  level2 : Bool
  vpage : Nat
  shift : Nat
  leaf : DWord
  deriving DecidableEq, Repr

/-- The memory system: memory, scratchpads and accumulator slots as bytes, cell tags, exact accumulators, lines of the L1s and
texel caches and of the L2s, TLBs, errors (R282; true: uncorrectable), the count of corrected ones, the partitioning (R1), the
partitions whose slices count no accesses (R287), and the links: routing entries, working ports and the count of writes dropped
for want of a way (R410). -/
structure Store where
  mem : Memory
  scr : Memory
  acc : Memory
  cells : Tab Nat
  exact : List Exact
  lines : List CLine
  l2 : List L2Line
  tlb : List Tlb
  errs : List (ErrSite × Bool)
  corrected : Nat
  nparts : Nat
  still : List Nat
  windows : List (Nat × Nat)
  routes : Tab Nat
  portsUp : Nat
  drops : Nat
  deriving DecidableEq, Repr

/-- The firmware's state (R405, R412-R415); `rootDigest` is the root key's in fuses, `key` the identity key pair once it is created. -/
structure Firmware where
  powered : Bool
  recovery : Bool
  active : Nat
  version : Nat
  digest : List Byte
  minVersion : Nat
  flash : List Byte
  serialNo : List Byte
  moduleNo : Nat
  near : List Nat
  attests : Nat
  update : Option (List Byte)
  rootDigest : List Byte
  key : Option (Nat × Nat × Nat)
  deriving DecidableEq, Repr

/-- The health block (R416): its live sources, whether only the commands of R417 are accepted, and the 68 bytes shown since the
last refresh. -/
structure Health where
  thermStop : Bool
  hot : Bool
  failed : Nat
  inRefuse : Nat
  cellDrop : Nat
  temp : Word
  power : Word
  shown : List Byte
  deriving DecidableEq, Repr

/-- The mailbox (R408). -/
structure Mailbox where
  command : List Byte
  taken : List Byte
  busy : Bool
  response : List Byte
  deriving DecidableEq, Repr

/-- What firmware changes in a group of a halted context, in its team or in the team's allocations, or in the context's cores, task
units and partition, for a debugger: all that R327 names (R328, R331). -/
inductive Poke where
  | v (lid i : Nat) (r : Reg)
  | s (i : Nat) (r : Reg)
  | p (lid i : Nat) (b : Bool)
  | x (lid k : Nat) (r : XReg)
  | pc (lid : Nat) (a : DWord)
  | sp (lid : Nat) (a : DWord)
  | mode (w : Word)
  | fm (i : Nat) (w : Word)
  | om (i : Nat) (v : BitVec 128)
  | rctr (lid : Nat) (w : Word)
  | depth (lid n : Nat)
  | glid (lid : Nat) (a : DWord)
  | spin (lid n : Nat)
  | yielded (lid : Nat) (b : Bool)
  | flag (i n : Nat)
  | barrier (i : Nat) (b : Barrier)
  | future (i : Nat) (f : Fut)
  | pending (rs : List (Nat × List Byte))
  | scratch (off : Nat) (bs : List Byte)
  | slots (off : Nat) (bs : List Byte)
  | exited (lid : Nat) (b : Bool)
  | lid (lid new : Nat)
  | latch (x : Option Latch)
  | parked (x : Option Nat)
  | replays (rs : List Replay)
  | carve (core n : Nat)
  | locks (core : Nat) (ls : List Lock)
  | queue (core : Nat) (xs : List MxEntry)
  | engine (e : Eng)
  | tasks (cluster : Nat) (waves released : List Wave)
  | feed (i : Nat) (f : Feed)
  | cyc (cluster n : Nat)
  | dropped (n : Nat)
  deriving DecidableEq, Repr

/-- A turn of one agent: what the next step does (log entry 2). -/
inductive Turn where
  /-- The issue slot of a core selects a group and issues. -/
  | issue (core : Nat) (slot : Nat)
  /-- An event of the opcode table. -/
  | event (i : Instr)
  /-- Time passes: some cycles of each cluster's own clock, and `ref` cycles of 500 ps of the reference and of module time; a turn that
  would pass the end of a frame stops there. -/
  | elapse (cycles : List Nat) (ref : Nat)
  /-- An error strikes a place (R282): one that its code corrects, or not. -/
  | upset (site : ErrSite) (hard : Bool)
  /-- A front end reads a unit of a queue's INDIRECT buffer before it processes the unit's first word (R353). -/
  | readAhead (part queue unit : Nat)
  /-- An engine performs the next unit of an operation: a beat, a pass, a row, a flit, a chunk or a block (R271, R320). -/
  | engineUnit (eng : Nat)
  /-- Firmware enlarges the spill area of a partition, its entries in their new buckets (R292). -/
  | spillArea (part base len : Nat)
  /-- Firmware declares the absent page unmappable for which an engine operation parked (R318). -/
  | unmappable (part seq : Nat)
  /-- Tracing of a partition is enabled or disabled (R246). -/
  | trace (part : Nat) (on : Bool)
  /-- Trusted firmware writes its tables (R409, R411): peer windows, port masks, inbound ranges. -/
  | tables (windows : List (Nat × Nat)) (routes : List (Nat × Nat)) (inbound : List (Nat × Nat × Nat))
  /-- Trusted firmware writes a cluster's CSLOPE (R396). -/
  | cslope (cluster : Nat) (value : Word)
  /-- What a module is made with (R287, R405, R412): its flash, serial, module number, fused minimum version and root-key digest,
  nearest slices. -/
  | board (flash : List Byte) (serial : List Byte) (moduleNo : Nat) (minVersion : Nat) (root : List Byte) (near : List Nat)
  /-- Firmware changes the state of a halted or switched-out context for a debugger (R328, R331). -/
  | debug (part gid : Nat) (what : Poke)
  deriving DecidableEq, Repr

/-- The gang selected for issue: its group and the PC, depth and clause its lanes share (R20). -/
structure Sel where
  gid : Nat
  pc : DWord
  depth : Nat
  clause : Option Clause
  deriving DecidableEq, Repr

/-- Everything but the memory system. -/
structure Dev where
  groups : List Group
  teams : List Team
  ops : List Op
  engs : List Eng
  cores : List Core
  clusters : List Cluster
  parts : List Part
  nparts : Nat
  fw : Firmware
  health : Health
  mbox : Mailbox
  irqs : List Nat
  pcieWidth : Nat
  pcieGen : Nat
  inbound : List (Nat × Nat × Nat)
  t1Gib : Nat
  t2Gib : Nat
  slices : Nat
  time : Nat
  power : Limit
  reads : List (List Byte)
  agenda : List Turn
  phase : Nat
  sel : Option Sel
  nextGid : Nat
  nextTid : Nat
  nextLno : Nat
  nextOp : Nat
  nextStamp : Nat
  freeCtr : Nat
  deriving DecidableEq, Repr

/-- The state of the whole machine. -/
structure State where
  dev : Dev
  st : Store
  deriving DecidableEq, Repr

/-- The outcome of a meaning. -/
abbrev Out := Host.Outcome State Fault Refusal

/-- A sampler at reset. -/
def Sampler.reset : Sampler := { order := [], blocks := [], fills := [], lastStart := none, clock := 0 }

/-- A core at reset: working, no scratchpad carved out, every unit empty (R283, R403). -/
def Core.reset : Core :=
  { working := true, cw := 0, locks := [], mq := [],
    samplers := List.replicate 4 Sampler.reset,
    starved := [], busy := [0, 0, 0, 0], lastSel := [], lastDeadline := 0, lastCopy := 0 }

/-- A sensor set at reset: no sensor failed (R400). -/
def SensorSet.reset : SensorSet :=
  { readings := [0, 0, 0], failed := [false, false, false], since := [none, none, none] }

/-- A limit state at reset: state 0 (R398). -/
def Limit.reset : Limit := { state := 0, reading := 0, changed := 0, since := [none, none, none] }

/-- A cluster at reset: CSLOPE as R396 gives it, class 0 as it holds no team (R395). -/
def Cluster.reset : Cluster :=
  { cyc := 0, waves := [], released := [], nextWave := 0, cslope := 0x3C100040#32, cls := 0,
    change := none, lastChange := none, thermal := Limit.reset, current := Limit.reset,
    tempSet := SensorSet.reset, currSet := SensorSet.reset, frames := [], frags := [] }

/-- A command queue that firmware has not set up: the reset values of R347. -/
def Queue.reset : Queue :=
  { desc := 0, base := 0, size := 0, head := 0, tail := 0, tickets := 1, state := 0, errCode := 0, errOff := 0,
    pass := 0, cur := none, curOff := 0, indirect := none, units := [], waiting := false, parkSeq := none, live := [],
    serial := 0, stamp := 0 }

/-- A partition that holds no context. -/
def Part.reset : Part :=
  { desc := none, run := .ended, halt := false, haltAt := none, faults := [], replays := [], nextCapture := 0, seq := 0, ringTail := 0,
    parks := [], nextTicket := 1, tasks := 0, triggers := 0, dropped := 0, nextDraw := 0, draws := [],
    queues := List.replicate 64 Queue.reset, feeds := List.replicate 64 { records := [], closed := false },
    launches := [], evals := [], out := [], wres := List.replicate 8 { val := 0, count := 0 }, cyc := 0,
    paused := false, stackUsed := [], overflow := false, waiters := [], replaying := [],
    preemptAt := none, progress := 0, trace := [], tracing := false, stale := [], arrivals := [] }

/-- The memory system at reset: nothing listed, every cache and TLB empty. -/
def Store.reset : Store :=
  { mem := [], scr := [], acc := [], cells := [], exact := [], lines := [], l2 := [], tlb := [], errs := [], corrected := 0,
    nparts := 1, still := [], windows := List.replicate 32 (0, 0), routes := [], portsUp := 4095, drops := 0 }

/-- The firmware at reset, before `POWER_ON` (R412); the module's own numbers are log entry 3's. -/
def Firmware.reset : Firmware :=
  { powered := false, recovery := false, active := 0, version := 0, digest := List.replicate 64 0, minVersion := 0,
    flash := [], serialNo := List.replicate 64 0, moduleNo := 0, near := List.replicate 36 0, attests := 0,
    update := none, rootDigest := List.replicate 64 0, key := none }

/-- The health block at reset (R416): nothing failed. -/
def Health.reset : Health :=
  { thermStop := false, hot := false, failed := 0, inRefuse := 0, cellDrop := 0, temp := 0, power := 0,
    shown := List.replicate 68 0 }

/-- Everything but the memory system, right after reset; all twelve ports work and no routing entry is set (Store.reset). -/
def Dev.reset : Dev :=
  { groups := [], teams := [], ops := [], engs := [], cores := List.replicate 144 Core.reset,
    clusters := List.replicate 36 Cluster.reset, parts := List.replicate 4 Part.reset, nparts := 1,
    fw := Firmware.reset, health := Health.reset,
    mbox := { command := List.replicate 64 0, taken := List.replicate 64 0, busy := false, response := List.replicate 64 0 },
    irqs := [], pcieWidth := 16, pcieGen := 7, inbound := [],
    t1Gib := 192, t2Gib := 3072, slices := 48, time := 0, power := Limit.reset,
    reads := [], agenda := [], phase := 0, sel := none, nextGid := 0, nextTid := 0, nextLno := 0, nextOp := 0,
    nextStamp := 0, freeCtr := 0 }

/-- The machine right after reset. -/
def State.reset : State := { dev := Dev.reset, st := Store.reset }

end Sys2Proof.Machine
end

