-- ==== Sys2Proof/Machine/Store.lean ====
section
/-!
DEFINITION. The memory system: canonical memory, home slices with exact accumulators and deferred-cell tags, the L1 and
texel caches, page tables and TLBs (R177-R179, R281-R315, R333-R336).
-/
namespace Sys2Proof.Machine
open Sys2Proof

/-! Tables. -/

def Tab.get? {α : Type} (t : Tab α) (k : Nat) : Option α := (t.find? (fun e => e.1 == k)).map (·.2)
def Tab.erase {α : Type} (t : Tab α) (k : Nat) : Tab α := t.filter (fun e => e.1 != k)
def Tab.set {α : Type} (t : Tab α) (k : Nat) (v : α) : Tab α := (k, v) :: t.erase k

/-! Memory. -/

/-- What a byte that nothing has written reads as (log entry 4). -/
def emptyByte : Byte := 0

/-- The byte at an address. -/
def Memory.get : Memory → Nat → Byte
  | [], _ => emptyByte
  | (a, b) :: m, x => if x = a then b else if x < a then emptyByte else Memory.get m x

/-- Memory with one byte written, in canonical form. -/
def Memory.set : Memory → Nat → Byte → Memory
  | [], x, y => if y = emptyByte then [] else [(x, y)]
  | (a, b) :: m, x, y =>
    if x = a then (if y = emptyByte then m else (a, y) :: m)
    else if x < a then (if y = emptyByte then (a, b) :: m else (x, y) :: (a, b) :: m)
    else (a, b) :: Memory.set m x y

/-- Canonical form above a bound: addresses at or above it and strictly rising, no byte equal to an unlisted one. -/
def Memory.wfFrom : Nat → Memory → Bool
  | _, [] => true
  | lo, (a, b) :: m => decide (lo ≤ a) && b != emptyByte && Memory.wfFrom (a + 1) m

/-- Memory is in canonical form. -/
def Memory.wf (m : Memory) : Bool := Memory.wfFrom 0 m

/-- `n` bytes from an address. -/
def Memory.getN (m : Memory) (a : Nat) : Nat → List Byte
  | 0 => []
  | n + 1 => m.get a :: m.getN (a + 1) n

/-- Bytes written from an address. -/
def Memory.setN (m : Memory) (a : Nat) : List Byte → Memory
  | [] => m
  | b :: bs => (m.set a b).setN (a + 1) bs

/-- Memory with `n` bytes from an address as bytes that nothing has written. -/
def Memory.clear (m : Memory) (a n : Nat) : Memory := m.filter (fun c => !decide (a ≤ c.1 ∧ c.1 < a + n))

/-! Cached lines. -/

/-- A line as it is brought in: no byte dirty. -/
def LineBytes.clean (bs : List Byte) : LineBytes := { data := bs, dirty := List.replicate 128 false }

/-- A cached line holds its 128 bytes, and a dirty mark for each (R297). -/
def LineBytes.full (l : LineBytes) : Bool := decide (l.data.length = 128 ∧ l.dirty.length = 128)

/-- One byte written. -/
def LineBytes.put1 (l : LineBytes) (off : Nat) (b : Byte) : LineBytes := { data := l.data.set off b, dirty := l.dirty.set off true }

/-- Bytes written from an offset. -/
def LineBytes.put (l : LineBytes) (off : Nat) : List Byte → LineBytes
  | [] => l
  | b :: bs => (l.put1 off b).put (off + 1) bs

/-- Bytes written, each at its offset. -/
def LineBytes.puts (l : LineBytes) (bs : List (Nat × Byte)) : LineBytes := bs.foldl (fun l b => l.put1 b.1 b.2) l

/-- The dirty bytes of a line, each with its offset. -/
def LineBytes.dirtyBytes (l : LineBytes) : List (Nat × Byte) :=
  ((List.range 128).filter (fun i => l.dirty.getD i false)).map (fun i => (i, l.data.getD i emptyByte))

/-- The memories of a store are in canonical form and its cached lines are whole. -/
def Store.wf (st : Store) : Bool :=
  st.mem.wf && st.scr.wf && st.acc.wf && st.lines.all (fun l => l.body.full) && st.l2.all (fun l => l.body.full)

/-! Little-endian fields (R7). -/

/-- The number in bytes `lo` to `lo + n - 1` of a record. -/
def field (bs : List Byte) (lo n : Nat) : Nat := leNat ((bs.drop lo).take n)

/-- The 32-bit words of a list of bytes. -/
def wordsOf : List Byte → List Word
  | b0 :: b1 :: b2 :: b3 :: rest => BitVec.ofNat 32 (wordOfBytes b0 b1 b2 b3) :: wordsOf rest
  | _ => []

/-- The bytes of words. -/
def bytesOf (ws : List Word) : List Byte := ws.flatMap (fun w => leBytes 4 w.toNat)

/-! The physical map (R291). A memory key is a physical address of this module, or, from 2^52 up, a peer's. -/

def hostBase : Nat := 0x8000000000000
def peerBase : Nat := 0x4000000000000
def tier1Bytes : Nat := 0x3000000000
def tier2Base : Nat := 0x100000000000
def tier2Bytes : Nat := 0x30000000000

/-- Memory homed off the module (R291, R409). -/
def offModule (key : Nat) : Bool := decide (hostBase ≤ key)
def isHost (key : Nat) : Bool := decide (hostBase ≤ key ∧ key < 0xC000000000000)
def isPeer (key : Nat) : Bool := decide (0x10000000000000 ≤ key)
def peerOf (key : Nat) : Nat := key / 0x10000000000000 - 1

/-- A physical address in partition q of P's share of this module's memory (R291). -/
def inShare (q p pa : Nat) : Bool :=
  decide (tier1Bytes / p * q ≤ pa ∧ pa < tier1Bytes / p * (q + 1)) ||
  decide (tier2Base + tier2Bytes / p * q ≤ pa ∧ pa < tier2Base + tier2Bytes / p * (q + 1))

/-- A physical address a translation of the context may lead to: its share, a peer window or host memory (R291). -/
def reachable (q p pa : Nat) : Bool :=
  inShare q p pa || decide (peerBase ≤ pa ∧ pa < 0xC000000000000)

/-- The memory key of a physical address: through a peer window to the peer's memory (R409). -/
def keyOf (windows : List (Nat × Nat)) (pa : Nat) : Nat :=
  if peerBase ≤ pa ∧ pa < hostBase then
    let w := windows.getD ((pa - peerBase) / 2 ^ 45) (0, 0)
    (w.1 + 1) * 2 ^ 52 + (w.2 + pa % 2 ^ 45) % 2 ^ 52
  else pa

/-! The home of a line (R281, R287, R304, R305): its slice of an L2, or memory where the L2 does not hold the line. The caches of a
partition may hold a copy of a line homed off the module (R304), one copy for each partition. `own` names the partition through
whose L2 such a line is reached; `none` is an access at that memory itself: system-coherent, at system scope, or from outside. -/

/-- A peer that some working port reaches (R409, R410). -/
def Store.peerUp (st : Store) (peer : Nat) : Bool := decide ((st.routes.get? peer).getD 0 &&& st.portsUp ≠ 0)

/-- Memory itself can be reached: a peer's only over a working port (R410). -/
def Store.keyUp (st : Store) (key : Nat) : Bool := !isPeer key || st.peerUp (peerOf key)

/-- The partition of a core, for what its L2 holds of memory homed off the module. -/
def Store.own (st : Store) (core : Nat) (sc : Bool) : Option Nat := if sc then none else some (core / (144 / st.nparts))

/-- The L2 line that serves an access to a line. -/
def L2Line.serves (own : Option Nat) (line : Nat) (l : L2Line) : Bool :=
  l.line == line && (!offModule (line * 128) || own == some l.part)
def Store.l2At (st : Store) (own : Option Nat) (line : Nat) : Option L2Line := st.l2.find? (L2Line.serves own line)

/-- A byte as its home holds it. Accumulators keep their word's bytes at read() (R137). -/
def Store.homeGet (st : Store) (own : Option Nat) (key : Nat) : Byte :=
  match st.l2At own (key / 128) with
  | some l => l.body.data.getD (key % 128) emptyByte
  | none => st.mem.get key

def Store.homeGetN (st : Store) (own : Option Nat) (key : Nat) : Nat → List Byte
  | 0 => []
  | n + 1 => st.homeGet own key :: st.homeGetN own (key + 1) n

/-- The accumulators of the words that bytes `key` to `key + n - 1` touch are freed (R137). -/
def Store.freeExact (st : Store) (key n : Nat) : Store :=
  { st with exact := st.exact.filter (fun x => !(decide (x.pa < key + n) && decide (key < x.pa + 4))) }

/-- Bytes of one line written to memory itself. -/
def Store.memLine (st : Store) (line : Nat) (bs : List (Nat × Byte)) : Store :=
  { st with mem := bs.foldl (fun m b => m.set (line * 128 + b.1) b.2) st.mem }

/-- Bytes of one line written to memory if it can be reached; a write to a peer that no port reaches is dropped and counted (R410). -/
def Store.memPuts (st : Store) (line : Nat) (bs : List (Nat × Byte)) : Store :=
  if st.keyUp (line * 128) then st.memLine line bs
  else { st with drops := st.drops + 1 }

/-- Bytes of one line written at their home, each at its offset: in the L2 that holds the line, else in memory. -/
def Store.homePuts (st : Store) (own : Option Nat) (line : Nat) (bs : List (Nat × Byte)) : Store :=
  let st := { st with exact := st.exact.filter (fun x => !bs.any (fun b =>
    decide (x.pa ≤ line * 128 + b.1) && decide (line * 128 + b.1 < x.pa + 4))) }
  match st.l2At own line with
  | some _ => { st with l2 := st.l2.map (fun l => if l.serves own line then { l with body := l.body.puts bs } else l) }
  | none => st.memPuts line bs

/-- The parts of a write, cut at boundaries of `w` bytes: key and bytes. -/
def cutAt (w : Nat) (key : Nat) (bs : List Byte) : Nat → List (Nat × List Byte)
  | 0 => []
  | n + 1 =>
    if bs.isEmpty then []
    else
      let k := w - key % w
      (key, bs.take k) :: cutAt w (key + k) (bs.drop k) n

/-- The bytes of a write within one line, each with its offset. -/
def offsets (off : Nat) : List Byte → List (Nat × Byte)
  | [] => []
  | b :: bs => (off, b) :: offsets (off + 1) bs

/-- Bytes written at their home. Coherence is kept by the order of these steps (R296, R302). -/
def Store.homeSet (st : Store) (own : Option Nat) (key : Nat) (bs : List Byte) : Store :=
  (cutAt 128 key bs (bs.length / 128 + 2)).foldl (fun st p => st.homePuts own (p.1 / 128) (offsets (p.1 % 128) p.2)) st

/-- A cluster's access joins the last 16 of the L2 line it reaches (R287), unless its slices count none. -/
def Store.count (st : Store) (core line : Nat) : Store :=
  if st.still.contains (core / (144 / st.nparts)) then st
  else { st with l2 := st.l2.map (fun l => if l.serves (st.own core false) line then { l with hist := (core / 4 :: l.hist).take 16 } else l) }

/-! Errors (R282). -/

/-- The error at a place: `some true` is uncorrectable. -/
def Store.errAt (st : Store) (x : ErrSite) : Option Bool := (st.errs.find? (fun e => e.1 == x)).map (·.2)

/-- Correctable errors at places are corrected and counted. -/
def Store.correct (st : Store) (xs : List ErrSite) : Store :=
  let soft := fun (e : ErrSite × Bool) => !e.2 && xs.contains e.1
  { st with errs := st.errs.filter (fun e => !soft e), corrected := st.corrected + (st.errs.filter soft).length }

/-- What is read of an L1 line to write it back: a correctable error is corrected; an uncorrectable one marks the line at home, so
that its next reader receives the fault. -/
def Store.carryErr (st : Store) (core line : Nat) : Store :=
  let st := st.correct [.l1 core line]
  if st.errAt (.l1 core line) = some true then
    { st with errs := (.mem line, true) :: st.errs.filter (fun e => e.1 != .mem line && e.1 != .l1 core line) }
  else st

/-! The L1s and texel caches. -/

/-- A cached line of an owner and cache. -/
def CLine.holds (core cache line : Nat) (l : CLine) : Bool := l.core == core && l.cache == cache && l.line == line
def lineAt (ls : List CLine) (core cache line : Nat) : Option CLine := ls.find? (CLine.holds core cache line)

/-- The lines without one. -/
def dropLine (ls : List CLine) (core cache line : Nat) : List CLine := ls.filter (fun l => !l.holds core cache line)

/-- The retained lines of a partition's L2 return to the normal class: its way-reservation registers are written again (R289). -/
def Store.unretain (st : Store) (q : Nat) : Store :=
  { st with l2 := st.l2.map (fun l => if l.part = q ∧ 2 ≤ l.cls then { l with cls := 0 } else l) }

/-- The physical line of a memory key: in the lowest peer window that leads to it (R287, R409). -/
def Store.physLine (st : Store) (line : Nat) : Nat :=
  let off := fun (w : Nat) => ((line * 128) % 2 ^ 52 + 2 ^ 52 - (st.windows.getD w (0, 0)).2) % 2 ^ 52
  match (if isPeer (line * 128) then (List.range 32).find? (fun w =>
      decide ((st.windows.getD w (0, 0)).1 = peerOf (line * 128) ∧ off w < 2 ^ 45)) else none) with
  | some w => (peerBase + w * 2 ^ 45 + off w) / 128
  | none => line

/-- A line of a partition's L2 is used by a core: brought in if it is absent, counted, and the latest used. A line that is there
keeps its class unless the access gives it the retained one. -/
def Store.l2Use (st : Store) (core line cls : Nat) : Store :=
  let own := st.own core false
  let st := match st.l2At own line with
    | some l => { st with l2 := (if 2 ≤ cls then { l with cls := cls } else l) :: st.l2.filter (fun k => !k.serves own line) }
    | none => { st with l2 := { part := core / (144 / st.nparts), line := line, phys := st.physLine line,
                                slice := st.physLine line % (48 / st.nparts), cls := cls, hist := [],
                                body := LineBytes.clean (st.mem.getN (line * 128) 128) } :: st.l2 }
  st.count core line

/-- A line of a core's L1 cleaned: its dirty bytes are in the L2, which takes the line in, and it stays (R191). -/
def Store.cleanLine (st : Store) (core line : Nat) : Store :=
  match lineAt st.lines core 0 line with
  | none => st
  | some l =>
    let ds := l.body.dirtyBytes
    let st := st.carryErr core line
    let st := if ds.isEmpty then st else (st.l2Use core line 0).homePuts (st.own core false) line ds
    { st with lines := st.lines.map (fun k => if k.holds core 0 line then { k with body := LineBytes.clean k.body.data } else k) }

/-- A line dropped from a core's L1, its dirty bytes lost (R191). -/
def Store.invLine (st : Store) (core line : Nat) : Store :=
  { st with lines := dropLine st.lines core 0 line, errs := st.errs.filter (fun e => e.1 != .l1 core line) }

/-- A line evicted: cleaned and dropped (R297). -/
def Store.evictLine (st : Store) (core line : Nat) : Store := (st.cleanLine core line).invLine core line

/-- The lines a core's L1 holds. -/
def Store.l1Lines (st : Store) (core : Nat) : List Nat :=
  (st.lines.filter (fun l => l.core == core && l.cache == 0)).map (·.line)

/-- The lines of a core's L1 that hold dirty bytes. -/
def Store.dirtyLines (st : Store) (core : Nat) : List Nat :=
  (st.lines.filter (fun l => l.core == core && l.cache == 0 && l.body.dirty.any id)).map (·.line)

/-- Every write a core has performed in its L1 is performed at the home slices (R300). -/
def Store.release (st : Store) (core : Nat) : Store :=
  (st.dirtyLines core).foldl (fun st l => st.cleanLine core l) st

/-- After an acquire a core's L1 holds no older copy (R297, R299). -/
def Store.acquire (st : Store) (core : Nat) : Store :=
  (st.l1Lines core).foldl (fun st l => st.evictLine core l) st

/-- A line of a cache is used: brought in if it is absent, with its mark of R188, and the latest used of its cache. -/
def Store.fillLine (st : Store) (core cache line : Nat) (stream : Bool) : Store :=
  match lineAt st.lines core cache line with
  | some l => { st with lines := l :: dropLine st.lines core cache line }
  | none =>
    { st with lines := { core := core, cache := cache, line := line, stream := stream,
                         body := LineBytes.clean (st.homeGetN (st.own core false) (line * 128) 128) } :: st.lines }

/-- A line of a texel cache is used; one that it brings in holds what the core's lanes have written before (R268, R296). -/
def Store.fillTexels (st : Store) (core cache line : Nat) : Store :=
  let fresh := (lineAt st.lines core cache line).isNone
  let st := st.fillLine core cache line false
  match lineAt st.lines core 0 line with
  | some l => if fresh then { st with lines := st.lines.map (fun k =>
      if k.holds core cache line then { k with body := LineBytes.clean (k.body.puts l.body.dirtyBytes).data } else k) } else st
  | none => st

/-- Bytes of a line a cache holds, or else of its home. -/
def Store.lineGet (st : Store) (core cache key n : Nat) : List Byte :=
  match lineAt st.lines core cache (key / 128) with
  | some l => (l.body.data.drop (key % 128)).take n
  | none => st.homeGetN (st.own core false) key n

/-- Bytes written into a line that a core's L1 holds. -/
def Store.linePut (st : Store) (core key : Nat) (bs : List Byte) : Store :=
  { st with lines := st.lines.map (fun l => if l.holds core 0 (key / 128) then { l with body := l.body.put (key % 128) bs } else l) }

/-- The L2 copy of a line homed off the module leaves its partition's L2, its dirty bytes written to its memory: an access at system
scope is performed at that memory (R295, R196). -/
def Store.toSystem (st : Store) (core line : Nat) : Store :=
  if offModule (line * 128) then
    match st.l2At (st.own core false) line with
    | some l =>
      let ds := l.body.dirtyBytes
      let st := if ds.isEmpty then st else st.memPuts line ds
      { st with l2 := st.l2.filter (fun k => !k.serves (st.own core false) line) }
    | none => st
  else st

/-- A place on a DEF page. -/
def Place.deferred : Place → Bool
  | .pa _ _ _ df => df
  | .scr _ => false

/-- Whether a place is held in an L1 (R304, R333). -/
def Place.inL1 : Place → Bool
  | .pa _ c sc df => c && !sc && !df
  | .scr _ => false

/-- How an access reaches memory: through the L1, or through it with the mark of CHINT stream (R188); at the home (R196, R298, CHINT
bypass); or at system scope, for memory homed off the module at that memory (R196, R295). -/
inductive Via where
  | l1 | stream | home | system
  deriving DecidableEq, Repr

def Via.inL1 : Via → Bool
  | .l1 | .stream => true
  | .home | .system => false

/-- The core's own copies that an access at the home or at system scope must not pass by: written back and dropped. -/
def Store.clear (st : Store) (core line : Nat) (via : Via) (cached : Bool) : Store :=
  let st := if cached then st.evictLine core line else st
  if via = .system then st.toSystem core line else st

/-- No L2 holds memory homed off the module for a place: its page is system-coherent (R304), or deferred-capable, so that its cells have
one home (R333). -/
def Place.direct : Place → Bool
  | .pa _ _ sc df => sc || df
  | .scr _ => false

/-- Through which L2 an access of a core that does not go through its L1 reaches a line. -/
def Store.ownVia (st : Store) (core : Nat) (via : Via) (pl : Place) : Option Nat := if via = .system then none else st.own core pl.direct

/-- A read by a lane of a core (R184, R197, R298): bytes, and the store with the line it brought in. -/
def Store.read (st : Store) (core : Nat) (via : Via) (pl : Place) (n : Nat) : Store × List Byte :=
  match pl with
  | .scr k => (st, st.scr.getN k n)
  | .pa k _ _ _ =>
    if pl.inL1 && via.inL1 then
      let st := st.fillLine core 0 (k / 128) (via == .stream)
      (st, st.lineGet core 0 k n)
    else
      let st := st.clear core (k / 128) via pl.inL1
      (st, st.homeGetN (st.ownVia core via pl) k n)

/-- A write by a lane of a core (R186, R295-R297). -/
def Store.write (st : Store) (core : Nat) (via : Via) (pl : Place) (bs : List Byte) : Store :=
  match pl with
  | .scr k => { st with scr := st.scr.setN k bs }
  | .pa k _ _ _ =>
    if pl.inL1 && via.inL1 then (st.fillLine core 0 (k / 128) (via == .stream)).linePut core k bs
    else
      let st := st.clear core (k / 128) via pl.inL1
      st.homeSet (st.ownVia core via pl) k bs

/-! Deferred cells (R333-R336): the tag of the cell that holds a key. -/

def cellOf (key : Nat) : Nat := key / 16
/-- 0 VALUE, 1 PLATE, 2 PRINTING, 3 POISON. -/
def Store.cellTag (st : Store) (cell : Nat) : Nat := (st.cells.get? cell).getD 0
def Store.setTag (st : Store) (cell tag : Nat) : Store :=
  { st with cells := if tag = 0 then st.cells.erase cell else st.cells.set cell tag }
def Store.cellBytes (st : Store) (cell : Nat) : List Byte := st.homeGetN none (cell * 16) 16
def Store.setCell (st : Store) (cell tag : Nat) (bs : List Byte) : Store :=
  ((st.homeSet none (cell * 16) bs).setTag cell tag)

/-- The bytes of a PRINTING cell (R334). -/
def printingBytes (arg waiters ticket : Nat) : List Byte := leBytes 4 ticket ++ leBytes 4 waiters ++ leBytes 8 arg
/-- The bytes of a POISON cell (R334). -/
def poisonBytes (arg fcode ticket : Nat) : List Byte :=
  leBytes 4 ticket ++ leBytes 1 fcode ++ leBytes 3 0 ++ leBytes 8 arg

/-- Bytes written over a cell whose other bytes become zero (R198, R335). -/
def overCell (off : Nat) (bs : List Byte) : List Byte :=
  List.replicate off 0 ++ bs ++ List.replicate (16 - off - bs.length) 0

/-- The pieces of a write, cut at cell boundaries: key and bytes. -/
def cellPieces (key : Nat) (bs : List Byte) (n : Nat) : List (Nat × List Byte) := cutAt 16 key bs n

/-- A write to a DEF page by an agent whose write cancels plates (R198, R335); the caller has refused PRINTING cells. -/
def Store.writeCells (st : Store) (key : Nat) (bs : List Byte) : Store :=
  (cellPieces key bs (bs.length / 16 + 2)).foldl (fun st p =>
    let c := cellOf p.1
    match st.cellTag c with
    | 1 | 3 => st.setCell c 0 (overCell (p.1 % 16) p.2)
    | _ => st.homeSet none p.1 p.2) st

/-! Exact accumulation at the home (R135-R137, R292). -/

/-- The accumulator type of an ETYPE: f32, f16p, bf16p. -/
def exactFmt (ty : Nat) : Fmt := if ty = 0 then .f32 else if ty = 1 then .f16 else .bf16

/-- A DET add to element `el` of the word at `key` (R136): the old element and the store, its bytes at read(). -/
def Store.detElem (st : Store) (own : Option Nat) (key ty el : Nat) (a : FVal) : Store × Nat :=
  let f := exactFmt ty
  let w := if ty = 0 then 4 else 2
  let here := key + el * 2
  let cur := st.exact.find? (fun x => x.pa == key && x.elem == el)
  let acc := match cur with
    | some x => (x.state, x.sum)
    | none => exactOf (f.decode (leNat (st.homeGetN own here w)))
  let old := readExact f acc.1 acc.2
  let new := exactAdd acc.1 acc.2 a
  let keep := st.exact.filter (fun x => !(x.pa == key && x.elem == el))
  let st := st.homeSet own here (leBytes w (readExact f new.1 new.2))
  ({ st with exact := { pa := key, elem := el, ty := ty, state := new.1, sum := new.2, spill := none } :: keep }, old)

/-- A DET `aadd` on one 32-bit word: accumulators of another type are read out and freed first (R136). -/
def Store.detAdd (st : Store) (own : Option Nat) (key ty : Nat) (as : List FVal) : Store × List Nat :=
  let st := if st.exact.any (fun x => x.pa == key && x.ty != ty) then st.freeExact key 4 else st
  match as with
  | [a] => let r := st.detElem own key ty 0 a; (r.1, [r.2])
  | a :: b :: _ =>
    let r := st.detElem own key ty 0 a
    let q := r.1.detElem own key ty 1 b
    (q.1, [r.2, q.2])
  | [] => (st, [])

/-- `cmo.settle` of a range of the home (R191): the words already hold read(); their accumulators are freed. -/
def Store.settle (st : Store) (key n : Nat) : Store := st.freeExact key n

/-! Atomic read and write of one access at a place (R194, R196): the caller computes the new bytes from the old. -/

def Store.atomic (st : Store) (core : Nat) (via : Via) (pl : Place) (n : Nat) (f : List Byte → List Byte) :
    Store × List Byte :=
  let r := st.read core via pl n
  (r.1.write core via pl (f r.2), r.2)

/-! Page tables (R310-R313). -/

/-- What a translation finds: a leaf, an absent page (recoverable), or a fatal fault. -/
inductive Walk where
  | leaf (entry : Nat) (at_ : Nat) (shift : Nat)
  | absent
  | hole
  | bad
  deriving DecidableEq, Repr

def bit (n i : Nat) : Bool := n / 2 ^ i % 2 == 1

/-- The page address of an entry (R311). -/
def pteAddr (e : Nat) : Nat := e / 2 ^ 16 % 2 ^ 36 * 2 ^ 16

/-- The malformed valid entries of R312. -/
def pteBad (q p : Nat) (level : Nat) (e : Nat) : Bool :=
  decide (e / 2 ^ 56 % 2 ^ 7 ≠ 0) || decide (e / 2 ^ 9 % 2 ^ 7 ≠ 0) || bit e 2 ||
  (if bit e 1 then
     decide (pteAddr e % 2 ^ (16 + 13 * (3 - level)) ≠ 0) || !reachable q p (pteAddr e) || (bit e 4 && !bit e 3)
   else
     decide (level = 3) || bit e 52 || bit e 53 || bit e 8 || bit e 7 || bit e 6 || bit e 5 || bit e 4 || bit e 3 ||
     !inShare q p (pteAddr e))

/-- Where a leaf leads for an address is in the context's reach (R291). -/
def leadsWithin (q p va e shift : Nat) : Bool := reachable q p (pteAddr e + va % 2 ^ shift)

/-- A walk from a level's table down; `fuel` counts the levels left. -/
def Store.walkFrom (st : Store) (q p va : Nat) : Nat → Nat → Nat → Walk
  | 0, _, _ => .bad
  | fuel + 1, level, table =>
    let shift := 16 + 13 * (3 - level)
    let at_ := table + va / 2 ^ shift % 2 ^ 13 * 8
    let e := leNat (st.homeGetN none at_ 8)
    if st.errAt (.mem (at_ / 128)) = some true then .bad
    else if !bit e 0 then (if bit e 63 then .hole else .absent)
    else if pteBad q p level e then .bad
    else if bit e 1 then (if leadsWithin q p va e shift then .leaf e at_ shift else .bad)
    else st.walkFrom q p va fuel (level + 1) (pteAddr e)

def Store.walk (st : Store) (q p root va : Nat) : Walk :=
  if inShare q p root then st.walkFrom q p va 3 1 root else .bad

/-- A TLB entry of a core, or of its cluster, that maps a page (R314). -/
def Store.tlbHit (st : Store) (part core va : Nat) : Option Tlb :=
  match st.tlb.find? (fun t => !t.level2 && t.owner == core && t.part == part && va / 2 ^ t.shift == t.vpage) with
  | some t => some t
  | none => st.tlb.find? (fun t => t.level2 && t.owner == core / 4 && t.part == part && va / 2 ^ t.shift == t.vpage)

/-- The leaf an access of a core meets: a TLB entry, or a walk; a first write through an entry whose D reads 0 reads the
entry again (R313). -/
def Store.leafFor (st : Store) (q p root core va : Nat) (wr : Bool) : Walk :=
  match st.tlbHit q core va with
  | some t =>
    if wr && !bit t.leaf.toNat 53 then st.walk q p root va
    else if leadsWithin q p va t.leaf.toNat t.shift then .leaf t.leaf.toNat 0 t.shift else .bad
  | none => st.walk q p root va

/-- A leaf installed in the TLBs of a core and of its cluster; 64 and 2,048 entries are kept, the latest first (R314). -/
def Store.install (st : Store) (q core page shift leaf : Nat) : Store :=
  let mk := fun (l2 : Bool) (o : Nat) => ({ part := q, owner := o, level2 := l2, vpage := page, shift := shift,
                                            leaf := BitVec.ofNat 64 leaf } : Tlb)
  let rest := st.tlb.filter (fun t => !(t.part == q && t.vpage == page && t.shift == shift &&
    ((t.level2 && t.owner == core / 4) || (!t.level2 && t.owner == core))))
  let l1 := (rest.filter (fun t => !t.level2 && t.owner == core)).take 63
  let l2 := (rest.filter (fun t => t.level2 && t.owner == core / 4)).take 2047
  let others := rest.filter (fun t => !((!t.level2 && t.owner == core) || (t.level2 && t.owner == core / 4)))
  { st with tlb := mk false core :: mk true (core / 4) :: (l1 ++ l2 ++ others) }

/-- A leaf entry with A set, and D as well on a write (R313). -/
def usedLeaf (wr : Bool) (e : Nat) : Nat :=
  let e1 := if bit e 52 then e else e + 2 ^ 52
  if wr && !bit e1 53 then e1 + 2 ^ 53 else e1

/-- Walker and TLB effect of an access that goes on: A and D set in the entry, the leaf installed at both levels. -/
def Store.touchPage (st : Store) (q p root core va : Nat) (wr : Bool) : Store :=
  let fresh := match st.tlbHit q core va with
    | some t => wr && !bit t.leaf.toNat 53
    | none => true
  if !fresh then st
  else match st.walk q p root va with
    | .leaf e at_ shift =>
      let e2 := usedLeaf wr e
      (if e2 = e then st else st.homeSet none at_ (leBytes 8 e2)).install q core (va / 2 ^ shift) shift e2
    | _ => st

/-! Slices (R287). -/

/-- The slice of its partition that holds a line: its home by address, or the slice it has moved to, which the home slice's
forwarding entry names while the L2 holds the line. -/
def Store.sliceOf (st : Store) (n line : Nat) : Nat := match st.l2.find? (fun l => l.line == line) with
  | some l => l.slice
  | none => line % n

end Sys2Proof.Machine
end

