-- ==== Sys2Proof/Machine/Ops.lean ====
section
/-!
DEFINITION. The named operations over the state: lookups and updates, MODE, the issuing gang and what its issue does to
it (R20-R26, R51-R54), taking a fault and returning from one (R97, R98, R316-R320, R331), and address translation for a
lane or a unit (R177-R180, R291, R310-R313).
-/
namespace Sys2Proof.Machine
open Sys2Proof

/-! Updates by number. -/

def modAt {α : Type} (l : List α) (i : Nat) (f : α → α) : List α :=
  match l[i]? with
  | some x => l.set i (f x)
  | none => l

def State.onDev (s : State) (f : Dev → Dev) : State := { s with dev := f s.dev }
def State.onSt (s : State) (f : Store → Store) : State := { s with st := f s.st }

def Dev.group? (d : Dev) (gid : Nat) : Option Group := d.groups.find? (fun g => g.gid == gid)
def Dev.team? (d : Dev) (tid : Nat) : Option Team := d.teams.find? (fun t => t.tid == tid)
def Dev.op? (d : Dev) (opid : Nat) : Option Op := d.ops.find? (fun o => o.opid == opid)
def Dev.eng? (d : Dev) (eid : Nat) : Option Eng := d.engs.find? (fun o => o.eid == eid)
def Dev.modGroup (d : Dev) (gid : Nat) (f : Group → Group) : Dev :=
  { d with groups := d.groups.map (fun g => if g.gid = gid then f g else g) }
def Dev.modTeam (d : Dev) (tid : Nat) (f : Team → Team) : Dev :=
  { d with teams := d.teams.map (fun t => if t.tid = tid then f t else t) }
def Dev.modOp (d : Dev) (opid : Nat) (f : Op → Op) : Dev :=
  { d with ops := d.ops.map (fun o => if o.opid = opid then f o else o) }
def Dev.modEng (d : Dev) (eid : Nat) (f : Eng → Eng) : Dev :=
  { d with engs := d.engs.map (fun o => if o.eid = eid then f o else o) }
def Dev.dropOp (d : Dev) (opid : Nat) : Dev := { d with ops := d.ops.filter (fun o => o.opid != opid) }
/-- A group is placed. The generation of its slot's allocation advances (R325): what operations of groups that have retired from the slot
still bring back is stale. -/
def Dev.addGroup (d : Dev) (g : Group) : Dev :=
  { d with groups := d.groups ++ [g],
           ops := d.ops.map (fun o => if o.core = g.core ∧ o.gslot = g.gslot ∧ !d.groups.any (fun k => k.gid == o.gid) then { o with gen := 4096 } else o) }

/-- An operation entered, the only one of its number. -/
def Dev.addOp (d : Dev) (o : Op) : Dev := { d.dropOp o.opid with ops := (d.dropOp o.opid).ops ++ [o], nextOp := o.opid + 1 }
def Dev.dropEng (d : Dev) (eid : Nat) : Dev := { d with engs := d.engs.filter (fun o => o.eid != eid) }
def Dev.modPart (d : Dev) (q : Nat) (f : Part → Part) : Dev := { d with parts := modAt d.parts q f }
def Dev.modCore (d : Dev) (c : Nat) (f : Core → Core) : Dev := { d with cores := modAt d.cores c f }
def Dev.modCluster (d : Dev) (c : Nat) (f : Cluster → Cluster) : Dev := { d with clusters := modAt d.clusters c f }
def Dev.part (d : Dev) (q : Nat) : Part := d.parts.getD q Part.reset
def Dev.core (d : Dev) (c : Nat) : Core := d.cores.getD c Core.reset
def Dev.cluster (d : Dev) (c : Nat) : Cluster := d.clusters.getD c Cluster.reset
def Part.launch? (p : Part) (lno : Nat) : Option Launch := p.launches.find? (fun l => l.lno == lno)
def Part.draw? (p : Part) (idx : Nat) : Option Draw := p.draws.find? (fun x => x.idx == idx)
def Part.modLaunch (p : Part) (lno : Nat) (f : Launch → Launch) : Part :=
  { p with launches := p.launches.map (fun l => if l.lno = lno then f l else l) }
def Part.modDraw (p : Part) (idx : Nat) (f : Draw → Draw) : Part :=
  { p with draws := p.draws.map (fun l => if l.idx = idx then f l else l) }
def Dev.launch? (d : Dev) (q lno : Nat) : Option Launch := (d.part q).launch? lno

/-! The die: 144 cores in clusters of four, divided evenly among the partitions (R1). -/

def Dev.partOfCore (d : Dev) (core : Nat) : Nat := core / (144 / d.nparts)
def Dev.coresOf (d : Dev) (q : Nat) : List Nat := (List.range (144 / d.nparts)).map (fun i => q * (144 / d.nparts) + i)
def Dev.clustersOf (d : Dev) (q : Nat) : List Nat := (List.range (36 / d.nparts)).map (fun i => q * (36 / d.nparts) + i)
def Dev.slicesOf (d : Dev) : Nat := 48 / d.nparts
def Dev.lockup (d : Dev) (q : Nat) : Bool := match (d.part q).desc with
  | some x => x.timing % 2 == 1
  | none => false

/-- A partition's context is switched in. -/
def Dev.inside (d : Dev) (q : Nat) : Bool := match (d.part q).run with
  | .running | .draining | .saving => true
  | _ => false

/-- A partition runs in lockup mode: its context does and is switched in (R387). -/
def Dev.inLockup (d : Dev) (q : Nat) : Bool := d.lockup q && d.inside q

/-- sr.cyc of a cluster, or of the partition in lockup mode (R91, R386, R387). -/
def Dev.cycOf (d : Dev) (q core : Nat) : Nat := if d.lockup q then (d.part q).cyc else (d.cluster (core / 4)).cyc

/-! MODE (R84). -/

/-- The element types of R72. -/
inductive EType where
  | i32 | n32 | i64 | n64 | f32 | f64 | f16p | bf16p | nar | i16p | n16p | i8q | n8q
  deriving DecidableEq, Repr

def EType.ofCode (n : Nat) : Option EType :=
  [EType.i32, .n32, .i64, .n64, .f32, .f64, .f16p, .bf16p, .nar, .i16p, .n16p, .i8q, .n8q][n]?

def EType.code : EType → Nat
  | .i32 => 0 | .n32 => 1 | .i64 => 2 | .n64 => 3 | .f32 => 4 | .f64 => 5 | .f16p => 6 | .bf16p => 7 | .nar => 8
  | .i16p => 9 | .n16p => 10 | .i8q => 11 | .n8q => 12

/-- The fields of MODE. -/
structure Mode where
  guard : Nat
  gneg : Bool
  etype : EType
  rnd : Rnd
  sat : Bool
  ftz : Bool
  fmtsel : Nat
  scope : Nat
  chint : Nat
  uchk : Bool
  retag : Bool
  det : Bool
  spin : Nat
  deriving DecidableEq, Repr

def Mode.ofWord (w : Word) : Mode :=
  let n := w.toNat
  { guard := fld n 0 6, gneg := bit n 6, etype := (EType.ofCode (fld n 7 5)).getD .i32, rnd := Rnd.ofCode (fld n 12 3),
    sat := bit n 15, ftz := bit n 16, fmtsel := fld n 17 3, scope := fld n 20 3, chint := fld n 23 2, uchk := bit n 25,
    retag := bit n 26, det := bit n 27, spin := fld n 28 4 }

/-- No field of the word is one that R84 marks MODE_FIELD (R85). -/
def modeLegal (n : Nat) : Bool :=
  (fld n 0 6 < 48 || fld n 0 6 == 63) && fld n 7 5 ≤ 12 && fld n 12 3 ≤ 5 && fld n 20 3 ≤ 4

/-! Tags (R71). -/

def Tag.code : Tag → Nat
  | .raw => 0 | .i32 => 1 | .n32 => 2 | .f32 => 3 | .f16p => 4 | .bf16p => 5 | .i16p => 6 | .n16p => 7 | .i8q => 8
  | .n8q => 9 | .f64l => 10 | .f64h => 11 | .i64l => 12 | .i64h => 13 | .n64l => 14 | .n64h => 15
  | .narrow k => 16 + k.val | .future => 24 | .pending => 25

def Tag.ofCode (n : Nat) : Tag :=
  if n < 16 then
    [Tag.raw, .i32, .n32, .f32, .f16p, .bf16p, .i16p, .n16p, .i8q, .n8q, .f64l, .f64h, .i64l, .i64h, .n64l, .n64h].getD n .raw
  else if n < 24 then .narrow (Fin.ofNat 8 (n - 16))
  else if n = 24 then .future
  else .pending

/-- Whether a type fills a pair (R72). -/
def EType.wide : EType → Bool
  | .i64 | .n64 | .f64 => true
  | _ => false

/-- The tags of a type, one for each register (R72). -/
def EType.tags (fmtsel : Nat) : EType → List Tag
  | .i32 => [.i32] | .n32 => [.n32] | .i64 => [.i64l, .i64h] | .n64 => [.n64l, .n64h] | .f32 => [.f32]
  | .f64 => [.f64l, .f64h] | .f16p => [.f16p] | .bf16p => [.bf16p] | .nar => [.narrow (Fin.ofNat 8 fmtsel)]
  | .i16p => [.i16p] | .n16p => [.n16p] | .i8q => [.i8q] | .n8q => [.n8q]

/-- The narrow format of an fm register (R87), and its containers (R114). -/
def fmtOf (fm : Word) : Fmt :=
  let n := fm.toNat
  { sgn := bit n 0, ebits := fld n 1 4, mbits := fld n 5 4, bias := fld n 9 8, spec := fld n 17 2 }
def contOf (fm : Word) : Nat := fld fm.toNat 19 1
def blkOf (fm : Word) : Nat := let b := fld fm.toNat 20 4; if b = 0 then 0 else 8 * 2 ^ b
def sfmtOf (fm : Word) : Nat := fld fm.toNat 24 2

/-- A value `fmt` refuses (R88). -/
def fmLegal (n : Nat) : Bool :=
  let s := fld n 0 1; let e := fld n 1 4; let m := fld n 5 4
  let spec := fld n 17 2; let cont := fld n 19 1; let blk := fld n 20 4; let sf := fld n 24 2
  decide (fld n 26 6 = 0) && sf != 3 && spec != 3 && blk < 4 && decide (2 ≤ s + e + m) &&
  decide (s + e + m ≤ (if cont = 0 then 8 else 4)) && !((spec == 1 || spec == 2) && e == 0) &&
  !(blk != 0 && sf == 2) && !(blk == 0 && sf != 2)

/-- A value `omap` refuses (R89, R90). -/
def omLegal (v : BitVec 128) : Bool :=
  let n := v.toNat
  let etag := fld n 48 8
  decide (fld n 112 16 = 0) && decide (fld n 85 11 = 0) && decide (fld n 58 6 = 0) && decide (fld n 21 11 = 0) &&
  (etag == 3 || (decide (4 ≤ etag) && decide (etag ≤ 9)) || etag == 10 || (decide (16 ≤ etag) && decide (etag ≤ 23))) &&
  decide (fld n 32 16 ≠ 0) && decide (fld n 0 6 = 0) && fld n 56 2 != 3

/-! Clauses (R51). -/

def Clause.len (c : Clause) : Nat := fld c.header.toNat 0 4
def Clause.nlit (c : Clause) : Nat := fld c.header.toNat 4 3
def Clause.fallThrough (c : Clause) : DWord := c.hdr + BitVec.ofNat 64 (4 * (1 + c.len + c.nlit))
def Clause.slotOf (c : Clause) (pc : DWord) : Nat := (pc - c.hdr).toNat / 4 - 1
/-- The flag a long-latency instruction of a slot counts on (R51, R56). -/
def Clause.flagOf (c : Clause) (slot : Nat) : Option Nat :=
  let n := c.header.toNat
  let f := if slot < fld n 27 4 then fld n 19 4 else fld n 23 4
  if f < 12 then some f else none

/-! Gangs (R20). -/

def Lane.live (l : Lane) : Bool := !l.exited

/-- Two lanes of one gang: equal PC and call depth, and the same clause in progress, none of them held (log entry 7). -/
def sameGang (a b : Lane) : Bool :=
  a.live && b.live && a.pc == b.pc && a.depth == b.depth && a.hold.isNone == b.hold.isNone && a.clause == b.clause

def Group.gang (g : Group) (x : Sel) : List Lane :=
  g.lanes.filter (fun l => l.live && l.pc == x.pc && l.depth == x.depth && l.clause == x.clause && l.hold.isNone)

/-- Yielded status and spin counts of merging gangs (R26): yielded only if all were, the larger spin count. -/
def mergeGangs (ls : List Lane) : List Lane :=
  if ls.all (fun l => !l.yielded && l.spin == 0) then ls
  else ls.map (fun l =>
    let peers := ls.filter (fun k => sameGang l k)
    if peers.isEmpty then l
    else { l with yielded := peers.all (·.yielded), spin := (peers.map (·.spin)).foldl Nat.max 0 })

/-- The lane's guard (R83): whether it passes under MODE. -/
def Mode.passes (m : Mode) (l : Lane) : Bool := decide (48 ≤ m.guard) || xor (l.p.getLsbD m.guard) m.gneg

/-- What an issue works with: the state, the selected gang's group, team, lanes and clause, and MODE as it stands. -/
structure Env where
  s : State
  g : Group
  t : Team
  lanes : List Lane
  sel : Sel
  cl : Clause
  slot : Nat
  word : Word
  m : Mode
  desc : Desc
  deriving Repr

def Desc.none : Desc :=
  { root := 0, ctxid := 0, ringBase := 0, save := 0, saveLen := 0, spill := 0, spillLen := 0, heap := 0, heapN := 0,
    ringLen := 512, parkPct := 100, poolW := 0, shadowW := 2, timing := 0, gatherWait := 512, deadlineA := 0,
    deadlineB := 100, deferTimeout := 10000, jointWait := 1048576, swapWait := 1048576, watchdog := 0, stackPool := 0,
    stackLen := 0, wresPa := 0, bytes := [] }

/-- The cycle in which the halt line rose is not over: groups that have met no fault still issue in it (R320, R322). -/
def Dev.lastCycle (d : Dev) (p : Part) (gid : Nat) : Bool :=
  p.haltAt == some d.time && decide (d.phase < 576) && !p.overflow && !p.faults.any (fun r => r.gid == some gid)

/-- The part of R22 that is the group's: not parked, waiting or swapped out, selectable, its context running, with the
halt line low but for the rest of the cycle in which it rose. -/
def Group.canIssue (d : Dev) (g : Group) : Bool :=
  let p := d.part g.part
  g.selectable && g.parked.isNone && g.parking.isNone && g.wait.isNone &&
  (p.run == .running || p.run == .draining) && (!p.halt || d.lastCycle p g.gid) && !p.paused &&
  (match d.team? g.tid with | some t => !t.out | none => false)

/-- The environment of the selected gang inside a clause; `none` when no lane can issue. -/
def State.env? (s : State) : Option Env :=
  match s.dev.sel with
  | none => none
  | some x => match x.clause, s.dev.group? x.gid with
    | some cl, some g => match s.dev.team? g.tid with
      | some t =>
        let ls := g.gang x
        if ls.isEmpty then none
        else
          let slot := cl.slotOf x.pc
          some { s := s, g := g, t := t, lanes := ls, sel := x, cl := cl, slot := slot, word := cl.words.getD slot 0,
                 m := Mode.ofWord g.mode, desc := ((s.dev.part g.part).desc).getD Desc.none }
      | none => none
    | _, _ => none

/-- An issue: what a meaning does with the selected gang. -/
def withGang (s : State) (k : Env → Out) : Out :=
  match s.env? with
  | none => .fault .noGang
  | some e => if e.g.canIssue s.dev then k e else .fault .blocked

def Env.passing (e : Env) : List Lane := e.lanes.filter e.m.passes
def Env.lids (e : Env) : List Nat := e.lanes.map (·.lid)
def Env.part (e : Env) : Part := e.s.dev.part e.g.part
def maskOf (lids : List Nat) : Nat := lids.foldl (fun a i => a ||| 2 ^ i) 0

/-- Where a gang stands after the instruction at `slot` (R54). -/
def Lane.step (cl : Clause) (l : Lane) : Lane :=
  let slot := cl.slotOf l.pc
  if slot + 1 < cl.len then { l with pc := l.pc + 4#64, skip := false } else { l with pc := cl.fallThrough, clause := none, skip := false }

/-- A lane of a selected gang: its yielded status clears and with it its spin count (R26). -/
def Lane.selected (l : Lane) : Lane := if l.yielded then { l with yielded := false, spin := 0 } else l

/-- The group after an issue of its gang: `f` acts on each lane of the gang. -/
def Group.issued (g : Group) (lids : List Nat) (f : Lane → Lane) : Group :=
  { g with lanes := mergeGangs (g.lanes.map (fun l => if lids.contains l.lid then f l.selected else l)), since := none }

/-- The instruction has issued: `f` acts on each lane of the gang, and the gang goes on to the next instruction. -/
def Env.done (e : Env) (s : State) (f : Lane → Lane) : State :=
  s.onDev (fun d => d.modGroup e.g.gid (fun g => g.issued e.lids (fun l => (f l).step e.cl)))

/-- The instruction has issued and the gang stays: it is held or its group waits. -/
def Env.stay (e : Env) (s : State) (f : Lane → Lane) : State :=
  s.onDev (fun d => d.modGroup e.g.gid (fun g => g.issued e.lids f))

/-- The instruction has issued and holds its gang: the leader keeps what it waits for. -/
def Env.hold (e : Env) (s : State) (h : Hold) : State :=
  let lead := e.lids.headD 0
  e.stay s (fun l => { l with hold := some (if l.lid = lead then h else .follow lead) })

/-- The issuing gang's group waits. Its selection has cleared the yielded status (R26), so a gang that gives its lanes away is not a
yielded one for R48 (DESIGN CHOICE, log entry 49). -/
def Env.waitFor (e : Env) (s : State) (w : GWait) : State :=
  (e.stay s id).onDev (fun d => d.modGroup e.g.gid (fun g => { g with wait := some w, waiting := e.lids }))

/-- The lanes of a held gang. -/
def Group.held (g : Group) (lead : Nat) : List Lane :=
  g.lanes.filter (fun l => l.live && ((l.lid == lead && l.hold.isSome) || l.hold == some (.follow lead)))

/-- A hold is over: the gang goes on to the next instruction. -/
def Group.endHold (g : Group) (lead : Nat) (f : Lane → Lane) : Group :=
  let ids := (g.held lead).map (·.lid)
  { g with lanes := mergeGangs (g.lanes.map (fun l =>
      if ids.contains l.lid then
        let k := { f l with hold := none, skip := false }
        match l.clause with | some c => k.step c | none => k
      else l)) }

/-- The lanes that a held `spawn` or `launch` has still to hand over for; any other hold is its whole gang's. -/
def Hold.left : Hold → Option (List Nat)
  | .spawn rest => some (rest.map (·.1))
  | .launch rest => some (rest.map (·.1))
  | _ => none

/-- A hold is dropped: the gang stands at the instruction, not executed but for what its lanes have handed over (R247). -/
def Group.dropHolds (g : Group) (p : Hold → Bool) : Group :=
  let leads := (g.lanes.filter (fun l => match l.hold with | some h => p h | none => false)).map (·.lid)
  let left := g.lanes.flatMap (fun l => match l.hold with
    | some (.follow _) | none => []
    | some h => (match h.left with | some ids => ids | none => (g.held l.lid).map (·.lid)))
  let stand := fun (l : Lane) => { l with hold := none, skip := l.skip || !left.contains l.lid }
  { g with lanes := mergeGangs (g.lanes.map (fun l => match l.hold with
      | some (.follow k) => if leads.contains k then stand l else l
      | some h => if p h then stand l else l
      | none => l)) }

/-- The key under which a group's `pace` holds a lane's next instruction. -/
def gangKey : Nat := 400

/-- In lockup mode the next instruction of lanes may issue no earlier than some cycles from now (row 31 of R388). -/
def Dev.pause (d : Dev) (gid : Nat) (lids : List Nat) (n : Nat) : Dev :=
  d.modGroup gid (fun g =>
    if d.lockup g.part then { g with pace := g.pace ++ lids.map (fun i => (i, gangKey, d.cycOf g.part g.core + n)) } else g)

/-! Taking a fault (R97, R98, R316-R320). The faulting instruction has no effect: the state is the one before its
issue, with the fault found recorded and the halt line of the partition raised; `HALT` then stops the units, writes the
stop records and saves. -/

/-- LAUNCH of the random stream (R91, R375): the LAUNCHID, a draw index, or 0. -/
def launchIdOf (t : Team) : Word :=
  match t.kind with
  | .launch => t.shape.launchId
  | .fragment => BitVec.ofNat 32 (t.draw.getD 0)
  | _ => 0

/-- The record of a fault of a group's lanes. -/
def faultOf (d : Dev) (g : Group) (t : Team) (code : FCode) (pc : DWord) (lids : List Nat) (addr : DWord) : FaultRec :=
  { gid := some g.gid, code := code, pc := pc, mask := maskOf lids, addr := addr, core := g.core, gslot := g.gslot,
    gix := g.gix, tix := t.tix, launchId := launchIdOf t, unit := 0, detail := 0, delivered := [], written := none,
    header := false, hword := none, trap := code == .softwareTrap || code == .breakpoint, found := d.time }

/-- The halt line rises with one more fault found. -/
def Dev.raiseFault (d : Dev) (q : Nat) (r : FaultRec) : Dev :=
  d.modPart q (fun p => { p with halt := true, haltAt := if p.halt then p.haltAt else some d.time, faults := p.faults ++ [r] })

/-- Taking a halting fault at issue: the one operation every faulting instruction ends in. -/
def Env.raise (e : Env) (code : FCode) (lids : List Nat) (addr : DWord) : Out :=
  .next (e.s.onDev (fun d => d.raiseFault e.g.part (faultOf d e.g e.t code e.sel.pc lids addr)))

/-- Meeting a parking fault at issue (R317): the group parks, and `PARK` writes its record. -/
def Env.park (e : Env) (lids : List Nat) (addr : DWord) : Out :=
  .next (e.s.onDev (fun d => d.modGroup e.g.gid (fun g =>
    { g with parking := some (faultOf d e.g e.t .translation e.sel.pc lids addr) })))

/-- The lanes that a fault stopped: the gangs at its PC that hold a lane of its mask, or every lane there if none does. -/
def Group.stopped (g : Group) (pc : DWord) (mask : Nat) (l : Lane) : Bool :=
  let at_ := g.lanes.filter (fun k => k.live && k.pc == pc)
  let hit := at_.filter (fun k => mask / 2 ^ k.lid % 2 == 1)
  at_.any (fun k => k.lid == l.lid) && (hit.isEmpty || hit.any (fun k => sameGang k l))

/-- Passing a faulting word on resumption (R331): its gang goes on to the next word or clause. -/
def Group.skipWord (g : Group) (pc : DWord) (mask : Nat) : Group :=
  { g with lanes := mergeGangs (g.lanes.map (fun l =>
      if g.stopped pc mask l then (match l.clause with | some c => l.step c | none => l) else l)) }

/-- Passing a clause whose header faulted (R331): on to its fall-through address. -/
def Group.skipClause (g : Group) (pc next : DWord) (mask : Nat) : Group :=
  { g with lanes := mergeGangs (g.lanes.map (fun l =>
      if g.stopped pc mask l && l.clause.isNone then { l with pc := next } else l)) }

/-! Addresses. -/

/-- Who makes an access: enough to find what an address leads to. `sys`: at system scope; `bare`: a unit behind no core's L1. -/
structure Agent where
  part : Nat
  nparts : Nat
  root : Nat
  core : Nat
  tid : Nat
  member : Nat
  scratch : Nat
  pair : Bool
  frame : Nat
  stack : Nat
  sys : Bool
  bare : Bool
  deriving DecidableEq, Repr

inductive Need where
  | read | write | both | exec | none
  deriving DecidableEq, Repr

/-- What an address gives (R177-R180): a place, a fatal or a parking translation fault, or PERMISSION. -/
inductive Resolved where
  | ok (pl : Place)
  | fatal
  | absent
  | perm
  deriving DecidableEq, Repr

def windowBase : Nat := 0xFFFFFF0000000000

/-- Bits [63:55] all equal bit 54 (R177). -/
def canonical (va : Nat) : Bool := let h := va / 2 ^ 54; h == 0 || h == 1023

def scrKey (tid member off : Nat) : Nat := (tid * 4 + member) * 2 ^ 20 + off

/-- The local window (R179). -/
def Agent.window (a : Agent) (off : Nat) : Resolved :=
  if off < a.scratch then .ok (.scr (scrKey a.tid a.member off))
  else if a.pair ∧ 0x100000 ≤ off ∧ off - 0x100000 < a.scratch then .ok (.scr (scrKey a.tid (1 - a.member) (off - 0x100000)))
  else if 0x8000000000 ≤ off ∧ off - 0x8000000000 < a.stack then .ok (.pa (a.frame + (off - 0x8000000000)) true false false)
  else .perm

def needOk (e : Nat) : Need → Bool
  | .read => bit e 3
  | .write => bit e 4
  | .both => bit e 3 && bit e 4
  | .exec => bit e 5
  | .none => true

/-- The place of an address in a leaf. -/
def Store.placeIn (st : Store) (va e shift : Nat) : Place :=
  .pa (keyOf st.windows (pteAddr e + va % 2 ^ shift)) (bit e 7) (bit e 8) (bit e 6)

/-- What an address leads to for an access (R180 steps 2 and 3). -/
def Agent.resolve (a : Agent) (st : Store) (va : Nat) (need : Need) : Resolved :=
  if windowBase ≤ va then (match need with | .exec => .perm | _ => a.window (va - windowBase))
  else if !canonical va then .fatal
  else match st.leafFor a.part a.nparts a.root a.core va (need == .write || need == .both) with
    | .leaf e _ shift => if needOk e need then .ok (st.placeIn va e shift) else .perm
    | .absent => .absent
    | .hole => .fatal
    | .bad => .fatal

/-- The TLB and table effect of an access that goes on (R313). -/
def Agent.touch (a : Agent) (st : Store) (va : Nat) (wr : Bool) : Store :=
  if windowBase ≤ va then st else st.touchPage a.part a.nparts a.root a.core va wr

/-- Which of a team's scratchpads and slot runs a group reaches (R32, R35). -/
def memberOf (t : Team) (g : Group) : Nat := if t.shape.quad then g.gix else if t.shape.pair then g.core % 2 else 0

def agentOf (d : Dev) (desc : Desc) (t : Team) (g : Group) (frame : Nat) : Agent :=
  { part := g.part, nparts := d.nparts, root := desc.root, core := g.core, tid := t.tid,
    member := memberOf t g, scratch := if t.shape.pair then t.shape.scratch / 2 else t.shape.scratch, pair := t.shape.pair,
    frame := frame, stack := t.shape.stack, sys := false, bare := false }

def Env.agent (e : Env) (l : Lane) : Agent := agentOf e.s.dev e.desc e.t e.g l.frame

/-- A unit that reads and writes for its context with no team (R226, R373, R377). -/
def unitAgent (d : Dev) (q : Nat) : Agent :=
  { part := q, nparts := d.nparts, root := ((d.part q).desc.getD Desc.none).root, core := q * (144 / d.nparts),
    tid := 0, member := 0, scratch := 0, pair := false, frame := 0, stack := 0, sys := false, bare := true }

/-- The front end and its copies: at system scope (R350, R353, R406). -/
def frontAgent (d : Dev) (q : Nat) : Agent := { unitAgent d q with sys := true }

/-- Through which L2 an access of a unit reaches a line. -/
def Agent.own (a : Agent) (st : Store) (sc : Bool) : Option Nat := if a.sys then none else st.own a.core sc

/-! Range locks (R202). A range is a first byte and a length in one space: an address, or a scratchpad key above 2^64. -/

def lockAt (va : Nat) (pl : Place) : Nat := match pl with
  | .scr k => 2 ^ 64 + k
  | .pa _ _ _ _ => va

def overlaps (a b : Nat × Nat) : Bool := decide (a.1 < b.1 + b.2) && decide (b.1 < a.1 + a.2)

/-- Whether an access to a range conflicts with a core's range locks. -/
def Dev.locked (d : Dev) (core : Nat) (srcToo : Bool) (r : Nat × Nat) : Bool :=
  (d.core core).locks.any (fun k => k.dst.any (overlaps r) || (srcToo && k.src.any (overlaps r)))

/-- A partition's context is switched in and its halt line is low. -/
def Dev.unhalted (d : Dev) (q : Nat) : Bool :=
  let p := d.part q
  (p.run == .running || p.run == .draining) && !p.halt

/-- A partition's units work: its context runs, and its reference is not stopped. -/
def Dev.working (d : Dev) (q : Nat) : Bool := d.unhalted q && !(d.part q).paused

/-! Accesses that reach the L2 (R281, R287-R290). -/

/-- The way-reservation register whose range holds a line (R288, R289). -/
def Part.wresOf (p : Part) (line : Nat) : Option Nat :=
  (List.range 8).find? (fun k => let n := ((p.wres.getD k { val := 0, count := 0 }).val).toNat
    decide (fld n 112 4 ≠ 0 ∧ fld n 0 45 ≤ line ∧ line ≤ fld n 64 45))

/-- The class that an access asks for: retained where its register's sampling admits it, else by its CHINT (R188, R289). -/
def Part.classFor (p : Part) (line chint : Nat) : Nat := match chint with
  | 1 => 1
  | 2 => (match p.wresOf line with
    | some k => let w := p.wres.getD k { val := 0, count := 0 }
      if w.count % 2 ^ fld w.val.toNat 116 4 = 0 then 2 + k else 0
    | none => 0)
  | _ => 0

/-- An access of a core reaches the L2 (R281): the line joins it, a keep access is counted by its way-reservation register. Memory
homed off the module is not held there for a system-coherent or a deferred-capable page (R304, R333). -/
def State.noteHome (s : State) (core : Nat) (pl : Place) (chint : Nat) : State := match pl with
  | .scr _ => s
  | .pa k _ _ _ =>
    if pl.direct && offModule k then s
    else
      let q := s.dev.partOfCore core
      let p := s.dev.part q
      let line := k / 128
      let phys := s.st.physLine line
      let s := s.onSt (fun st => st.l2Use core line (p.classFor phys chint))
      match (if chint = 2 then p.wresOf phys else none) with
      | some r => s.onDev (fun d => d.modPart q (fun p => { p with wres := modAt p.wres r (fun w => { w with count := w.count + 1 }) }))
      | none => s

/-- An access of a core goes on to the L2 unless its L1 serves it. -/
def State.reach (s : State) (core : Nat) (via : Via) (pl : Place) (chint : Nat) : State := match pl with
  | .scr _ => s
  | .pa k _ _ _ =>
    if via = .system && offModule k then s
    else if pl.inL1 && via.inL1 && (lineAt s.st.lines core 0 (k / 128)).isSome then s
    else s.noteHome core pl chint

/-! Replacement (R188, R283, R289, R290). The lines of a cache stand with the latest used first; a step ends with every set within
its ways, the lines that are over replaced. How a line number picks its set is log entry 43. -/

/-- The lines over `cap`, those marked to be replaced first before the others, the least recently used first. -/
def overflow {α : Type} (first : α → Bool) (cap : Nat) (ls : List α) : List α :=
  ((ls.filter first).reverse ++ (ls.filter (fun l => !first l)).reverse).take (ls.length - cap)

/-- Whether more than `cap` of some keys agree in their lowest bits, so many that every key fits. -/
def crowded (cap : Nat) : Nat → List Nat → Bool
  | 0, ks => decide (cap < ks.length)
  | b + 1, ks => decide (cap < ks.length) &&
      (crowded cap b (ks.filter (fun k => k.testBit b)) || crowded cap b (ks.filter (fun k => !k.testBit b)))

/-- A set as one number. -/
def setKey (xs : List Nat) : Nat := xs.foldl (fun a x => a * 4096 + x) 0

/-- The sets of a list, each with its members in order. -/
def groupBy {α : Type} (key : α → List Nat) : List α → List (List Nat × List α)
  | [] => []
  | x :: xs =>
    let r := groupBy key xs
    if r.any (fun g => g.1 == key x) then r.map (fun g => if g.1 == key x then (g.1, x :: g.2) else g)
    else (key x, [x]) :: r

/-- The set of a cached line: in an L1, 1,024 sets; a texel cache is one set. -/
def CLine.set (l : CLine) : List Nat := [l.core, l.cache, if l.cache = 0 then l.line % 1024 else 0]

/-- The ways of a cached line's set: 12 less the carve-out, or the 768 lines of a texel cache (R1, R283). -/
def Dev.lineWays (d : Dev) (l : CLine) : Nat := if l.cache = 0 then 12 - (d.core l.core).cw else 768

/-- The set of an L2 line: 2,048 sets a slice, and in each the ways of its class. -/
def L2Line.set (n : Nat) (l : L2Line) : List Nat := [l.part, l.slice, l.phys / n % 2048, if l.cls < 2 then 0 else l.cls]

/-- The ways that normal and stream lines have (R290). -/
def Part.plainWays (p : Part) : Nat :=
  let taken := match p.desc with | some x => x.poolW + x.shadowW | none => 0
  max 1 (16 - (taken + (p.wres.map (fun w => fld w.val.toNat 112 4)).foldl (· + ·) 0))

/-- The ways of an L2 line's class. -/
def Dev.l2Ways (d : Dev) (l : L2Line) : Nat :=
  if l.cls < 2 then (d.part l.part).plainWays
  else fld ((d.part l.part).wres.getD (l.cls - 2) { val := 0, count := 0 }).val.toNat 112 4

/-- The fewest ways that a class of L2 lines has in a partition that holds any. -/
def Store.leastWays (st : Store) (d : Dev) : Nat :=
  if st.l2.any (fun l => decide (2 ≤ l.cls)) then 0 else ((List.range 4).map (fun q => (d.part q).plainWays)).foldl min 16

/-- The lines of the L1s and texel caches brought within their ways. -/
def Dev.fitL1 (d : Dev) (st : Store) : Store :=
  if st.lines.length ≤ 5 ∨ !crowded ((st.lines.map d.lineWays).foldl min 5) 36 (st.lines.map (fun l => setKey l.set)) then st
  else ((groupBy CLine.set st.lines).flatMap (fun g => match g.2 with
      | l :: _ => overflow (·.stream) (d.lineWays l) g.2
      | [] => [])).foldl (fun st l =>
        if l.cache = 0 then st.evictLine l.core l.line else { st with lines := dropLine st.lines l.core l.cache l.line }) st

/-- The lines of the L2s brought within their ways; dirty bytes go to memory, and a moved line's forwarding entry goes (R287). -/
def Dev.fitL2 (d : Dev) (st : Store) : Store :=
  if st.l2.isEmpty ∨ !crowded (st.leastWays d) 48 (st.l2.map (fun l => setKey (l.set d.slicesOf))) then st
  else ((groupBy (L2Line.set d.slicesOf) st.l2).flatMap (fun g => match g.2 with
      | l :: _ => overflow (fun l => l.cls == 1) (d.l2Ways l) g.2
      | [] => [])).foldl (fun st l =>
        let ds := l.body.dirtyBytes
        let st := if ds.isEmpty then st else st.memPuts l.line ds
        { st with l2 := st.l2.filter (fun k => !(k.part == l.part && k.line == l.line)) }) st

/-- Every cache within its ways. -/
def State.fit (s : State) : State := s.onSt (fun st => s.dev.fitL2 (s.dev.fitL1 st))

end Sys2Proof.Machine
end

