-- ==== Sys2Proof/Machine/Futures.lean ====
section
/-!
DEFINITION. The future table and the start of engine operations (R202, R237, R269, R389): an operation takes a future-table
entry and a range-lock entry; a gang held for want of either goes on as they come free.
-/
namespace Sys2Proof.Machine
open Sys2Proof

/-- A DONE entry whose handle has been resolved is FREE (R237). -/
def Team.freeFut (t : Team) (h : Word) : Team :=
  { t with futs := modAt t.futs (h.toNat % 64) (fun f => if f.st = .done then { f with st := .free } else f) }

/-- A signed 32-bit field of a descriptor. -/
def sfield (bs : List Byte) (lo : Nat) : Int := (BitVec.ofNat 32 (field bs lo 4)).toInt

/-- An address modulo 2^64. -/
def wrapVa (x : Int) : Nat := (x % (2 ^ 64 : Nat)).toNat

/-- The rows of a copy, planes outermost: source and destination addresses (R272). -/
def copyRows (bs : List Byte) : List (Nat × Nat) :=
  (List.range (field bs 40 4)).flatMap (fun (z : Nat) => (List.range (field bs 36 4)).map (fun (y : Nat) =>
    (wrapVa ((field bs 0 8 : Int) + z * sfield bs 20 + y * sfield bs 16),
     wrapVa ((field bs 8 8 : Int) + z * sfield bs 28 + y * sfield bs 24))))

/-- The 128-byte beats a row of `n` bytes at an address touches. -/
def beatsOf (va n : Nat) : Nat := (va + n - 1) / 128 - va / 128 + 1

/-- The deadline of a copy in lockup mode (row 24 of R388, R389), from the cycle of its instruction's issue. -/
def Dev.copyDeadline (d : Dev) (q core : Nat) (r : EngReq) : Option Nat :=
  if d.lockup q && r.kind == .copy && r.timed then
    let beats := ((copyRows r.desc).map (fun x => beatsOf x.2 (field r.desc 32 4))).foldl (· + ·) 0
    some (max (r.issued + 8) (d.core core).lastCopy + 56 + 2 * beats)
  else none

/-- A handle (R237). -/
def handleOf (entry gen : Nat) : Word := BitVec.ofNat 32 (entry + 64 * gen)

/-- One operation issued: the lowest FREE entry with its generation advanced, a range-lock entry, and the handle written;
`none` while either is wanting. -/
def Dev.startEng (d : Dev) (g : Group) (scope : Nat) (fm : List Word) (r : EngReq) : Option Dev :=
  match d.team? g.tid with
  | none => none
  | some t =>
    let locks := r.kind != .wpin && r.kind != .winv
    match (List.range 64).find? (fun i => match t.futs[i]? with | some f => f.st == .free | none => false) with
    | none => none
    | some i =>
      if locks && decide (32 ≤ (d.core g.core).locks.length) then none
      else
        let gen := ((match t.futs[i]? with | some f => f.gen | none => 0) + 1) % 1024
        let lost := r.writers.all (fun w => w.2 == Dst.none)
        let id := d.nextOp
        let due := d.copyDeadline g.part g.core r
        let e : Eng := { eid := id, kind := r.kind, part := g.part, core := g.core, gid := g.gid, tid := g.tid, fut := i, gen := gen,
                         scope := max 1 scope, desc := r.desc, hdrVa := r.hdrVa, fm := fm, cancelled := false, progress := 0,
                         held := [], halfDone := [], parkSeq := none, deadline := due, packet := none, launch := t.launch, tix := t.tix,
                         pc := r.pc, lids := r.all }
        let reg : Reg := { bits := handleOf i gen, tag := .future }
        let d := d.modTeam g.tid (fun t =>
          { t with futs := t.futs.set i { st := .busy, gen := gen, kept := none, orphan := lost } })
        let d := d.modGroup g.gid (fun g => { g with
          lanes := g.lanes.map (fun l => match r.writers.find? (fun w => w.1 == l.lid) with
            | some (_, .v n) => { l with v := l.v.set n reg }
            | _ => l),
          sregs := match r.writers with | (_, .s n) :: _ => g.sregs.set n reg | _ => g.sregs })
        let d := d.modCore g.core (fun c => { c with
          locks := if locks then c.locks ++ [{ eid := id, src := r.lockSrc, dst := r.lockDst }] else c.locks,
          lastCopy := due.getD c.lastCopy,
          samplers := if r.kind = .winv then c.samplers.map (fun p => { p with order := p.order ++ [.observe id r.hdrVa false] })
            else c.samplers })
        some { d with engs := d.engs ++ [e], nextOp := id + 1 }

/-- Operations issued while there is room; those left. -/
def Dev.startEngs (d : Dev) (g : Group) (scope : Nat) (fm : List Word) : List EngReq → Dev × List EngReq
  | [] => (d, [])
  | r :: rs => match d.startEng g scope fm r with
    | some d => d.startEngs g scope fm rs
    | none => (d, r :: rs)

/-- The gangs of the device held by `eng.*` go on as far as entries are free, in the order of their groups. -/
def Dev.pumpEngs (d : Dev) : Dev :=
  d.groups.foldl (fun d g0 => g0.lanes.foldl (fun d l => match l.hold with
    | some (.eng num due rest scope fm) =>
      let r := d.startEngs g0 scope fm rest
      r.1.modGroup g0.gid (fun g =>
        if r.2.isEmpty then g.endHold l.lid id
        else { g with lanes := g.lanes.map (fun k => if k.lid = l.lid then { k with hold := some (.eng num due r.2 scope fm) } else k) })
    | _ => d) d) d

end Sys2Proof.Machine
end

