-- ==== Sys2Proof/Machine/Operands.lean ====
section
/-!
DEFINITION. Operand forms (R62-R67), tags (R71-R79), the uniform bit and guard (R81-R83), and the checks of an issue in
the order of R97. A read answers a value with what its checks found; nothing is changed until every check has passed.
-/
namespace Sys2Proof.Machine
open Sys2Proof

/-- What the checks of one lane found: faults, whether a PENDING or BUSY register must be waited for, the bits of vector
sources (R81), and the FUTURE registers that a read resolves (R76). -/
structure Chk where
  bad : List FCode
  wait : Bool
  srcs : List Word
  touch : List Dst
  deriving DecidableEq, Repr

/-- A value read under checks. -/
structure Rd (α : Type) where
  val : α
  chk : Chk
  deriving Repr

def Chk.ok : Chk := { bad := [], wait := false, srcs := [], touch := [] }
def Chk.and (a b : Chk) : Chk :=
  { bad := a.bad ++ b.bad, wait := a.wait || b.wait, srcs := a.srcs ++ b.srcs, touch := a.touch ++ b.touch }
def Rd.pure {α : Type} (x : α) : Rd α := { val := x, chk := Chk.ok }
def Rd.bad {α : Type} (c : FCode) (x : α) : Rd α := { val := x, chk := { Chk.ok with bad := [c] } }
def Rd.map {α β : Type} (r : Rd α) (f : α → β) : Rd β := { val := f r.val, chk := r.chk }
def Rd.and {α β γ : Type} (a : Rd α) (b : Rd β) (f : α → β → γ) : Rd γ :=
  { val := f a.val b.val, chk := a.chk.and b.chk }
/-- A value with one more condition that must hold. -/
def Rd.check {α : Type} (r : Rd α) (ok : Bool) (c : FCode) : Rd α :=
  if ok then r else { r with chk := { r.chk with bad := r.chk.bad ++ [c] } }
/-- A list of reads as one. -/
def Rd.seq {α : Type} : List (Rd α) → Rd (List α)
  | [] => Rd.pure []
  | r :: rs => r.and (Rd.seq rs) (fun x xs => x :: xs)

/-- The rank of a fault in R97. -/
def FCode.rank : FCode → Nat
  | .illegalOpcode => 2 | .illegalOperand => 3 | .accBounds => 4 | .regBounds => 5 | .format => 6 | .uniform => 7
  | .modeField => 8 | _ => 9

/-! Futures as seen by reads (R76, R237). -/

inductive FutView where
  | busy | status (w : Word) | stale
  deriving DecidableEq, Repr

def futView (t : Team) (h : Word) : FutView :=
  let n := h.toNat
  match t.futs[n % 64]? with
  | none => .stale
  | some f =>
    if n / 2 ^ 16 ≠ 0 ∨ f.gen ≠ fld n 6 10 then .stale
    else match f.st, f.kept with
      | .busy, _ => .busy
      | _, some w => .status w
      | _, none => .stale

/-- Whether a handle is live (R237). -/
def FutView.live : FutView → Bool
  | .stale => false
  | _ => true

/-- A register read in a position that does not pass handles on. A handle that is busy is waited for, and a stale one faults
FUTURE_INVALID (R237); both keep their tag in the value, which a typed position then takes for no mismatch (`typedRegs`). -/
def readTagged (t : Team) (d : Dst) (r : Reg) : Rd Reg :=
  match r.tag with
  | .pending => { val := r, chk := { Chk.ok with wait := true } }
  | .future => match futView t r.bits with
    | .busy => { val := r, chk := { Chk.ok with wait := true } }
    | .status w => { val := { bits := w, tag := .n32 }, chk := { Chk.ok with touch := [d] } }
    | .stale => Rd.bad .futureInvalid r
  | _ => Rd.pure r

/-- A register read in a tag-free position (R74, R76, R77). -/
def readFree (r : Reg) : Rd Reg :=
  match r.tag with
  | .pending => { val := r, chk := { Chk.ok with wait := true } }
  | _ => Rd.pure r

/-! Constants and specials (R63, R64). -/

/-- A constant as an element code of a floating-point format. -/
def constVal : Const → FVal
  | .zero => .fin false 0 0 | .one => .fin false 1 0 | .mone => .fin true 1 0 | .half => .fin false 1 (-1)
  | .two => .fin false 1 1

def constInt : Const → Nat → Option Nat
  | .zero, _ => some 0 | .one, _ => some 1 | .two, _ => some 2 | .mone, w => some (2 ^ w - 1) | .half, _ => none

/-- `n` copies of a `w`-bit element. -/
def replicateElem (w : Nat) (x : Nat) : Nat → Nat
  | 0 => 0
  | n + 1 => x + 2 ^ w * replicateElem w x n

/-- The bits of a constant in a type (R63). -/
def constBits (fm : Word) (ty : EType) (c : Const) : Rd Nat :=
  let int := fun (w n : Nat) => match constInt c w with
    | some x => Rd.pure (replicateElem w x n)
    | none => Rd.bad .illegalOperand 0
  let flt := fun (f : Fmt) (w n : Nat) => Rd.pure (replicateElem w (f.round RCtx.plain false (constVal c)) n)
  match ty with
  | .i32 | .n32 => int 32 1
  | .i64 | .n64 => int 64 1
  | .i16p | .n16p => int 16 2
  | .i8q | .n8q => int 8 4
  | .f32 => flt .f32 32 1
  | .f64 => flt .f64 64 1
  | .f16p => flt .f16 16 2
  | .bf16p => flt .bf16 16 2
  | .nar =>
    let f := fmtOf fm
    let code := if c = .zero then 0 else f.round RCtx.plain false (constVal c)
    let w := if contOf fm = 1 then 4 else 8
    (Rd.pure (replicateElem w code (32 / w))).check
      (c = .zero || (f.decode code).eq (constVal c)) .format

/-- A constant in a 32-bit position that no type of the position fixes: by ETYPE; under f64 a free word, which for a constant other than
zero is not zero, as R167's `pset p4, %one, %one` needs (log entry 8). -/
def constWord (e : Env) (c : Const) : Rd Word :=
  if c = .zero then Rd.pure 0
  else if e.m.etype = .f64 then Rd.pure (BitVec.ofNat 32 (Config.freeConst 5 c.index % (2 ^ 32 - 1) + 1))
  else (constBits (e.g.fm.getD e.m.fmtsel 0) e.m.etype c).map (fun n => BitVec.ofNat 32 n)

/-- The 32-bit value of a special (R64). -/
def specialWord (e : Env) (l : Lane) : Special → Word
  | .lid => BitVec.ofNat 32 l.lid
  | .gix => BitVec.ofNat 32 e.g.gix
  | .tix => BitVec.ofNat 32 e.t.tix
  | .width => BitVec.ofNat 32 e.g.width
  | .glid => l.glid.setWidth 32
  | .core => BitVec.ofNat 32 e.g.core

/-! Runs of registers. -/

/-- Where an operand's run of registers lies for a lane, or why it does not (R65-R67): `vec` tells a vector register. -/
inductive Loc where
  | v (n : Nat)
  | s (n : Nat)
  | lit (k : Nat)
  | const (c : Const)
  | special (x : Special)
  | none
  deriving DecidableEq, Repr

/-- The run named by an operand; `even` asks for an even first register or literal. -/
def locate (e : Env) (l : Lane) (o : Opnd) (run : Nat) (even : Bool) : Rd Loc :=
  match o with
  | .v n => ((Rd.pure (Loc.v n.val)).check (!even || n.val % 2 == 0) .illegalOperand).check
      (decide (n.val + run ≤ e.g.budget)) .regBounds
  | .s n => ((Rd.pure (Loc.s n.val)).check (!even || n.val % 2 == 0) .illegalOperand).check
      (decide (n.val + run ≤ 32)) .illegalOperand
  | .vx k =>
    let x := l.x.getD k.val { off := 0, limit := 0, base := 0 }
    let n := x.base.toNat + x.off.toNat
    ((Rd.pure (Loc.v n)).check (decide (x.off.toNat < x.limit.toNat) && decide (n + run ≤ e.g.budget)) .regBounds).check
      (!even || n % 2 == 0) .illegalOperand
  | .lit k => (Rd.pure (Loc.lit k.val)).check ((!even || k.val % 2 == 0) && decide (k.val + run ≤ e.cl.nlit)) .illegalOperand
  | .const c => Rd.pure (Loc.const c)
  | .special x => Rd.pure (Loc.special x)
  | .reserved _ => Rd.bad .illegalOperand Loc.none
  | .sink => Rd.bad .illegalOperand Loc.none

def rawReg : Reg := { bits := 0, tag := .raw }
def Lane.reg (l : Lane) (n : Nat) : Reg := l.v.getD n rawReg
def Group.sreg (g : Group) (n : Nat) : Reg := g.sregs.getD n rawReg
def Env.lit (e : Env) (k : Nat) : Word := e.cl.words.getD (e.cl.len + k) 0

/-- How a position treats tags: passes a handle on, accepts any tag after resolving a handle, or reads raw bits. -/
inductive Pass where
  | free | resolve | raw
  deriving DecidableEq, Repr

def readAs (e : Env) (p : Pass) (d : Dst) (r : Reg) : Rd Reg :=
  match p with
  | .free => readFree r
  | .resolve => readTagged e.t d r
  | .raw => readFree r

/-- A place holds an uncorrectable error (R282). -/
def Env.flawed (e : Env) (x : ErrSite) : Bool := e.s.st.errAt x == some true

/-- One register of a run, bits and tag; a literal or constant carries the first tag of ETYPE. A register with an uncorrectable error
gives no value (R282). -/
def regAt (e : Env) (l : Lane) (p : Pass) (loc : Loc) (i : Nat) : Rd Reg :=
  let litTag := (e.m.etype.tags e.m.fmtsel).headD .n32
  match loc with
  | .v n =>
    let r := readAs e p (.v (n + i)) (l.reg (n + i))
    ({ r with chk := { r.chk with srcs := [r.val.bits] } } : Rd Reg).check (!e.flawed (.reg e.g.gid l.lid (n + i))) .eccUncorrectable
  | .s n => (readAs e p (.s (n + i)) (e.g.sreg (n + i))).check (!e.flawed (.sreg e.g.gid (n + i))) .eccUncorrectable
  | .lit k => Rd.pure { bits := e.lit (k + i), tag := litTag }
  | .const c => (constWord e c).map (fun w => { bits := w, tag := litTag })
  | .special x => Rd.pure { bits := specialWord e l x, tag := .n32 }
  | .none => Rd.pure rawReg

/-- A read that depends on another's value: the checks of both. -/
def Rd.next {α β : Type} (a : Rd α) (f : α → Rd β) : Rd β := let b := f a.val; { val := b.val, chk := a.chk.and b.chk }

/-- A run of registers read with their tags. -/
def readRun (e : Env) (l : Lane) (p : Pass) (o : Opnd) (run : Nat) (even : Bool) : Rd (List Reg) :=
  (locate e l o run even).next (fun loc => Rd.seq ((List.range run).map (regAt e l p loc)))

/-- One register in a tag-free position (R74). -/
def readMove (e : Env) (l : Lane) (o : Opnd) : Rd Reg := (locate e l o 1 false).next (fun loc => regAt e l .free loc 0)

/-- One 32-bit value of any tag, a handle resolved (R74, R76). -/
def readAny (e : Env) (l : Lane) (o : Opnd) : Rd Reg := (locate e l o 1 false).next (fun loc => regAt e l .resolve loc 0)

/-- The type a tag belongs to, for R75's pairs. -/
def Tag.family : Tag → Nat
  | .f64l | .f64h => 10 | .i64l | .i64h => 12 | .n64l | .n64h => 14 | t => t.code

/-- The tags of registers of which some still hold a handle suit one of several types: the handle has the read wait or fault by itself
(R76, R237), so it is no mismatch of R73, and only the other registers' tags count. -/
def heldSuit (retag : Bool) (want : List (List Tag)) (tags : List Tag) : Bool :=
  tags.contains .future && (retag || want.any (fun w => (w.zip tags).all (fun x => x.2 == .future || x.2 == x.1)))

/-- A typed register or pair: the tags expected, in one of several types. -/
def typedRegs (e : Env) (want : List (List Tag)) (rs : List Reg) : Rd Nat :=
  let tags := rs.map (·.tag)
  let bits := match rs with
    | [a] => a.bits.toNat
    | a :: b :: _ => a.bits.toNat + 2 ^ 32 * b.bits.toNat
    | [] => 0
  (Rd.pure bits).check
    (want.contains tags || heldSuit e.m.retag want tags || (e.m.retag && tags.all (fun t => t != .future && t != .pending) &&
      (match tags with | a :: b :: _ => a.family == b.family | _ => true))) .format

/-- A typed source (R73) of a type under an fm register: the element bits of its register or pair. -/
def readTyped (e : Env) (l : Lane) (ty : EType) (fmk : Nat) (o : Opnd) : Rd Nat :=
  let run := if ty.wide then 2 else 1
  (locate e l o run ty.wide).next (fun loc =>
    match loc with
    | .const c => constBits (e.g.fm.getD fmk 0) ty c
    | .lit k => Rd.pure ((e.lit k).toNat + (if ty.wide then 2 ^ 32 * (e.lit (k + 1)).toNat else 0))
    | .special x =>
      let v := if ty.wide && x == .glid then l.glid.toNat else (specialWord e l x).toNat
      (Rd.pure v).check (e.m.retag || (match ty with | .i32 | .n32 | .i64 | .n64 => true | _ => false)) .format
    | loc => (Rd.seq ((List.range run).map (regAt e l .resolve loc))).next (typedRegs e [ty.tags fmk]))

/-- A typed source of ETYPE. -/
def readElem (e : Env) (l : Lane) (o : Opnd) : Rd Nat := readTyped e l e.m.etype e.m.fmtsel o

/-- A 64-bit address, target or count pair (R73, R204, R242); `some true` tells I64. -/
def readPair (e : Env) (l : Lane) (o : Opnd) : Rd (Nat × Bool) :=
  (locate e l o 2 true).next (fun loc =>
    match loc with
    | .const c => (constBits 0 .n64 c).map (fun n => (n, false))
    | .lit k => Rd.pure ((e.lit k).toNat + 2 ^ 32 * (e.lit (k + 1)).toNat, false)
    | .special x => Rd.pure (if x == .glid then l.glid.toNat else (specialWord e l x).toNat, false)
    | loc => (Rd.seq ((List.range 2).map (regAt e l .resolve loc))).next (fun rs =>
        (typedRegs e [[.n64l, .n64h], [.i64l, .i64h]] rs).map (fun n => (n, rs.map (·.tag) == [.i64l, .i64h]))))

/-- A constant in a 64-bit position that no type of the position fixes: by ETYPE (R63); a type of 32 bits that is no scalar integer
leaves its word there open (log entry 8). -/
def constPair (e : Env) (c : Const) : Rd Nat :=
  if c = .zero then Rd.pure 0
  else match e.m.etype with
    | .f64 => constBits 0 .f64 c
    | .i32 | .n32 | .i64 | .n64 => constBits 0 .n64 c
    | ty => (constBits (e.g.fm.getD e.m.fmtsel 0) ty c).map (fun _ => Config.freeConst (16 + ty.code) c.index % 2 ^ 64)

/-- A 64-bit value of any tag (R153). -/
def readPairAny (e : Env) (l : Lane) (o : Opnd) : Rd Nat :=
  (locate e l o 2 true).next (fun loc =>
    match loc with
    | .const c => constPair e c
    | .lit k => Rd.pure ((e.lit k).toNat + 2 ^ 32 * (e.lit (k + 1)).toNat)
    | .special x => Rd.pure (if x == .glid then l.glid.toNat else (specialWord e l x).toNat)
    | loc => (Rd.seq ((List.range 2).map (regAt e l .resolve loc))).map (fun rs =>
        (rs.headD rawReg).bits.toNat + 2 ^ 32 * (rs.getD 1 rawReg).bits.toNat))

def readAddr (e : Env) (l : Lane) (o : Opnd) : Rd Nat := (readPair e l o).map (·.1)

/-- The read of an instruction whose one operand is a 64-bit address, target or count. -/
def targetRead (a : Opnd) (e : Env) (l : Lane) : Rd Nat := readAddr e l a

/-- A 32-bit number that carries I32 or N32, a literal or constant read as I32 (R145, R159, R190); under RETAG another tag
is read as N32. The second part tells a signed one. -/
def read32 (e : Env) (l : Lane) (o : Opnd) : Rd (Word × Bool) :=
  (locate e l o 1 false).next (fun loc =>
    match loc with
    | .const c => (constBits 0 .i32 c).map (fun n => (BitVec.ofNat 32 n, true))
    | .lit k => Rd.pure (e.lit k, true)
    | .special x => Rd.pure (specialWord e l x, false)
    | loc => (regAt e l .resolve loc 0).next (fun r =>
        (typedRegs e [[.i32], [.n32]] [r]).map (fun n => (BitVec.ofNat 32 n, r.tag == .i32))))

/-! Destinations. -/

def dstRegs (e : Env) (l : Lane) (d : Dst) (run : Nat) : List Reg := match d with
  | .none => []
  | .v n => (List.range run).map (fun i => l.reg (n + i))
  | .s n => (List.range run).map (fun i => e.g.sreg (n + i))

/-- A destination run (R62, R65-R67): a constant, special or literal, or an s register with U = 0, names no destination;
a PENDING destination is waited for (R77). -/
def dest (e : Env) (l : Lane) (u : Bool) (o : Opnd) (run : Nat) (even : Bool) : Rd Dst :=
  let d : Rd Dst := match o with
    | .sink => Rd.pure .none
    | .v _ | .vx _ => (locate e l o run even).map (fun loc => match loc with | .v n => .v n | _ => .none)
    | .s n => ((locate e l o run even).map (fun _ => Dst.s n.val)).check u .illegalOperand
    | _ => Rd.bad .illegalOperand .none
  d.next (fun x => { val := x, chk := { Chk.ok with wait := (dstRegs e l x run).any (fun r => r.tag == .pending) } })

/-! Deciding an issue (R97, R98). -/

/-- The faults of an issue by lane; the first in the order of R97 is raised, for the whole gang up to rank 3: so too for an odd
BASE + OFF in a 64-bit position, where R67 names the lanes and R97 the gang (DEDUCED, log entry 45). -/
def Env.faultAmong (e : Env) (cs : List (Nat × Chk)) : Option (FCode × List Nat) :=
  let best := cs.flatMap (fun c => c.2.bad.map FCode.rank) |>.foldl Nat.min 99
  let of := fun (c : Chk) => c.bad.find? (fun b => b.rank == best)
  match cs.findSome? (fun c => of c.2) with
  | none => none
  | some code =>
    if best ≤ 3 then some (code, e.lids)
    else some (code, (cs.filter (fun c => c.2.bad.contains code)).map (·.1))

/-- Not ready (R22), a fault (R97), or go on. -/
def Env.gate (e : Env) (cs : List (Nat × Chk)) (k : Unit → Out) : Out :=
  if cs.any (fun c => c.2.wait) then .fault .blocked
  else match e.faultAmong cs with
    | some (code, lids) => e.raise code lids 0
    | none => k ()

def Env.leader (e : Env) : Lane := e.lanes.headD
  { lid := 0, exited := true, pc := 0, depth := 0, clause := none, v := [], p := 0, x := [], sp := 0, rctr := 0, cych := 0,
    glid := 0, spin := 0, yielded := false, hold := none, frame := 0, ticket := 0, chain := [], published := false, cell := 0, cellVa := 0,
    frag := none, skip := false }

/-- The reads of an instruction: by every active lane, or once by the leader with the uniformity check (R81). -/
def Env.readAll {α : Type} (e : Env) (u : Bool) (f : Lane → Rd α) : List (Lane × Rd α) :=
  if u then let r := f e.leader; e.lanes.map (fun l => (l, r)) else e.lanes.map (fun l => (l, f l))

/-- What the comparison under UCHK finds in a lane that is not the leader: it reads the lane's vector sources, so it waits for them and
resolves them (R76, R77); sources agree when their bits do, whatever their tags (R81; DEDUCED, log entry 45). -/
def Chk.compared (lead c : Chk) : Chk :=
  { bad := if c.srcs = lead.srcs then [] else [.uniform], wait := c.wait, srcs := [], touch := c.touch }

/-- The checks of those reads. -/
def Env.readChks {α : Type} (e : Env) (u : Bool) (f : Lane → Rd α) : List (Nat × Chk) :=
  if u then
    let r := f e.leader
    (e.leader.lid, r.chk) ::
      (if e.m.uchk then (e.lanes.filter (fun l => l.lid != e.leader.lid)).map (fun l => (l.lid, Chk.compared r.chk (f l).chk)) else [])
  else e.lanes.map (fun l => (l.lid, (f l).chk))

/-! Register writes. -/

def setFrom {α : Type} (l : List α) (n : Nat) : List α → List α
  | [] => l
  | x :: xs => setFrom (l.set n x) (n + 1) xs

def Lane.write (l : Lane) (d : Dst) (rs : List Reg) : Lane := match d with
  | .v n => { l with v := setFrom l.v n rs }
  | _ => l

def Group.writeS (g : Group) (d : Dst) (rs : List Reg) : Group := match d with
  | .s n => { g with sregs := setFrom g.sregs n rs }
  | _ => g

/-- A read has resolved a handle's register (R76): it holds the status word, and a DONE entry is FREE (R237). -/
def resolveAt (t : Team) (r : Reg) : Reg :=
  match r.tag, futView t r.bits with
  | .future, .status w => { bits := w, tag := .n32 }
  | _, _ => r

def Lane.resolve (t : Team) (l : Lane) : Dst → Lane
  | .v n => { l with v := modAt l.v n (resolveAt t) }
  | _ => l

/-- The handles named by resolved registers of lanes of a group. -/
def touchedHandles (g : Group) (ts : List (Nat × Dst)) : List Word :=
  ts.map (fun x => match x.2 with
    | .v n => match g.lanes.find? (fun l => l.lid == x.1) with | some l => (l.reg n).bits | none => 0
    | .s n => (g.sreg n).bits
    | .none => 0)

/-- Every handle that the issue's reads resolved is written back and its entry freed (R76, R237). An active lane that the guard keeps off
reads its sources too, waits for them and holds the status word afterwards (R83 keeps off its writes of results): DEDUCED, log entry
45. -/
def Env.settleReads (e : Env) (cs : List (Nat × Chk)) (s : State) : State :=
  let ts := cs.flatMap (fun c => c.2.touch.map (fun d => (c.1, d)))
  if ts.isEmpty then s
  else
    let hs := touchedHandles e.g ts
    s.onDev (fun d =>
      ((d.modGroup e.g.gid (fun g =>
        { g with
          lanes := g.lanes.map (fun l => (ts.filter (fun x => x.1 == l.lid)).foldl (fun l x => l.resolve e.t x.2) l),
          sregs := ts.foldl (fun ss x => match x.2 with | .s n => modAt ss n (resolveAt e.t) | _ => ss) g.sregs })).modTeam
        e.t.tid (fun t => hs.foldl Team.freeFut t)).pumpEngs)

/-- A result for a lane: the registers written from its destination on, and how many stream words it took. -/
structure Res where
  regs : List Reg
  words : Nat
  deriving DecidableEq, Repr

/-- The lane whose reads give a lane its result: itself as it stood at the issue, or with U = 1 the leader (R81). -/
def Env.source (e : Env) (u : Bool) (l : Lane) : Lane :=
  if u then e.leader else (e.lanes.find? (fun k => k.lid == l.lid)).getD l

/-- The checks of an instruction that writes registers: of its reads and of its destinations. -/
def valueChks (e : Env) (u : Bool) (d : Opnd) (sh : Nat × Bool) (val : Env → Lane → Rd Res) : List (Nat × Chk) :=
  e.readChks u (val e) ++ e.lanes.map (fun l => (l.lid, (dest e l u d sh.1 sh.2).chk))

/-- What an instruction that writes registers does to a lane: a lane that passes the guard writes its result and takes its
stream words. -/
def valueLane (e : Env) (u : Bool) (d : Opnd) (sh : Nat × Bool) (val : Env → Lane → Rd Res) (l : Lane) : Lane :=
  if e.m.passes l then
    let r := (val e (e.source u l)).val
    { (l.write (dest e (e.source false l) u d sh.1 sh.2).val r.regs) with rctr := l.rctr + BitVec.ofNat 32 r.words }
  else l

/-- What it does to the group's s registers: with U = 1 the leader's result is written once. -/
def valueGroup (e : Env) (u : Bool) (d : Opnd) (sh : Nat × Bool) (val : Env → Lane → Rd Res) (g : Group) : Group :=
  if u && !e.passing.isEmpty then g.writeS (dest e e.leader u d sh.1 sh.2).val (val e e.leader).val.regs else g

/-- The state after an instruction that writes registers. -/
def valueNext (e : Env) (u : Bool) (d : Opnd) (sh : Nat × Bool) (val : Env → Lane → Rd Res) : State :=
  e.done ((e.settleReads (valueChks e u d sh val) e.s).onDev (fun dv => dv.modGroup e.g.gid (valueGroup e u d sh val)))
    (valueLane e u d sh val)

/-- An instruction that writes registers and nothing else (R139): `shape` gives the run and evenness of its destination,
`val` the result of a lane. With U = 1 the leader's result goes to every active lane (R81). -/
def valueIssue (s : State) (u : Bool) (d : Opnd) (shape : Env → Nat × Bool) (val : Env → Lane → Rd Res) : Out :=
  withGang s (fun e =>
    e.gate (valueChks e u d (shape e) val) (fun _ => .next (valueNext e u d (shape e) val)))

/-- One register, and a 64-bit or 32-bit value as the registers of a type. -/
def one (_ : Env) : Nat × Bool := (1, false)
def pairOf (_ : Env) : Nat × Bool := (2, true)
def byType (e : Env) : Nat × Bool := if e.m.etype.wide then (2, true) else (1, false)

def Res.word (w : Word) (t : Tag) : Res := { regs := [{ bits := w, tag := t }], words := 0 }

/-- A value written in a type (R72, R114). -/
def regsOf (tags : List Tag) (n : Nat) : List Reg := match tags with
  | [a] => [{ bits := BitVec.ofNat 32 n, tag := a }]
  | a :: b :: _ => [{ bits := BitVec.ofNat 32 n, tag := a }, { bits := BitVec.ofNat 32 (n / 2 ^ 32), tag := b }]
  | [] => []

/-- The stream word `i` places after the lane's counter (R125, R375). -/
def Env.stream (e : Env) (l : Lane) (i : Nat) : Nat :=
  (streamWord (match e.t.kind with | .launch => e.t.shape.seed | _ => 0) (launchIdOf e.t) l.glid (l.rctr + BitVec.ofNat 32 i)).toNat

/-- The rounding of an instruction at its `i`-th element (R122, R125). -/
def Env.rctx (e : Env) (l : Lane) (i : Nat) : RCtx :=
  { rnd := e.m.rnd, sat := e.m.sat, ftz := e.m.ftz, word := if e.m.rnd = .rsto then e.stream l i else 0 }

def Env.rsto (e : Env) : Bool := e.m.rnd == .rsto

end Sys2Proof.Machine
end

