-- ==== Sys2Proof/Machine/Arith.lean ====
section
/-!
DEFINITION. Arithmetic, functions, conversions and `dot` (R154-R159, R168-R175): each instruction once, over element-wise
operations shared by all of them.
-/
namespace Sys2Proof.Machine
open Sys2Proof

/-- How the elements of a type are read (R114): integers, IEEE floats or narrow codes, with width and count. -/
inductive Elems where
  | int (signed : Bool) (w n : Nat)
  | flt (f : Fmt) (w n : Nat)
  | nar
  deriving DecidableEq, Repr

def EType.elems : EType → Elems
  | .i32 => .int true 32 1 | .n32 => .int false 32 1 | .i64 => .int true 64 1 | .n64 => .int false 64 1
  | .f32 => .flt .f32 32 1 | .f64 => .flt .f64 64 1 | .f16p => .flt .f16 16 2 | .bf16p => .flt .bf16 16 2
  | .nar => .nar
  | .i16p => .int true 16 2 | .n16p => .int false 16 2 | .i8q => .int true 8 4 | .n8q => .int false 8 4

/-- Element i of a register or pair, and elements put together (R114). -/
def elemAt (w i x : Nat) : Nat := x / 2 ^ (w * i) % 2 ^ w
def joinElems (w : Nat) : List Nat → Nat
  | [] => 0
  | x :: xs => x % 2 ^ w + 2 ^ w * joinElems w xs

/-- A result in ETYPE, with one stream word for each floating-point element under RSTO (R125). -/
def Env.res (e : Env) (x : Nat) : Res :=
  let n := match e.m.etype.elems with | .flt _ _ n => if e.rsto then n else 0 | _ => 0
  { regs := regsOf (e.m.etype.tags e.m.fmtsel) x, words := n }

/-- One element result from up to three source elements: an integer rule (signed, SAT, width) and a floating-point rule
on exact values (the flag tells RDN) that is then rounded. -/
structure ElemOp where
  int : Bool → Bool → Nat → Int → Int → Int → Nat
  flt : Bool → FVal → FVal → FVal → FVal

/-- An element operation applied to every element (R115, R154). -/
def Env.apply (e : Env) (l : Lane) (op : ElemOp) (a b d : Nat) : Nat :=
  match e.m.etype.elems with
  | .int sg w n => joinElems w ((List.range n).map (fun i =>
      op.int sg e.m.sat w (intOf sg w (elemAt w i a)) (intOf sg w (elemAt w i b)) (intOf sg w (elemAt w i d))))
  | .flt f w n => joinElems w ((List.range n).map (fun i =>
      let rd := fun (x : Nat) => f.read e.m.ftz (elemAt w i x)
      f.round (e.rctx l i) e.m.ftz (op.flt (e.m.rnd == .rdn) (rd a) (rd b) (rd d))))
  | .nar => 0

def notNar (t : EType) : Bool := t != .nar
def isFloat (t : EType) : Bool := t == .f32 || t == .f64 || t == .f16p || t == .bf16p
def isInt32 (t : EType) : Bool := t == .i32 || t == .n32
def isScalarInt (t : EType) : Bool := isInt32 t || t == .i64 || t == .n64
def isScalar (t : EType) : Bool := isScalarInt t || t == .f32 || t == .f64

/-- The results of the element instructions of R154, R156 and R168: one, two or three typed sources. -/
def val1 (a : Opnd) (allow : EType → Bool) (op : ElemOp) (e : Env) (l : Lane) : Rd Res :=
  ((readElem e l a).map (fun x => e.res (e.apply l op x 0 0))).check (allow e.m.etype) .format
def val2 (a b : Opnd) (allow : EType → Bool) (op : ElemOp) (e : Env) (l : Lane) : Rd Res :=
  ((readElem e l a).and (readElem e l b) (fun x y => e.res (e.apply l op x y 0))).check (allow e.m.etype) .format
def val3 (d a b : Opnd) (allow : EType → Bool) (op : ElemOp) (e : Env) (l : Lane) : Rd Res :=
  (((readElem e l a).and (readElem e l b) Prod.mk).and (readElem e l d)
    (fun xy z => e.res (e.apply l op xy.1 xy.2 z))).check (allow e.m.etype) .format

def elem1 (s : State) (u : Bool) (d a : Opnd) (allow : EType → Bool) (op : ElemOp) : Out :=
  valueIssue s u d byType (val1 a allow op)
def elem2 (s : State) (u : Bool) (d a b : Opnd) (allow : EType → Bool) (op : ElemOp) : Out :=
  valueIssue s u d byType (val2 a b allow op)
def elem3 (s : State) (u : Bool) (d a b : Opnd) (allow : EType → Bool) (op : ElemOp) : Out :=
  valueIssue s u d byType (val3 d a b allow op)

def opAdd : ElemOp := { int := fun sg sat w a b _ => narrowInt sg sat w (a + b), flt := fun r a b _ => FVal.add r a b }
def opSub : ElemOp := { int := fun sg sat w a b _ => narrowInt sg sat w (a - b), flt := fun r a b _ => FVal.sub r a b }
def opMul : ElemOp := { int := fun sg sat w a b _ => narrowInt sg sat w (a * b), flt := fun _ a b _ => FVal.mul a b }
def opMulh : ElemOp := { int := fun sg _ w a b _ => narrowInt sg false w (a * b / (2 ^ w : Nat)), flt := fun _ a _ _ => a }
def opMad : ElemOp :=
  { int := fun sg sat w a b d => narrowInt sg sat w (a * b + d), flt := fun r a b d => FVal.fma r a b d }
def opFms : ElemOp := { int := fun _ _ _ _ _ _ => 0, flt := fun r a b d => FVal.fma r a b d.neg }
def opFnma : ElemOp := { int := fun _ _ _ _ _ _ => 0, flt := fun r a b d => FVal.fma r a.neg b d }
def opDiv : ElemOp := { int := fun sg sat w a b _ => intDiv sg sat w a b, flt := fun _ a b _ => FVal.div a b }
def opRem : ElemOp := { int := fun sg _ w a b _ => intRem sg w a b, flt := fun _ a _ _ => a }
def opMin : ElemOp := { int := fun sg _ w a b _ => narrowInt sg false w (min a b), flt := fun _ a b _ => FVal.min a b }
def opMax : ElemOp := { int := fun sg _ w a b _ => narrowInt sg false w (max a b), flt := fun _ a b _ => FVal.max a b }
def opClamp : ElemOp :=
  { int := fun sg _ w a b d => narrowInt sg false w (min (max d a) b), flt := fun _ a b d => FVal.min (FVal.max d a) b }
def opAbs : ElemOp :=
  { int := fun sg sat w a _ _ => narrowInt sg sat w (if sg then a.natAbs else a), flt := fun _ a _ _ => a.abs }
def opNeg : ElemOp := { int := fun sg sat w a _ _ => narrowInt sg sat w (-a), flt := fun _ a _ _ => a.neg }
/-- A function of one floating-point element. -/
def opFun (f : FVal → FVal) : ElemOp := { int := fun _ _ _ _ _ _ => 0, flt := fun _ a _ _ => f a }

/-- `add` (R154). -/
def execAdd (u : Bool) (d a b : Opnd) (s : State) : Out := elem2 s u d a b notNar opAdd
/-- `sub` (R154). -/
def execSub (u : Bool) (d a b : Opnd) (s : State) : Out := elem2 s u d a b notNar opSub
/-- `mul` (R154, R155). -/
def execMul (u : Bool) (d a b : Opnd) (s : State) : Out := elem2 s u d a b notNar opMul
def mulhType (t : EType) : Bool := isInt32 t || t == .i16p || t == .n16p
/-- `mulh` (R154, R155). -/
def execMulh (u : Bool) (d a b : Opnd) (s : State) : Out :=
  elem2 s u d a b mulhType opMulh
/-- `mad` (R154-R156). -/
def execMad (u : Bool) (d a b : Opnd) (s : State) : Out := elem3 s u d a b notNar opMad
/-- `div` (R130, R154, R156). -/
def execDiv (u : Bool) (d a b : Opnd) (s : State) : Out := elem2 s u d a b isScalar opDiv
/-- `rem` (R130, R154). -/
def execRem (u : Bool) (d a b : Opnd) (s : State) : Out := elem2 s u d a b isScalarInt opRem
/-- `min` (R157). -/
def execMin (u : Bool) (d a b : Opnd) (s : State) : Out := elem2 s u d a b notNar opMin
/-- `max` (R157). -/
def execMax (u : Bool) (d a b : Opnd) (s : State) : Out := elem2 s u d a b notNar opMax
/-- `abs` (R155, R156). -/
def execAbs (u : Bool) (d a : Opnd) (s : State) : Out := elem1 s u d a notNar opAbs
/-- `neg` (R155, R156). -/
def execNeg (u : Bool) (d a : Opnd) (s : State) : Out := elem1 s u d a notNar opNeg
/-- `clamp` (R157). -/
def execClamp (u : Bool) (d a b : Opnd) (s : State) : Out := elem3 s u d a b notNar opClamp
/-- `fms` (R156). -/
def execFms (u : Bool) (d a b : Opnd) (s : State) : Out := elem3 s u d a b isFloat opFms
/-- `fnma` (R156). -/
def execFnma (u : Bool) (d a b : Opnd) (s : State) : Out := elem3 s u d a b isFloat opFnma

/-! Immediate forms (R158): D is read and written. -/

/-- The types whose immediate `muli` reads unsigned; `addi` has none. -/
def isUnsigned (t : EType) : Bool := t == .n32 || t == .n64
def noType (_ : EType) : Bool := false

def immVal (d : Opnd) (i : BitVec 16) (zext : EType → Bool) (f : Int → Int → Int) (e : Env) (l : Lane) : Rd Res :=
  let k : Int := if zext e.m.etype then (i.toNat : Int) else i.toInt
  ((readElem e l d).map (fun x => match e.m.etype.elems with
    | .int sg w _ => e.res (narrowInt sg e.m.sat w (f (intOf sg w x) k))
    | _ => e.res 0)).check (isScalarInt e.m.etype) .format
def immOp (s : State) (u : Bool) (d : Opnd) (i : BitVec 16) (zext : EType → Bool) (f : Int → Int → Int) : Out :=
  valueIssue s u d byType (immVal d i zext f)

/-- `addi` (R158). -/
def execAddi (u : Bool) (d : Opnd) (i : BitVec 16) (s : State) : Out := immOp s u d i noType (· + ·)
/-- `muli` (R158). -/
def execMuli (u : Bool) (d : Opnd) (i : BitVec 16) (s : State) : Out := immOp s u d i isUnsigned (· * ·)

/-! Address arithmetic (R159). -/

/-- ext() of R159. -/
def extOf (x : Word × Bool) : Int := if x.2 then x.1.toInt else (x.1.toNat : Int)

def n64Tags : List Tag := [.n64l, .n64h]
def i64Tags : List Tag := [.i64l, .i64h]

def add64Val (a b : Opnd) (e : Env) (l : Lane) : Rd Res :=
  (readPair e l a).and (read32 e l b) (fun x y =>
    { regs := regsOf (if x.2 then i64Tags else n64Tags) (((x.1 : Int) + extOf y) % (2 ^ 64 : Nat)).toNat, words := 0 })
/-- `add64` (R159). -/
def execAdd64 (u : Bool) (d a b : Opnd) (s : State) : Out := valueIssue s u d pairOf (add64Val a b)

/-- The tags a register pair carries once it has been read (R76). -/
def pairTags (e : Env) (l : Lane) (d : Opnd) : List Tag := match (readRun e l .resolve d 2 true).val with
  | [x, y] => [x.tag, y.tag]
  | _ => n64Tags

def mad64Val (d a b : Opnd) (e : Env) (l : Lane) : Rd Res :=
  ((readPair e l d).and (read32 e l a) Prod.mk).and (read32 e l b) (fun xy z =>
    { regs := regsOf (pairTags e l d) (((xy.1.1 : Int) + extOf xy.2 * extOf z) % (2 ^ 64 : Nat)).toNat, words := 0 })
/-- `mad64` (R159): D keeps its tags. -/
def execMad64 (u : Bool) (d a b : Opnd) (s : State) : Out := valueIssue s u d pairOf (mad64Val d a b)

/-! Functions (R168-R170). -/

def isFun (t : EType) : Bool := t == .f32 || t == .f16p || t == .bf16p

/-- `rcp` (R168). -/
def execRcp (u : Bool) (d a : Opnd) (s : State) : Out := elem1 s u d a isFloat (opFun (FVal.div (.fin false 1 0)))
/-- `rsq` (R168). -/
def execRsq (u : Bool) (d a : Opnd) (s : State) : Out := elem1 s u d a isFloat (opFun FVal.rsq)
/-- `sqrt` (R168). -/
def execSqrt (u : Bool) (d a : Opnd) (s : State) : Out := elem1 s u d a isFloat (opFun FVal.sqrt)
/-- `exp2` (R168, R169). -/
def execExp2 (u : Bool) (d a : Opnd) (s : State) : Out := elem1 s u d a isFun (opFun FVal.exp2)
/-- `log2` (R168, R169). -/
def execLog2 (u : Bool) (d a : Opnd) (s : State) : Out := elem1 s u d a isFun (opFun FVal.log2)
/-- `sinp` (R168, R169). -/
def execSinp (u : Bool) (d a : Opnd) (s : State) : Out := elem1 s u d a isFun (opFun FVal.sinp)
/-- `cosp` (R168, R169). -/
def execCosp (u : Bool) (d a : Opnd) (s : State) : Out := elem1 s u d a isFun (opFun FVal.cosp)

/-- Element-wise with the format at hand: `frac` and `rint` end in rules of their own (R170). -/
def ruleVal (a : Opnd) (f : Env → RCtx → Fmt → FVal → Nat) (e : Env) (l : Lane) : Rd Res :=
  ((readElem e l a).map (fun x => match e.m.etype.elems with
    | .flt fm w n => e.res (joinElems w ((List.range n).map (fun i =>
        f e (e.rctx l i) fm (fm.read e.m.ftz (elemAt w i x)))))
    | _ => e.res 0)).check (isFloat e.m.etype) .format

/-- A rounded result of 1 becomes the largest value below 1. -/
def fracRule (e : Env) (c : RCtx) (f : Fmt) (x : FVal) : Nat :=
  let r := f.round c e.m.ftz x.frac
  let oneCode := f.round RCtx.plain false (.fin false 1 0)
  if r = oneCode then oneCode - 1 else r
/-- A zero result keeps the sign of a. -/
def rintRule (e : Env) (c : RCtx) (f : Fmt) (x : FVal) : Nat := f.round { c with rnd := .rne } e.m.ftz (x.rint c)

/-- `frac` (R170). -/
def execFrac (u : Bool) (d a : Opnd) (s : State) : Out := valueIssue s u d byType (ruleVal a fracRule)
/-- `rint` (R170). -/
def execRint (u : Bool) (d a : Opnd) (s : State) : Out := valueIssue s u d byType (ruleVal a rintRule)

/-! Conversions (R138, R171-R174). -/

/-- A number between two types. -/
inductive Num where
  | int (x : Int)
  | flt (x : FVal)
  deriving DecidableEq, Repr

/-- Element width of a type; the narrow container of an fm register (R114). -/
def EType.width (fm : Word) (t : EType) : Nat := match t.elems with
  | .int _ w _ => w
  | .flt _ w _ => w
  | .nar => if contOf fm = 1 then 4 else 8

/-- Elements per register, of a 32-bit or packed type (R72). -/
def EType.count (fm : Word) (t : EType) : Nat := if t.wide then 1 else 32 / t.width fm

def numOf (ftz : Bool) (fm : Word) (t : EType) (x : Nat) : Num := match t.elems with
  | .int sg w _ => .int (intOf sg w x)
  | .flt f _ _ => .flt (f.read ftz x)
  | .nar => .flt ((fmtOf fm).decode (x % 2 ^ (fmtOf fm).width))

/-- An element converted to a type (R138). -/
def toElem (c : RCtx) (fm : Word) (t : EType) (x : Num) : Nat := match t.elems, x with
  | .int sg w _, .int i => narrowInt sg c.sat w i
  | .int sg w _, .flt v => narrowInt sg true w (v.toInt c)
  | .flt f _ _, .int i => f.round c c.ftz (.ofInt i)
  | .flt f _ _, .flt v => f.round c c.ftz v
  | .nar, .int i => (fmtOf fm).round c false (.ofInt i)
  | .nar, .flt v => (fmtOf fm).round c false v

/-- Whether a conversion takes a stream word under RSTO (R138). -/
def convWords (e : Env) (a b : EType) : Nat :=
  let isInt := fun (t : EType) => match t.elems with | .int _ _ _ => true | _ => false
  if e.rsto && !(isInt a && isInt b) then 1 else 0

/-- The type a type field names (R171). -/
def typeField (f : BitVec 3) (t : BitVec 4) : Rd EType :=
  match EType.ofCode t.toNat with
  | some ty => (Rd.pure ty).check (ty == .nar || f.toNat == 0) .illegalOperand
  | none => Rd.bad .illegalOperand .i32

def Env.fmReg (e : Env) (k : Nat) : Word := e.g.fm.getD k 0
def Env.fmSel (e : Env) : Word := e.fmReg e.m.fmtsel

def cvtVal (a : Opnd) (f : BitVec 3) (t : BitVec 4) (e : Env) (l : Lane) : Rd Res :=
  ((typeField f t).next (fun ty =>
    ((readTyped e l ty f.toNat a).map (fun x =>
      { e.res (toElem (e.rctx l 0) (e.fmSel) e.m.etype (numOf e.m.ftz (e.fmReg f.toNat) ty x)) with
        words := convWords e ty e.m.etype })).check (isScalar ty) .format)).check (isScalar e.m.etype) .format
/-- `cvt` (R172). -/
def execCvt (u : Bool) (d a : Opnd) (f : BitVec 3) (t : BitVec 4) (s : State) : Out := valueIssue s u d byType (cvtVal a f t)

/-- A run of `n` scalars of a type (R65, R173). A constant or special, which names no run, stands for each of them (DEDUCED, log entry
45). -/
def readScalars (e : Env) (l : Lane) (ty : EType) (o : Opnd) (n : Nat) : Rd (List Nat) :=
  let k := if ty.wide then 2 else 1
  (locate e l o (n * k) ty.wide).next (fun loc =>
    match loc with
    | .const c => (constBits 0 ty c).map (List.replicate n)
    | .lit j => Rd.pure ((List.range n).map (fun i =>
        (e.lit (j + i * k)).toNat + (if ty.wide then 2 ^ 32 * (e.lit (j + i * k + 1)).toNat else 0)))
    | .special x => ((Rd.pure (List.replicate n (if ty.wide && x == .glid then l.glid.toNat else (specialWord e l x).toNat)))).check
        (e.m.retag || isScalarInt ty) .format
    | loc => Rd.seq ((List.range n).map (fun i =>
        (Rd.seq ((List.range k).map (fun j => regAt e l .resolve loc (i * k + j)))).next (typedRegs e [ty.tags 0]))))

/-- The element count of `pack` and `unpack`, of the packed type. -/
def isPacked (t : EType) : Bool := !isScalar t

def packVal (a : Opnd) (f : BitVec 3) (t : BitVec 4) (e : Env) (l : Lane) : Rd Res :=
  (((typeField f t).next (fun ty =>
    ((readScalars e l ty a (e.m.etype.count e.fmSel)).map (fun xs =>
      let w := e.m.etype.width e.fmSel
      let k := convWords e ty e.m.etype
      { regs := regsOf (e.m.etype.tags e.m.fmtsel) (joinElems w ((List.range xs.length).map (fun i =>
          toElem (e.rctx l i) e.fmSel e.m.etype (numOf e.m.ftz 0 ty (xs.getD i 0))))),
        words := k * xs.length })).check (isScalar ty) .format))).check (isPacked e.m.etype) .format
/-- `pack` (R173). -/
def execPack (u : Bool) (d a : Opnd) (f : BitVec 3) (t : BitVec 4) (s : State) : Out := valueIssue s u d one (packVal a f t)

def unpackVal (a : Opnd) (f : BitVec 3) (t : BitVec 4) (e : Env) (l : Lane) : Rd Res :=
  let fmk := f.toNat
  ((typeField f t).next (fun ty =>
    ((readTyped e l ty fmk a).map (fun x =>
      let w := ty.width (e.fmReg fmk)
      let n := ty.count (e.fmReg fmk)
      { regs := (List.range n).flatMap (fun i => regsOf (e.m.etype.tags e.m.fmtsel)
          (toElem (e.rctx l i) 0 e.m.etype (numOf e.m.ftz (e.fmReg fmk) ty (elemAt w i x)))),
        words := convWords e ty e.m.etype * n })).check (isPacked ty) .format)).check (isScalar e.m.etype) .format
/-- The run `unpack` writes: one scalar for each element of the packed type. -/
def unpackShape (f : BitVec 3) (t : BitVec 4) (e : Env) : Nat × Bool :=
  let n := ((EType.ofCode t.toNat).getD .i32).count (e.fmReg f.toNat)
  if e.m.etype.wide then (2 * n, true) else (n, false)
/-- `unpack` (R174). -/
def execUnpack (u : Bool) (d a : Opnd) (f : BitVec 3) (t : BitVec 4) (s : State) : Out :=
  valueIssue s u d (unpackShape f t) (unpackVal a f t)

/-! dot (R132, R134, R175). -/

/-- The formats a B tag of `dot` stands for, if A's ETYPE accepts it. -/
def dotB (e : Env) (t : Tag) : Option (EType × Word) :=
  match e.m.etype, t with
  | .f16p, .f16p | .bf16p, .f16p => some (.f16p, 0)
  | .f16p, .bf16p | .bf16p, .bf16p => some (.bf16p, 0)
  | .nar, .narrow j => if contOf (e.fmReg j.val) = contOf e.fmSel then some (.nar, e.fmReg j.val) else none
  | .i16p, .i16p => some (.i16p, 0)
  | .n16p, .n16p => some (.n16p, 0)
  | .i8q, .i8q => some (.i8q, 0)
  | .n8q, .n8q => some (.n8q, 0)
  | _, _ => none

/-- The elements of four registers, in ascending k. -/
def chunkElems (ftz : Bool) (fm : Word) (t : EType) (ws : List Nat) : List Num :=
  let w := t.width fm
  ws.flatMap (fun x => (List.range (32 / w)).map (fun i => numOf ftz fm t (elemAt w i x)))

def numMul : Num → Num → Num
  | .int a, .int b => .int (a * b)
  | .flt a, .flt b => .flt (FVal.mul a b)
  | .int a, .flt b => .flt (FVal.mul (.ofInt a) b)
  | .flt a, .int b => .flt (FVal.mul a (.ofInt b))

def Num.toFlt : Num → FVal | .int a => .ofInt a | .flt a => a
def Num.toInt : Num → Int | .int a => a | .flt _ => 0

/-- The addend type of a chunk (R175). -/
def chunkType : EType → EType
  | .i16p | .i8q => .i32
  | .n16p | .n8q => .n32
  | _ => .f32

/-- One chunk (R131, R134): the exact products of two lists of elements with an addend. -/
def chunk (c : RCtx) (et : EType) (as bs : List Num) (d : Nat) : Nat :=
  let ps := List.zipWith numMul as bs
  match (chunkType et).elems with
  | .int sg w _ => narrowInt sg c.sat w ((ps.map Num.toInt).foldl (· + ·) (intOf sg w d))
  | .flt f _ _ => dotSum f c (ps.map Num.toFlt ++ [f.read c.ftz d])
  | .nar => 0

/-- Four registers of ETYPE (R175). -/
def readA4 (e : Env) (l : Lane) (a : Opnd) : Rd (List Nat) :=
  (locate e l a 4 false).next (fun loc => match loc with
    | .const c => (constBits e.fmSel e.m.etype c).map (List.replicate 4)
    | .lit k => Rd.pure ((List.range 4).map (fun i => (e.lit (k + i)).toNat))
    | .special x => (Rd.pure (List.replicate 4 (specialWord e l x).toNat)).check e.m.retag .format
    | loc => Rd.seq ((List.range 4).map (fun i => (regAt e l .resolve loc i).next (fun r =>
        typedRegs e [e.m.etype.tags e.m.fmtsel] [r]))))

/-- Four registers of B with the format their one tag names; a register that still holds a handle waits or faults by itself (R237). -/
def readB4 (e : Env) (l : Lane) (b : Opnd) : Rd (List Nat × EType × Word) :=
  let inA := fun (xs : List Nat) => (xs, e.m.etype, e.fmSel)
  (locate e l b 4 false).next (fun loc => match loc with
    | .const c => (constBits e.fmSel e.m.etype c).map (fun x => inA (List.replicate 4 x))
    | .lit k => Rd.pure (inA ((List.range 4).map (fun i => (e.lit (k + i)).toNat)))
    | .special x => (Rd.pure (inA (List.replicate 4 (specialWord e l x).toNat))).check e.m.retag .format
    | loc => (Rd.seq ((List.range 4).map (regAt e l .resolve loc))).next (fun rs =>
        let known := rs.filter (fun r => r.tag != .future)
        let t := (known.headD rawReg).tag
        let xs := rs.map (fun r => r.bits.toNat)
        let same := known.all (fun r => r.tag == t)
        match dotB e t with
        | some f => (Rd.pure (xs, f)).check same .format
        | none => (Rd.pure (inA xs)).check (known.isEmpty || (same && e.m.retag && t != .pending)) .format))

def dotVal (d a b : Opnd) (e : Env) (l : Lane) : Rd Res :=
  let ct := chunkType e.m.etype
  ((((readA4 e l a).and (readB4 e l b) Prod.mk).and (readTyped e l ct 0 d) (fun xy z =>
    let c := e.rctx l 0
    let r := chunk c e.m.etype (chunkElems c.ftz e.fmSel e.m.etype xy.1)
      (chunkElems c.ftz xy.2.2.2 xy.2.2.1 xy.2.1) z
    ({ regs := regsOf (ct.tags 0) r, words := if e.rsto && ct == .f32 then 1 else 0 } : Res)))).check
    (isPacked e.m.etype) .format
/-- `dot` (R175). -/
def execDot (u : Bool) (d a b : Opnd) (s : State) : Out := valueIssue s u d one (dotVal d a b)

end Sys2Proof.Machine
end

