-- ==== Sys2Proof/Machine/Bits.lean ====
section
/-!
DEFINITION. Moves, tags, special registers, bit operations and group set-up (R141-R153, R160-R162).
-/
namespace Sys2Proof.Machine
open Sys2Proof

/-! Moves and tags. -/

/-- A literal or constant source of a move under a 64-bit ETYPE faults FORMAT (R146). -/
def moveOk (e : Env) (o : Opnd) : Bool := match o with
  | .lit _ | .const _ => !e.m.etype.wide
  | _ => true

def readMoveChk (e : Env) (l : Lane) (o : Opnd) : Rd Reg := (readMove e l o).check (moveOk e o) .format

/-- The result of `mov` (R146). -/
def movVal (a : Opnd) (e : Env) (l : Lane) : Rd Res := (readMoveChk e l a).map (fun r => { regs := [r], words := 0 })
/-- `mov` (R146). -/
def execMov (u : Bool) (d a : Opnd) (s : State) : Out := valueIssue s u d one (movVal a)

/-- The bits `movi` builds, and whether the bits that must be zero are (R147). -/
def moviBits (e : Env) (i : BitVec 16) : Nat × Bool :=
  let n := i.toNat
  match e.m.etype with
  | .i32 => ((i.signExtend 32).toNat, true)
  | .n32 => (n, true)
  | .i64 => ((i.signExtend 64).toNat, true)
  | .n64 => (n, true)
  | .f32 => (n * 2 ^ 16, true)
  | .f64 => (n * 2 ^ 48, true)
  | .f16p | .bf16p | .i16p | .n16p => (n + 2 ^ 16 * n, true)
  | .i8q | .n8q => (replicateElem 8 (n % 256) 4, decide (n < 256))
  | .nar =>
    let w := (fmtOf e.fmSel).width
    let c := e.m.etype.width e.fmSel
    (replicateElem c (n % 2 ^ w) (32 / c), decide (n < 2 ^ w))

/-- The result of `movi` (R147). -/
def moviVal (i : BitVec 16) (e : Env) (_ : Lane) : Rd Res :=
  (Rd.pure { regs := regsOf (e.m.etype.tags e.m.fmtsel) (moviBits e i).1, words := 0 }).check (moviBits e i).2 .illegalOperand
/-- `movi` (R147). -/
def execMovi (u : Bool) (d : Opnd) (i : BitVec 16) (s : State) : Out := valueIssue s u d byType (moviVal i)

/-- The result of `movh` (R148): D is read tag-free and keeps its low half and tag. -/
def movhVal (d : Opnd) (i : BitVec 16) (e : Env) (l : Lane) : Rd Res :=
  (readMove e l d).map (fun r =>
    { regs := [{ r with bits := BitVec.ofNat 32 (i.toNat * 2 ^ 16 + r.bits.toNat % 2 ^ 16) }], words := 0 })
/-- `movh` (R148). -/
def execMovh (u : Bool) (d : Opnd) (i : BitVec 16) (s : State) : Out := valueIssue s u d one (movhVal d i)

/-- The result of `sel` (R149). -/
def selVal (d a b : Opnd) (e : Env) (l : Lane) : Rd Res :=
  ((readMoveChk e l a).and (readMoveChk e l b) Prod.mk).and (readMove e l d) (fun xy c =>
    { regs := [if c.bits ≠ 0 then xy.1 else xy.2], words := 0 })
/-- `sel` (R149). -/
def execSel (u : Bool) (d a b : Opnd) (s : State) : Out := valueIssue s u d one (selVal d a b)

/-- The result of `retag` (R150). -/
def retagVal (a : Opnd) (t : BitVec 8) (e : Env) (l : Lane) : Rd Res :=
  (((readMove e l a).map (fun r => ({ regs := [{ r with tag := Tag.ofCode t.toNat }], words := 0 } : Res))).check
    (decide (t.toNat ≤ 25)) .illegalOperand).check (decide (t.toNat ≠ 24 ∧ t.toNat ≠ 25)) .format
/-- `retag` (R150). -/
def execRetag (u : Bool) (d a : Opnd) (t : BitVec 8) (s : State) : Out := valueIssue s u d one (retagVal a t)

/-- The result of `tagof` (R151). -/
def tagofVal (a : Opnd) (e : Env) (l : Lane) : Rd Res :=
  (readMoveChk e l a).map (fun r => Res.word (BitVec.ofNat 32 r.tag.code) .n32)
/-- `tagof` (R151). -/
def execTagof (u : Bool) (d a : Opnd) (s : State) : Out := valueIssue s u d one (tagofVal a)

/-! Special registers. -/

/-- sr.flags (R58). -/
def flagSnapshot (g : Group) : Word :=
  BitVec.ofNat 32 ((List.range 12).foldl (fun a i =>
    a + (if g.flags.getD i 0 = 0 then 0 else 2 ^ i) + (if g.flags.getD i 0 = 63 then 2 ^ (12 + i) else 0)) 0)

/-- sr.pclass (R91, R387, R395): [1:0] the class, 1 in lockup mode; [3:2] the team's request, 0 in a team that makes none
(DESIGN CHOICE, log entry 48); [5:4] PCLASS_MAX. -/
def pclassReg (e : Env) : Word :=
  let cls := if e.s.dev.lockup e.g.part then 1 else (e.s.dev.cluster (e.g.core / 4)).cls
  BitVec.ofNat 32 (cls + 4 * (e.t.pclass.getD 0) + 16 * fld e.desc.timing 1 2)

/-- A special register as a lane reads it (R91): its value and tags. -/
def srRead (e : Env) (l : Lane) (i : Nat) : Option (Nat × List Tag) :=
  let w := fun (n : Nat) => some (n % 2 ^ 32, [Tag.n32])
  match i with
  | 0x00 => w (e.s.dev.cycOf e.g.part e.g.core)
  | 0x01 => w l.cych.toNat
  | 0x02 => w l.glid.toNat
  | 0x03 => w (l.glid.toNat / 2 ^ 32)
  | 0x04 => w l.lid
  | 0x05 => w e.g.gix
  | 0x06 => w e.t.tix
  | 0x07 => w (launchIdOf e.t).toNat
  | 0x08 => w e.g.core
  | 0x09 => w e.g.part
  | 0x0A => w e.g.mode.toNat
  | 0x0B => w (flagSnapshot e.g).toNat
  | 0x0C => w l.rctr.toNat
  | 0x0D => w (pclassReg e).toNat
  | 0x0E => some (l.sp.toNat, n64Tags)
  | 0x0F => w e.part.dropped
  | 0x10 => w l.ticket.toNat
  | 0x11 => w e.g.width
  | 0x12 => w (e.desc.timing % 2 + (if e.t.shape.breachTrap then 2 else 0))
  | 0x13 => w e.g.breach
  | _ => none

/-- The result of `rdsr` (R91, R152): a pair for sr.sp, else one register. -/
def rdsrVal (i : BitVec 16) (e : Env) (l : Lane) : Rd Res :=
  match srRead e l i.toNat with
  | some (x, ts) => Rd.pure { regs := regsOf ts x, words := 0 }
  | none => Rd.bad .illegalOperand { regs := [], words := 0 }
def rdsrShape (i : BitVec 16) (_ : Env) : Nat × Bool := if i.toNat = 0x0E then (2, true) else (1, false)

/-- A read of sr.cyc latches the high half in sr.cych of every lane that passes the guard (R92). -/
def rdsrLane (i : BitVec 16) (e : Env) (l : Lane) : Lane :=
  if i.toNat = 0 ∧ e.m.passes l then { l with cych := BitVec.ofNat 32 (e.s.dev.cycOf e.g.part e.g.core / 2 ^ 32) } else l

/-- The state after `rdsr`. -/
def rdsrNext (e : Env) (u : Bool) (d : Opnd) (i : BitVec 16) : State :=
  e.done ((e.settleReads (valueChks e u d (rdsrShape i e) (rdsrVal i)) e.s).onDev
      (fun dv => dv.modGroup e.g.gid (valueGroup e u d (rdsrShape i e) (rdsrVal i))))
    (fun l => rdsrLane i e (valueLane e u d (rdsrShape i e) (rdsrVal i) l))

/-- `rdsr` (R91, R92, R152). -/
def execRdsr (u : Bool) (d : Opnd) (i : BitVec 16) (s : State) : Out :=
  withGang s (fun e =>
    e.gate (valueChks e u d (rdsrShape i e) (rdsrVal i)) (fun _ => .next (rdsrNext e u d i)))

/-- The read of a group-state write, made by the leader: only with U = 1, and refused as MODE_FIELD (R81, R82, R85). -/
def groupRead (e : Env) (u : Bool) (rd : Env → Lane → Rd (Option (Group → Group))) : Rd (Option (Group → Group)) :=
  let r := (rd e e.leader).check u .illegalOperand
  r.check r.val.isSome .modeField

def groupChks (e : Env) (u : Bool) (rd : Env → Lane → Rd (Option (Group → Group))) : List (Nat × Chk) :=
  (e.leader.lid, (groupRead e u rd).chk) :: (e.readChks u (rd e)).drop 1

/-- The state after a group-state write: made whatever the guard (R83). -/
def groupNext (e : Env) (u : Bool) (rd : Env → Lane → Rd (Option (Group → Group))) : State :=
  e.done ((e.settleReads (groupChks e u rd) e.s).onDev (fun dv =>
    dv.modGroup e.g.gid ((groupRead e u rd).val.getD id))) id

/-- A group-state write (R82, R83, R85). -/
def groupWrite (s : State) (u : Bool) (rd : Env → Lane → Rd (Option (Group → Group))) : Out :=
  withGang s (fun e => e.gate (groupChks e u rd) (fun _ => .next (groupNext e u rd)))

def setMode (n : Nat) : Option (Group → Group) :=
  if modeLegal n then some (fun g => { g with mode := BitVec.ofNat 32 n }) else none

/-- MODE with a field replaced. -/
def putField (n lo len v : Nat) : Nat := n - fld n lo len * 2 ^ lo + v % 2 ^ len * 2 ^ lo

/-- The selectors of `mode` (R141): lowest bit and width. -/
def modeSel : Nat → Option (Nat × Nat)
  | 0 => some (0, 16) | 1 => some (16, 16) | 2 => some (7, 5) | 3 => some (12, 3) | 4 => some (15, 1) | 5 => some (16, 1)
  | 6 => some (17, 3) | 7 => some (20, 3) | 8 => some (23, 2) | 9 => some (25, 1) | 10 => some (26, 1)
  | 11 => some (27, 1) | 12 => some (28, 4) | _ => none

/-- What `mode` writes (R141). -/
def modeWrite (d : BitVec 8) (i : BitVec 16) (e : Env) (_ : Lane) : Rd (Option (Group → Group)) :=
  match modeSel d.toNat with
  | some (lo, len) => (Rd.pure (setMode (putField e.g.mode.toNat lo len i.toNat))).check (decide (i.toNat < 2 ^ len)) .illegalOperand
  | none => Rd.bad .illegalOperand (some id)
/-- `mode` (R141). -/
def execMode (d : BitVec 8) (i : BitVec 16) (s : State) : Out := groupWrite s true (modeWrite d i)

/-- What `guard` writes (R142). -/
def guardWrite (n : Bool) (g : BitVec 6) (e : Env) (_ : Lane) : Rd (Option (Group → Group)) :=
  Rd.pure (setMode (putField (putField e.g.mode.toNat 0 6 g.toNat) 6 1 n.toNat))
/-- `guard` (R142). -/
def execGuard (n : Bool) (g : BitVec 6) (s : State) : Out := groupWrite s true (guardWrite n g)

/-- What `fmt` writes (R143). -/
def fmtWrite (d : BitVec 8) (a : Opnd) (e : Env) (l : Lane) : Rd (Option (Group → Group)) :=
  ((readAny e l a).map (fun r =>
    if fmLegal r.bits.toNat then some (fun g => { g with fm := g.fm.set d.toNat r.bits }) else none)).check
    (decide (d.toNat < 8)) .illegalOperand
/-- `fmt` (R143). -/
def execFmt (d : BitVec 8) (a : Opnd) (s : State) : Out := groupWrite s true (fmtWrite d a)

/-- What `omap` writes (R144). -/
def omapWrite (d : BitVec 8) (a : Opnd) (e : Env) (l : Lane) : Rd (Option (Group → Group)) :=
  let okOp := match a with | .const _ | .special _ => false | _ => true
  (((readRun e l .resolve a 4 false).map (fun rs =>
    let v : BitVec 128 := BitVec.ofNat 128 (leNat (bytesOf (rs.map (·.bits))))
    if omLegal v then some (fun g => { g with om := g.om.set d.toNat v }) else none)).check
    (decide (d.toNat < 8)) .illegalOperand).check okOp .illegalOperand
/-- `omap` (R144). -/
def execOmap (d : BitVec 8) (a : Opnd) (s : State) : Out := groupWrite s true (omapWrite d a)

/-- What `wrsr` writes to sr.mode, the group's (R153). -/
def srModeWrite (d : Opnd) (e : Env) (l : Lane) : Rd (Option (Group → Group)) := (readAny e l d).map (fun r => setMode r.bits.toNat)

/-- What `wrsr` writes to a lane's own special register, sr.rctr or sr.sp (R92, R153). -/
def srWrite (d : Opnd) (i : BitVec 16) (e : Env) (l : Lane) : Rd (Lane → Lane) :=
  if i.toNat = 0x0C then (readAny e l d).map (fun r l => { l with rctr := BitVec.ofNat 32 r.bits.toNat })
  else if i.toNat = 0x0E then (readPairAny e l d).map (fun n l => { l with sp := BitVec.ofNat 64 n })
  else Rd.bad .illegalOperand id

/-- The state after each lane that passes the guard has been changed by what it, or the leader, read. -/
def lanesNext (e : Env) (u : Bool) (rd : Env → Lane → Rd (Lane → Lane)) : State :=
  e.done (e.settleReads (e.readChks u (rd e)) e.s) (fun l => if e.m.passes l then (rd e (e.source u l)).val l else l)

/-- An instruction that changes only its lanes' own state. -/
def lanesIssue (s : State) (u : Bool) (rd : Env → Lane → Rd (Lane → Lane)) : Out :=
  withGang s (fun e => e.gate (e.readChks u (rd e)) (fun _ => .next (lanesNext e u rd)))

/-- `wrsr` (R92, R153). -/
def execWrsr (u : Bool) (d : Opnd) (i : BitVec 16) (s : State) : Out :=
  if i.toNat = 0x0A then groupWrite s u (srModeWrite d) else lanesIssue s u (srWrite d i)

/-! Index registers (R145). -/

/-- What `xset`, `xoff` and `xadd` do to index register k of a lane (R145). -/
def xsetWrite (k : BitVec 3) (b lim : BitVec 8) (_ : Env) (_ : Lane) : Rd (Lane → Lane) :=
  (Rd.pure (fun (l : Lane) => { l with x := modAt l.x k.toNat (fun _ => { off := 0, limit := lim, base := b }) })).check
    (decide (b.toNat < 192 ∧ lim.toNat < 192)) .illegalOperand
def xoffWrite (k : BitVec 3) (a : Opnd) (e : Env) (l : Lane) : Rd (Lane → Lane) :=
  (read32 e l a).map (fun v l => { l with x := modAt l.x k.toNat (fun x => { x with off := BitVec.ofNat 8 (min v.1.toNat 255) }) })
def xaddWrite (k : BitVec 3) (a : Opnd) (e : Env) (l : Lane) : Rd (Lane → Lane) :=
  (read32 e l a).map (fun v l => { l with x := modAt l.x k.toNat (fun x =>
    let n : Int := (x.off.toNat : Int) + v.1.toInt
    { x with off := if 0 ≤ n ∧ n ≤ 255 then BitVec.ofNat 8 n.toNat else 255 }) })

/-- `xset` (R145). -/
def execXset (u : Bool) (k : BitVec 3) (b l : BitVec 8) (s : State) : Out := lanesIssue s u (xsetWrite k b l)
/-- `xoff` (R145). -/
def execXoff (u : Bool) (k : BitVec 3) (a : Opnd) (s : State) : Out := lanesIssue s u (xoffWrite k a)
/-- `xadd` (R145). -/
def execXadd (u : Bool) (k : BitVec 3) (a : Opnd) (s : State) : Out := lanesIssue s u (xaddWrite k a)

/-! Bit operations (R160-R162). -/

/-- The tag of a bit operation's result (R74): of A if a register, else of B if a register, else N32. -/
def bitTag (a b : Opnd) (ra rb : Reg) : Tag :=
  let isReg := fun (o : Opnd) => match o with | .v _ | .s _ | .vx _ => true | _ => false
  if isReg a then ra.tag else if isReg b then rb.tag else .n32

/-- The results of the bit operations: one, two or three registers of any tag. -/
def bitVal1 (a : Opnd) (f : Word → Word) (e : Env) (l : Lane) : Rd Res :=
  (readAny e l a).map (fun r => Res.word (f r.bits) (bitTag a .sink r r))
def bitVal2 (a b : Opnd) (f : Word → Word → Word) (e : Env) (l : Lane) : Rd Res :=
  (readAny e l a).and (readAny e l b) (fun x y => Res.word (f x.bits y.bits) (bitTag a b x y))
def bitVal3 (d a b : Opnd) (f : Word → Word → Word → Word) (e : Env) (l : Lane) : Rd Res :=
  ((readAny e l a).and (readAny e l b) Prod.mk).and (readAny e l d)
    (fun xy z => Res.word (f xy.1.bits xy.2.bits z.bits) (bitTag a b xy.1 xy.2))

def bit1 (s : State) (u : Bool) (d a : Opnd) (f : Word → Word) : Out := valueIssue s u d one (bitVal1 a f)
def bit2 (s : State) (u : Bool) (d a b : Opnd) (f : Word → Word → Word) : Out := valueIssue s u d one (bitVal2 a b f)
def bit3 (s : State) (u : Bool) (d a b : Opnd) (f : Word → Word → Word → Word) : Out := valueIssue s u d one (bitVal3 d a b f)

/-- `and` (R160). -/
def execAnd (u : Bool) (d a b : Opnd) (s : State) : Out := bit2 s u d a b (· &&& ·)
/-- `or` (R160). -/
def execOr (u : Bool) (d a b : Opnd) (s : State) : Out := bit2 s u d a b (· ||| ·)
/-- `xor` (R160). -/
def execXor (u : Bool) (d a b : Opnd) (s : State) : Out := bit2 s u d a b (· ^^^ ·)
/-- `not` (R160). -/
def execNot (u : Bool) (d a : Opnd) (s : State) : Out := bit1 s u d a (~~~ ·)
/-- `andn` (R160). -/
def execAndn (u : Bool) (d a b : Opnd) (s : State) : Out := bit2 s u d a b (fun x y => x &&& ~~~ y)
def shlBits (x y : Word) : Word := if 32 ≤ y.toNat then 0 else x <<< y.toNat
/-- `shl` (R160): 0 for a count of 32 or more. -/
def execShl (u : Bool) (d a b : Opnd) (s : State) : Out :=
  bit2 s u d a b shlBits
def shrBits (x y : Word) : Word := if 32 ≤ y.toNat then 0 else x >>> y.toNat
/-- `shr` (R160). -/
def execShr (u : Bool) (d a b : Opnd) (s : State) : Out :=
  bit2 s u d a b shrBits
def sraBits (x y : Word) : Word := x.sshiftRight (min y.toNat 31)
/-- `sra` (R160). -/
def execSra (u : Bool) (d a b : Opnd) (s : State) : Out :=
  bit2 s u d a b sraBits
/-- `rot` (R160). -/
def execRot (u : Bool) (d a b : Opnd) (s : State) : Out := bit2 s u d a b (fun x y => x.rotateLeft (y.toNat % 32))
def popcBits (x : Word) : Word := BitVec.ofNat 32 ((List.range 32).filter (fun i => x.getLsbD i)).length
/-- `popc` (R160). -/
def execPopc (u : Bool) (d a : Opnd) (s : State) : Out :=
  bit1 s u d a popcBits
def clzBits (x : Word) : Word := BitVec.ofNat 32 (if x = 0 then 32 else 31 - Nat.log2 x.toNat)
/-- `clz` (R160). -/
def execClz (u : Bool) (d a : Opnd) (s : State) : Out :=
  bit1 s u d a clzBits
def brevBits (x : Word) : Word := BitVec.ofNat 32 ((List.range 32).foldl (fun n i => n + (if x.getLsbD (31 - i) then 2 ^ i else 0)) 0)
/-- `brev` (R160). -/
def execBrev (u : Bool) (d a : Opnd) (s : State) : Out :=
  bit1 s u d a brevBits
def ffsBits (x : Word) : Word := match (List.range 32).find? (fun i => x.getLsbD i) with
  | some i => BitVec.ofNat 32 i
  | none => 0xFFFFFFFF#32
/-- `ffs` (R160). -/
def execFfs (u : Bool) (d a : Opnd) (s : State) : Out := bit1 s u d a ffsBits

/-- The field of `bfx` and `bfi` (R161): position, length, sign. -/
def fieldOf (b : Word) : Nat × Nat × Bool := (fld b.toNat 0 5, min (fld b.toNat 8 6) 32, b.getLsbD 15)

def bfxBits (x y : Word) : Word :=
  let (pos, len, sgn) := fieldOf y
  let f := x.toNat / 2 ^ pos % 2 ^ len
  if len = 0 then 0
  else if sgn && bit f (len - 1) then BitVec.ofNat 32 (f + (2 ^ 32 - 2 ^ len))
  else BitVec.ofNat 32 f
/-- `bfx` (R161). -/
def execBfx (u : Bool) (d a b : Opnd) (s : State) : Out := bit2 s u d a b bfxBits

def bfiBits (x y z : Word) : Word :=
  let (pos, len, _) := fieldOf y
  let m : Word := BitVec.ofNat 32 ((2 ^ len - 1) * 2 ^ pos)
  (z &&& ~~~ m) ||| ((x <<< pos) &&& m)
/-- `bfi` (R161). -/
def execBfi (u : Bool) (d a b : Opnd) (s : State) : Out := bit3 s u d a b bfiBits

def permBits (x y z : Word) : Word :=
  let pool := x.toNat + 2 ^ 32 * z.toNat
  BitVec.ofNat 32 (joinElems 8 ((List.range 4).map (fun i =>
    let n := elemAt 4 i y.toNat
    if 8 ≤ n then 0 else elemAt 8 n pool)))
/-- `perm` (R162). -/
def execPerm (u : Bool) (d a b : Opnd) (s : State) : Out := bit3 s u d a b permBits

end Sys2Proof.Machine
end

