-- ==== Sys2Proof/Machine/Flags.lean ====
section
/-!
DEFINITION. Completion flags (R19, R56) and predicates: compares, classification and predicate logic (R60, R163-R167).
-/
namespace Sys2Proof.Machine
open Sys2Proof

/-! Completion flags: 6-bit counts (R56). -/

def Group.addFlag (g : Group) (f : Option Nat) : Group := match f with
  | some i => { g with flags := modAt g.flags i (· + 1) }
  | none => g
def Group.dropFlag (g : Group) (f : Option Nat) : Group := match f with
  | some i => { g with flags := modAt g.flags i (· - 1) }
  | none => g
/-- A flag that reads 63 holds back what would count on it (R22, R56). -/
def Group.flagFull (g : Group) (f : Option Nat) : Bool := match f with
  | some i => g.flags.getD i 0 == 63
  | none => false
/-- The flag the instruction at the gang's slot counts on. -/
def Env.flag (e : Env) : Option Nat := e.cl.flagOf e.slot

/-! Predicates. -/

def setPred (p : BitVec 48) (i : Nat) (b : Bool) : BitVec 48 :=
  let m : BitVec 48 := 1#48 <<< i
  if b then p ||| m else p &&& ~~~m

/-- A predicate field: 0-47, or 63 (R60). -/
def predOk (n : Nat) : Bool := n < 48 || n == 63

/-- The value of a predicate field after inversion: 63 is constant 1 (R60, R165). -/
def Lane.pred (l : Lane) (n : Nat) (inv : Bool) : Bool := xor (decide (48 ≤ n) || l.p.getLsbD n) inv

/-- COMB (R60): 0 the result, 1 AND, 2 OR, 3 XOR with the old value. -/
def combine (comb : Nat) (old c : Bool) : Bool :=
  if comb = 0 then c else if comb = 1 then old && c else if comb = 2 then old || c else xor old c

/-- A predicate written; 63 discards (R60). -/
def Lane.setP (l : Lane) (pd : Nat) (b : Bool) : Lane := if pd < 48 then { l with p := setPred l.p pd b } else l

/-- The result of an instruction of format P, with its predicate field checked. -/
def predRead (p : BitVec 6) (val : Env → Lane → Rd Bool) (e : Env) (l : Lane) : Rd Bool :=
  (val e l).check (predOk p.toNat) .illegalOperand

/-- The state after an instruction of format P: each lane that passes the guard combines the result into pd (R60). -/
def predNext (e : Env) (u : Bool) (p : BitVec 6) (c : BitVec 2) (val : Env → Lane → Rd Bool) : State :=
  e.done (e.settleReads (e.readChks u (predRead p val e)) e.s) (fun l =>
    if e.m.passes l then l.setP p.toNat (combine c.toNat (l.pred p.toNat false) (val e (e.source u l)).val) else l)

/-- An instruction of format P (R60, R139). -/
def predIssue (s : State) (u : Bool) (p : BitVec 6) (c : BitVec 2) (val : Env → Lane → Rd Bool) : Out :=
  withGang s (fun e => e.gate (e.readChks u (predRead p val e)) (fun _ => .next (predNext e u p c val)))

/-- A compare (R163): on integers, and on floats with NaN apart. -/
structure CmpOp where
  int : Int → Int → Bool
  flt : FVal → FVal → Bool
  nan : Bool
  ints : Bool

def cmpVal (a b : Opnd) (op : CmpOp) (e : Env) (l : Lane) : Rd Bool :=
  ((readElem e l a).and (readElem e l b) (fun x y => match e.m.etype.elems with
    | .int sg w _ => op.int (intOf sg w x) (intOf sg w y)
    | .flt f _ _ =>
      let v := f.read e.m.ftz x
      let w := f.read e.m.ftz y
      if v.isNan || w.isNan then op.nan else op.flt v w
    | .nar => false)).check
    (isScalar e.m.etype && (op.ints || !isScalarInt e.m.etype)) .format

/-- The seven relations of R163. -/
def cmpEq : CmpOp := { int := (· == ·), flt := FVal.eq, nan := false, ints := true }
def cmpNe : CmpOp := { int := (· != ·), flt := fun x y => !FVal.eq x y, nan := true, ints := true }
def cmpLt : CmpOp := { int := fun x y => decide (x < y), flt := FVal.lt, nan := false, ints := true }
def cmpLe : CmpOp := { int := fun x y => decide (x ≤ y), flt := FVal.le, nan := false, ints := true }
def cmpGt : CmpOp := { int := fun x y => decide (y < x), flt := fun x y => FVal.lt y x, nan := false, ints := true }
def cmpGe : CmpOp := { int := fun x y => decide (y ≤ x), flt := fun x y => FVal.le y x, nan := false, ints := true }
def cmpUn : CmpOp := { int := fun _ _ => false, flt := fun _ _ => false, nan := true, ints := false }

def compare (s : State) (u : Bool) (p : BitVec 6) (c : BitVec 2) (a b : Opnd) (op : CmpOp) : Out :=
  predIssue s u p c (cmpVal a b op)

/-- `ceq` (R163). -/
def execCeq (u : Bool) (p : BitVec 6) (c : BitVec 2) (a b : Opnd) (s : State) : Out := compare s u p c a b cmpEq
/-- `cne` (R163). -/
def execCne (u : Bool) (p : BitVec 6) (c : BitVec 2) (a b : Opnd) (s : State) : Out := compare s u p c a b cmpNe
/-- `clt` (R163). -/
def execClt (u : Bool) (p : BitVec 6) (c : BitVec 2) (a b : Opnd) (s : State) : Out := compare s u p c a b cmpLt
/-- `cle` (R163). -/
def execCle (u : Bool) (p : BitVec 6) (c : BitVec 2) (a b : Opnd) (s : State) : Out := compare s u p c a b cmpLe
/-- `cgt` (R163). -/
def execCgt (u : Bool) (p : BitVec 6) (c : BitVec 2) (a b : Opnd) (s : State) : Out := compare s u p c a b cmpGt
/-- `cge` (R163). -/
def execCge (u : Bool) (p : BitVec 6) (c : BitVec 2) (a b : Opnd) (s : State) : Out := compare s u p c a b cmpGe
/-- `cun` (R163). -/
def execCun (u : Bool) (p : BitVec 6) (c : BitVec 2) (a b : Opnd) (s : State) : Out := compare s u p c a b cmpUn

/-- The class bit of a stored value (R164). -/
def classBit (f : Fmt) (x : Nat) : Nat :=
  let sub := decide (x / 2 ^ f.mbits % 2 ^ f.ebits = 0)
  match f.decode x with
  | .nan => 8
  | .inf n => if n then 0 else 7
  | .fin n m _ => if m = 0 then (if n then 3 else 4) else if sub then (if n then 2 else 5) else (if n then 1 else 6)

def classVal (a b : Opnd) (e : Env) (l : Lane) : Rd Bool :=
  ((readElem e l a).and (readMove e l b) (fun x m => match e.m.etype.elems with
    | .flt f _ _ => m.bits.getLsbD (classBit f x)
    | _ => false)).check (e.m.etype == .f32 || e.m.etype == .f64) .format
/-- `cclass` (R164). -/
def execCclass (u : Bool) (p : BitVec 6) (c : BitVec 2) (a b : Opnd) (s : State) : Out := predIssue s u p c (classVal a b)

/-- The result of `plog` (R165): F 0 AND, 1 OR, 2 XOR, 3 the left operand. -/
def plogVal (f : BitVec 2) (ia : Bool) (qa : BitVec 6) (ib : Bool) (qb : BitVec 6) (_ : Env) (l : Lane) : Rd Bool :=
  let x := l.pred qa.toNat ia
  let y := l.pred qb.toNat ib
  (Rd.pure (match f.toNat with | 0 => x && y | 1 => x || y | 2 => xor x y | _ => x)).check
    (predOk qa.toNat && (if f.toNat = 3 then !ib && qb.toNat == 0 else predOk qb.toNat)) .illegalOperand
/-- `plog` (R165). -/
def execPlog (u : Bool) (p : BitVec 6) (c : BitVec 2) (f : BitVec 2) (ia : Bool) (qa : BitVec 6) (ib : Bool)
    (qb : BitVec 6) (s : State) : Out := predIssue s u p c (plogVal f ia qa ib qb)

def vtopVal (a b : Opnd) (e : Env) (l : Lane) : Rd Bool :=
  (readMove e l a).and (readMove e l b) (fun x y => x.bits.getLsbD (y.bits.toNat % 32))
/-- `vtop` (R167). -/
def execVtop (u : Bool) (p : BitVec 6) (c : BitVec 2) (a b : Opnd) (s : State) : Out := predIssue s u p c (vtopVal a b)

def psetVal (a b : Opnd) (e : Env) (l : Lane) : Rd Bool :=
  (readMove e l a).and (readMove e l b) (fun x y => (x.bits &&& y.bits) != 0)
/-- `pset` (R167). -/
def execPset (u : Bool) (p : BitVec 6) (c : BitVec 2) (a b : Opnd) (s : State) : Out := predIssue s u p c (psetVal a b)

def ptovVal (a b : BitVec 8) (_ : Env) (l : Lane) : Rd Res :=
  (Rd.pure (Res.word (BitVec.ofNat 32 ((List.range (min b.toNat 32)).foldl (fun n i =>
    n + (if a.toNat + i < 48 && l.p.getLsbD (a.toNat + i) then 2 ^ i else 0)) 0)) .n32)).check
    (decide (a.toNat < 48 ∧ 1 ≤ b.toNat ∧ b.toNat ≤ 32)) .illegalOperand
/-- `ptov` (R166). -/
def execPtov (u : Bool) (d : Opnd) (a b : BitVec 8) (s : State) : Out := valueIssue s u d one (ptovVal a b)

end Sys2Proof.Machine
end

