-- ==== Sys2Proof/Machine/Access.lean ====
section
/-!
DEFINITION. Memory accesses of lanes: address checks (R180), outstanding operations and their completion (R56, R57,
R181, R182), atomics (R194-R197), deferred cells (R198, R333-R346), delivered faults and replay records (R181, R324).
-/
namespace Sys2Proof.Machine
open Sys2Proof

/-! Address checks. -/

/-- One access to be made: its lane, address, and the lanes that write its result with their destinations. -/
structure Req where
  lane : Lane
  va : Nat
  data : List Byte
  writers : List (Nat × Dst)

/-- What the checks of R180 leave. -/
inductive Checked where
  | stop (o : Out)
  | ok (places : List (Req × Place))

/-- What an address of an access meets up to step 3 of R180; `refuse`: a place found that the instruction has no permission for
(R196, R197, R199). -/
def Env.meets (e : Env) (need : Need) (refuse : Req → Place → Bool) (r : Req) : Resolved :=
  match (e.agent r.lane).resolve e.s.st r.va need with
  | .ok pl => if refuse r pl then .perm else .ok pl
  | x => x

/-- The checks of R180 over the lanes up to its range locks: alignment, translation, permission. A page that is fatal in some
lane is raised before an absent one parks the group (log entry 11). -/
def Env.checkPlaces (e : Env) (align : Nat) (need : Need) (rs : List Req) (refuse : Req → Place → Bool := fun _ _ => false) : Checked :=
  let bad := rs.filter (fun r => r.va % align != 0)
  if !bad.isEmpty then .stop (e.raise .align (bad.map (·.lane.lid)) 0)
  else
    let ps := rs.map (fun r => (r, e.meets need refuse r))
    let sel := fun (x : Resolved) => ps.filter (fun p => p.2 == x)
    let addr := fun (l : List (Req × Resolved)) => match l with | p :: _ => BitVec.ofNat 64 p.1.va | [] => 0
    let lids := fun (l : List (Req × Resolved)) => l.map (·.1.lane.lid)
    if !(sel .fatal).isEmpty then .stop (e.raise .translation (lids (sel .fatal)) (addr (sel .fatal)))
    else if !(sel .absent).isEmpty then .stop (e.park (lids (sel .absent)) (addr (sel .absent)))
    else if !(sel .perm).isEmpty then .stop (e.raise .permission (lids (sel .perm)) (addr (sel .perm)))
    else .ok (ps.filterMap (fun p => match p.2 with | .ok pl => some (p.1, pl) | _ => none))

/-- The checks of R180, range locks last. `winLocks`: range locks count in the local window too. -/
def Env.checkAddrs (e : Env) (align n : Nat) (need : Need) (srcToo winLocks : Bool) (rs : List Req)
    (refuse : Req → Place → Bool := fun _ _ => false) : Checked :=
  match e.checkPlaces align need rs refuse with
  | .stop o => .stop o
  | .ok good =>
    let locked := good.filter (fun p => (winLocks || decide (p.1.va < windowBase)) && e.s.dev.locked e.g.core srcToo (lockAt p.1.va p.2, n))
    if !locked.isEmpty then
      .stop (e.raise .rangeLock (locked.map (·.1.lane.lid)) (match locked with | p :: _ => BitVec.ofNat 64 p.1.va | [] => 0))
    else .ok good

/-- The TLB and table effect of the accesses (R313). -/
def Env.touchAll (e : Env) (wr : Bool) (ps : List (Req × Place)) (s : State) : State :=
  s.onSt (fun st => ps.foldl (fun st p => (e.agent p.1.lane).touch st p.1.va wr) st)

/-! Outstanding operations. -/

def Place.base : Place → Nat
  | .pa k _ _ _ => k
  | .scr k => 2 ^ 70 + k

/-- An outstanding operation has an access of this lane still to perform that the bytes overlap; an outstanding `lda` of
the lane holds back every later access (R182, R185). An access that waits in a cell's queue holds back no later one: that one
meets the cell as R198 and R201 state. -/
def Dev.laneBlocked (d : Dev) (gid lid : Nat) (pl : Place) (n : Nat) : Bool :=
  d.ops.any (fun o => o.gid == gid && o.accs.any (fun x => x.got.isNone && (x.lid == lid || x.writers.any (fun w => w.1 == lid)) &&
    (o.kind == .lda || (x.cell.isNone && overlaps (x.place.base, o.size) (pl.base, n)))))

def OpKind.isDet : OpKind → Bool | .atomic _ det => det | _ => false
def OpKind.isAtomic : OpKind → Bool | .atomic _ _ => true | _ => false
def OpKind.isStore : OpKind → Bool | .store | .strl | .plate | .accSt => true | _ => false
def OpKind.isRead : OpKind → Bool | .load | .lda | .dtag | .ret | .smp | .accLd | .look => true | _ => false

/-- Bytes of a scratchpad are of a tile that a queued or running multiply of the core, or of the other core of its pair, reads: a write to
them is held (R253). -/
def Dev.tileHolds (d : Dev) (core : Nat) (pl : Place) (n : Nat) : Bool := match pl with
  | .scr k => [core / 2 * 2, core / 2 * 2 + 1].any (fun c => (d.core c).mq.any (fun x => x.tile.keys.any (fun b =>
      decide (b.1 < k + n) && decide (k < b.1 + b.2))))
  | .pa _ _ _ _ => false

/-- A write of an operation that is so held. -/
def Dev.writeHeld (d : Dev) (o : Op) : Bool :=
  (o.kind == .store || o.kind == .strl || o.kind.isAtomic) &&
    o.accs.any (fun x => x.got.isNone && d.tileHolds o.core x.place o.size)

/-- The lane has an operation outstanding of one of some kinds. -/
def Dev.laneHas (d : Dev) (gid lid : Nat) (f : OpKind → Bool) : Bool :=
  d.ops.any (fun o => o.gid == gid && f o.kind && o.accs.any (fun x => x.lid == lid || x.writers.any (fun w => w.1 == lid)))

/-- An address of the local window: it takes no CHINT, and its stack bytes are the lane's own (R179, R188, R295). -/
def inWindow (va : Nat) : Bool := decide (windowBase ≤ va)

/-- How CHINT takes an access to memory (R188). -/
def hintVia (m : Mode) : Via := match m.chint with
  | 1 => .stream
  | 3 => .home
  | _ => .l1

/-- A fault met for a group that has retired: its record names the core, the team and the lanes. -/
def lateFault (d : Dev) (core : Nat) (pc : DWord) (t : Team) (code : FCode) (lids : List Nat) (addr : DWord) : FaultRec :=
  { gid := none, code := code, pc := pc, mask := maskOf lids, addr := addr, core := core, gslot := 0, gix := 0, tix := t.tix,
    launchId := launchIdOf t, unit := 0, detail := 1, delivered := [], written := none, header := false, hword := none, trap := false,
    found := d.time }

/-- The record of a fault found for a group, be it that the group has retired. -/
def Dev.faultFor (d : Dev) (gid core : Nat) (t : Team) (code : FCode) (pc : DWord) (lids : List Nat) (addr : DWord) : FaultRec :=
  match d.group? gid with
  | some g => faultOf d g t code pc lids addr
  | none => lateFault d core pc t code lids addr

/-- A breach of a team's group (R390): its count, and with BREACHTRAP the fault at the instruction for the lanes named. -/
def Dev.breach (d : Dev) (tid gid core : Nat) (pc : DWord) (lids : List Nat) : Dev :=
  let d := d.modGroup gid (fun g => { g with breach := min 0xFFFFFFFF (g.breach + 1) })
  match d.team? tid with
  | some t => if t.shape.breachTrap then d.raiseFault t.part (d.faultFor gid core t .lockupBreach pc lids 0) else d
  | none => d

/-- A deadline has come (`overdue`), or has passed. -/
def overdue (now : Nat) (deadline : Option Nat) : Bool := match deadline with
  | some c => decide (c ≤ now)
  | none => false
def pastDue (now : Nat) (deadline : Option Nat) : Bool := match deadline with
  | some c => decide (c < now)
  | none => false

/-- The kinds that `LONG_LATENCY_COMPLETION` completes: the others end through their own events. -/
def OpKind.completes : OpKind → Bool
  | .load | .lda | .dtag | .atomic _ _ => true
  | _ => false

/-- The lanes that a breach of an operation names: those whose results are outstanding, or those whose accesses are. -/
def Op.late (o : Op) : List Nat :=
  if o.kind = .smp ∨ o.kind.completes then (o.accs.flatMap (fun x => x.writers.map (·.1))).eraseDups else o.accs.map (·.lid)

/-- An access of an operation that has a deadline reaches a memory tier where the operation's row requires a cache hit: the operation will
be a breach (R391), and in its deadline cycle it is not over (`Op.tardy`). -/
def Dev.missed (d : Dev) (core opid : Nat) : Dev :=
  let timed := (d.core core).mq.any (fun x => x.opid == opid && x.cost != 0)
  d.modOp opid (fun o => { o with missed := o.missed || timed || o.deadline.isSome })

/-- An operation that misses its deadline and is to be a breach first: it ends no earlier than that. -/
def Op.tardy (o : Op) : Bool := o.missed && !o.breached

/-- An access of an operation reaches a memory tier: neither the core's caches nor its L2 hold the line. Row 18 of R388 asks no hit of an
atomic. -/
def State.tierMiss (s : State) (o : Op) (pl : Place) : State := match pl with
  | .scr _ => s
  | .pa k _ _ _ =>
    if !s.dev.lockup o.part || o.kind.isAtomic || s.st.lines.any (fun l => l.core == o.core && l.line == k / 128) || (s.st.l2At (s.st.own o.core pl.direct) (k / 128)).isSome
    then s else s.onDev (fun d => d.missed o.core o.opid)

/-- Where an access is performed, by its scope, DET and CHINT (R188, R195-R198); `win`: in the local window. -/
def viaOf (m : Mode) (win : Bool) (k : OpKind) : Via :=
  if win then .l1
  else
    let wide := if 4 ≤ m.scope then Via.system else .home
    match k with
    | .lda | .strl => if 2 ≤ m.scope then wide else hintVia m
    | .atomic _ det => if 2 ≤ m.scope then wide else if det then .home else .l1
    | .store | .load => hintVia m
    | .waitv => .home
    | _ => .l1

/-- The CHINT that an access brings to the L2: none in the local window, without cacheability or for an atomic (R188). -/
def hintAt (m : Mode) (win : Bool) (k : OpKind) : Place → Nat
  | .pa _ c _ _ => if win || !c || k.isAtomic then 0 else m.chint
  | .scr _ => 0

/-- A place whose memory can be reached (R410). -/
def Store.placeUp (st : Store) : Place → Bool
  | .pa k _ _ _ => st.keyUp k
  | .scr _ => true

/-- Where an error can stand that an access of a core to a place finds (R282). -/
def errSites (core : Nat) : Place → List ErrSite
  | .pa k _ _ _ => [.mem (k / 128), .l1 core (k / 128)]
  | .scr k => [.scr (k / 128)]

/-- A place in a line with an uncorrectable error (R282). -/
def Store.hardAt (st : Store) (core : Nat) (pl : Place) : Bool := (errSites core pl).any (fun x => st.errAt x == some true)

/-- Where an error can stand that a sampler of a core finds as it reads a place: its texel cache too. -/
def texelSites (core smp : Nat) (pl : Place) : List ErrSite := errSites core pl ++ (match pl with
  | .pa k _ _ _ => [.texel core smp (k / 128)]
  | .scr _ => [])

/-- Where an error can stand that an access of an operation finds. -/
def Op.sites (o : Op) (x : Acc) : List ErrSite := if o.kind = .smp then texelSites o.core (x.lid / 4 % 4) x.place else errSites o.core x.place

/-- Correctable errors at places are corrected on access and counted (R282). -/
def State.correctAt (s : State) (xs : List ErrSite) : State := if s.st.errs.isEmpty then s else s.onSt (fun st => st.correct xs)

/-- A correctable error at a place is corrected on access and counted (R282). -/
def State.correct (s : State) (core : Nat) (pl : Place) : State :=
  s.correctAt (errSites core pl)

/-! Atomic operations (R194, R195). -/

/-- Codes of the atomics: 0 add, 1 min, 2 max, 3 and, 4 or, 5 xor, 6 exchange, 7 compare and swap. -/
def atomElem (code : Nat) : ElemOp :=
  if code = 0 then opAdd else if code = 1 then opMin else opMax

/-- The new bytes of an atomic: `data` holds the operand (compare value and new value for 7), then its stream words. -/
def atomNew (code : Nat) (m : Mode) (size : Nat) (data old : List Byte) : List Byte :=
  let b := leNat (data.take size)
  let x := leNat old
  if code = 7 then (if old = data.take size then (data.drop size).take size else old)
  else if code = 6 then data.take size
  else if code = 3 then leBytes size (x &&& b)
  else if code = 4 then leBytes size (x ||| b)
  else if code = 5 then leBytes size (x ^^^ b)
  else
    let op := atomElem code
    match m.etype.elems with
    | .int sg w n => leBytes size (joinElems w ((List.range n).map (fun i =>
        op.int sg m.sat w (intOf sg w (elemAt w i x)) (intOf sg w (elemAt w i b)) 0)))
    | .flt f w n => leBytes size (joinElems w ((List.range n).map (fun i =>
        let c : RCtx := { rnd := m.rnd, sat := m.sat, ftz := m.ftz, word := field data (size + 4 * i) 4 }
        f.round c m.ftz (op.flt (m.rnd == .rdn) (f.read m.ftz (elemAt w i x)) (f.read m.ftz (elemAt w i b)) .zero))))
    | .nar => old

/-- The DET add of one access (R136): old elements as bytes. -/
def Store.detAccess (st : Store) (core : Nat) (m : Mode) (pl : Place) (data : List Byte) : Store × List Byte :=
  match pl with
  | .scr _ => (st, [])
  | .pa k _ _ _ =>
    let via := viaOf m false (.atomic 0 true)
    let st := st.clear core (k / 128) via pl.inL1
    let ty := if m.etype = .f32 then 0 else if m.etype = .f16p then 1 else 2
    let f := exactFmt ty
    let b := leNat (data.take 4)
    let as := if ty = 0 then [f.decode b] else [f.decode (b % 2 ^ 16), f.decode (b / 2 ^ 16)]
    let r := st.detAdd (st.ownVia core via pl) k ty as
    (r.1, if ty = 0 then leBytes 4 (r.2.headD 0) else leBytes 2 (r.2.headD 0) ++ leBytes 2 (r.2.getD 1 0))

/-- A lane's write, at a deferred cell by R198. -/
def Store.writePlace (st : Store) (core : Nat) (via : Via) (pl : Place) (bs : List Byte) : Store :=
  match pl with
  | .pa k _ _ true => st.writeCells k bs
  | _ => st.write core via pl bs

/-- A read of a sampler: through its texel cache where an L1 would hold the line (R268). -/
def State.texRead (s : State) (core smp : Nat) (pl : Place) (n : Nat) : State × List Byte := match pl with
  | .scr k => (s, s.st.scr.getN k n)
  | .pa k _ _ _ =>
    if pl.inL1 then
      let s := if (lineAt s.st.lines core (1 + smp) (k / 128)).isSome then s else s.noteHome core pl 0
      let s := s.onSt (fun st => st.fillTexels core (1 + smp) (k / 128))
      (s, s.st.lineGet core (1 + smp) k n)
    else
      let s := s.noteHome core pl 0
      (s, s.st.homeGetN (s.st.own core pl.direct) k n)

/-! The exact pool (R290, R292). -/

/-- Entries of a slice's pool ways. -/
def Dev.poolCap (d : Dev) (q : Nat) : Nat := ((d.part q).desc.getD Desc.none).poolW * 4096
def Dev.buckets (d : Dev) (q : Nat) : Nat := ((d.part q).desc.getD Desc.none).spillLen / 512

/-- The accumulators of a partition that lie in a slice's pool, the latest used first. -/
def Dev.poolOf (d : Dev) (st : Store) (q slice : Nat) : List Exact :=
  st.exact.filter (fun x => x.spill.isNone && inShare q d.nparts x.pa && st.sliceOf d.slicesOf (x.pa / 128) == slice)

def Dev.bucketOf (d : Dev) (q pa : Nat) : Nat := pa / 4 % d.buckets q

/-- The free places of a bucket. -/
def Dev.bucketFree (d : Dev) (st : Store) (q b : Nat) : List Nat :=
  let base := ((d.part q).desc.getD Desc.none).spill
  ((List.range 8).map (fun i => base + 512 * b + 64 * i)).filter (fun a => !st.exact.any (fun x => x.spill == some a))

/-- An entry in the form of R292. -/
def Exact.bytes (x : Exact) : List Byte :=
  leBytes 48 x.sum.toNat ++ leBytes 2 x.state ++ leBytes 1 (x.elem + 2 * x.ty) ++ leBytes 5 0 ++ leBytes 8 x.pa

/-- Entries beyond the pool's size go to the spill area, least recently used first; whether the area had room for all. -/
def Dev.spillOver (d : Dev) (q slice : Nat) : Nat → Store → Store × Bool
  | 0, st => (st, true)
  | n + 1, st =>
    let pool := d.poolOf st q slice
    match (if pool.length ≤ d.poolCap q then none else pool.getLast?) with
    | none => (st, true)
    | some x => match (if d.buckets q = 0 then [] else d.bucketFree st q (d.bucketOf q x.pa)) with
      | [] => (st, false)
      | a :: _ =>
        let mark := fun (y : Exact) => if y.pa = x.pa ∧ y.elem = x.elem then { y with spill := some a } else y
        d.spillOver q slice n (({ st with exact := st.exact.map mark } : Store).homeSet none a x.bytes)

/-- The slice of a partition that holds the accumulators of a key. -/
def Dev.poolSlice (d : Dev) (st : Store) (key : Nat) : Nat := st.sliceOf d.slicesOf (key / 128)

/-- A read of bytes of a word under accumulation: its entries come back from the spill area and are the latest used (R292). -/
def State.useExact (s : State) (q : Nat) (pl : Place) (n : Nat) : State := match pl with
  | .scr _ => s
  | .pa k _ _ _ =>
    let hit := fun (x : Exact) => decide (x.pa < k + n) && decide (k < x.pa + 4)
    if !s.st.exact.any hit then s
    else
      let st := { s.st with exact := (s.st.exact.filter hit).map (fun x => { x with spill := none }) ++ s.st.exact.filter (fun x => !hit x) }
      { s with st := (s.dev.spillOver q (s.dev.poolSlice st k) (n + 4) st).1 }

/-- A DET add of a lane at its place with what it moves to the spill area; whether that area had room (R292). -/
def State.detStep (s : State) (o : Op) (x : Acc) : (State × List Byte) × Bool :=
  let r := s.st.detAccess o.core (Mode.ofWord o.mode) x.place x.data
  let p := s.dev.spillOver o.part (s.dev.poolSlice r.1 x.place.base) 4 r.1
  (({ s with st := p.1 }, r.2), p.2)

/-- A load performed on a published deferred cell is an acquire at partition scope (R198, R299, R341). -/
def State.cellAcquire (s : State) (o : Op) (x : Acc) : State := match x.place with
  | .pa _ _ _ true => if o.kind = .dtag then s else s.onSt (fun st => st.acquire o.core)
  | _ => s

/-- An access performed (R182, R198): bytes read, and the state after it. -/
def State.perform (s : State) (o : Op) (x : Acc) : State × List Byte :=
  let m := Mode.ofWord o.mode
  let win := inWindow x.va.toNat
  let via := viaOf m win o.kind
  let s := s.tierMiss o x.place
  let s := if o.kind = .smp then s else s.reach o.core via x.place (hintAt m win o.kind x.place)
  match o.kind with
  | .atomic code det =>
    if det then
      let r := (s.detStep o x).1
      (r.1.cellAcquire o x, r.2)
    else
      let s := s.useExact o.part x.place o.size
      let r := s.st.atomic o.core via x.place o.size (atomNew code m o.size x.data)
      (({ s with st := r.1 } : State).cellAcquire o x, r.2)
  | .strl =>
    let st := if 2 ≤ m.scope then s.st.release o.core else s.st
    ({ s with st := st.writePlace o.core via x.place x.data }, [])
  | .store | .accSt => ({ s with st := s.st.writePlace o.core via x.place x.data }, [])
  | .plate => (match x.place with
      | .pa k _ _ _ => { s with st := s.st.setCell (cellOf k) 1 x.data }
      | .scr _ => s, [])
  | .dtag =>
    let tag := match x.place with | .pa k _ _ df => if df then 4 + s.st.cellTag (cellOf k) else 0 | .scr _ => 0
    (s, leBytes 4 tag)
  | .smp =>
    let r := s.texRead o.core (x.lid / 4 % 4) x.place o.size
    (r.1.cellAcquire o x, r.2)
  | .lda =>
    let s := s.useExact o.part x.place o.size
    let r := s.st.read o.core via x.place o.size
    (({ s with st := if 2 ≤ m.scope then r.1.acquire o.core else r.1 } : State).cellAcquire o x, r.2)
  | _ =>
    let s := s.useExact o.part x.place o.size
    let r := s.st.read o.core via x.place o.size
    (({ s with st := r.1 } : State).cellAcquire o x, r.2)

/-! Deferred cells as lane reads meet them (R198, R335-R342). -/

inductive Try where
  | got (bs : List Byte)
  | wait (cell : Nat)
  | bad (c : FCode)

def Dev.chainOf (d : Dev) (gid lid : Nat) : List Nat :=
  match d.group? gid with
  | some g => match g.lanes.find? (fun l => l.lid == lid) with | some l => l.chain | none => []
  | none => []

/-- The cell an access must wait for, or the fault it meets, before it is performed; PLATE cells have been triggered. -/
def State.cellBar (s : State) (o : Op) (x : Acc) : Option Try :=
  match x.place with
  | .pa k _ _ true =>
    if o.kind = .dtag then none
    else if o.kind.isStore then (if s.st.cellTag (cellOf k) = 2 then some (.bad .deferBusy) else none)
    else
      let c := cellOf k
      if (s.dev.part o.part).waiters.any (fun w => w.2 == c) && (s.dev.part o.part).replaying.contains c then some (.wait c)
      else match s.st.cellTag c with
        | 0 => none
        | 3 => some (.bad .deferPoison)
        | 1 => some (.wait c)
        | _ => if (s.dev.chainOf o.gid x.lid).contains (field (s.st.cellBytes c) 0 4) then some (.bad .deferCycle) else some (.wait c)
  | _ => none

def insertNew (l : List Nat) (x : Nat) : List Nat := if l.contains x then l else l ++ [x]

/-- The PLATE cells an operation's accesses touch, each with its first loader, in ascending LID (R337). -/
def State.plates (s : State) (o : Op) : List (Nat × Acc) :=
  (o.accs.filter (fun x => x.got.isNone && x.cell.isNone)).foldl (fun acc x => match x.place with
    | .pa k _ _ true =>
      if o.kind ≠ .dtag ∧ !o.kind.isStore ∧ s.st.cellTag (cellOf k) = 1 ∧ !acc.any (fun a => a.1 == cellOf k) then acc ++ [(cellOf k, x)] else acc
    | _ => acc) []

/-- Waves of evaluators (R337): one for each pass and entry address, in the order of their first triggers; a wave holds 32 cells, and
further ones open another. -/
def addToWave (ws : List (Nat × EvalWave)) (pass : Nat) (entry : DWord) (core : Nat) (l : EvalLane) : List (Nat × EvalWave) :=
  let takes := fun (w : Nat × EvalWave) => w.1 == pass && w.2.entry == entry && decide (w.2.lanes.length < 32)
  if ws.any takes then ws.map (fun w => if takes w then (w.1, { w.2 with lanes := w.2.lanes ++ [l] }) else w)
  else ws ++ [(pass, { entry := entry, lanes := [l], core := core, queued := false })]

/-- Triggering (R198, R336, R337, R339): the cells become PRINTING with tickets in ascending LID of their first loaders,
and the waves join the evaluator queue. -/
def State.trigger (s : State) (o : Op) : State :=
  let r := (s.plates o).foldl (fun (acc : State × List (Nat × EvalWave)) a =>
    let s := acc.1
    let p := s.dev.part o.part
    let bs := s.st.cellBytes a.1
    let entry := BitVec.ofNat 64 (field bs 0 8)
    let arg := field bs 8 8
    let ticket := p.nextTicket
    let chain := ticket :: (s.dev.chainOf o.gid a.2.lid).take 7
    let lane : EvalLane := { arg := BitVec.ofNat 64 arg, va := BitVec.ofNat 64 (a.2.va.toNat / 16 * 16), ticket := ticket,
                             chain := chain, cell := a.1, trig := p.triggers }
    let s := (s.onSt (fun st => st.setCell a.1 2 (printingBytes arg 0 ticket))).onDev (fun d =>
      d.modPart o.part (fun p => { p with nextTicket := if ticket = 0xFFFFFFFF then 1 else ticket + 1,
                                          triggers := p.triggers + 1 }))
    (s, addToWave acc.2 (a.2.lid / 32) entry o.core lane)) (s, [])
  r.1.onDev (fun d => d.modPart o.part (fun p => { p with evals := p.evals ++ r.2.map (·.2) }))

/-- The WAITERS field of a PRINTING cell follows its queue (R334, R340). -/
def State.recount (s : State) (q cell : Nat) : State :=
  if s.st.cellTag cell ≠ 2 then s
  else
    let bs := s.st.cellBytes cell
    let n := ((s.dev.part q).waiters.filter (fun w => w.2 == cell)).length
    s.onSt (fun st => st.setCell cell 2 (printingBytes (field bs 8 8) n (field bs 0 4)))

/-- A list of numbers kept rising, each once. -/
def insertNat (x : Nat) : List Nat → List Nat
  | [] => [x]
  | y :: ys => if x < y then x :: y :: ys else if x = y then y :: ys else y :: insertNat x ys

/-- The 32 bytes of a captured lane in its replay record (R324). A lane without an effective address, of `smp` or of the matrix
unit, has 0 there. -/
def Replay.laneBytes (r : Replay) (lid : Nat) : List Byte :=
  let zeros := fun (n : Nat) => List.replicate n (0 : Byte)
  let fit := fun (n : Nat) (bs : List Byte) => (bs ++ zeros n).take n
  if r.ckind = 4 then
    let ws := ((r.mx.bind (fun x => x.rows.find? (fun m => m.lid == lid))).map (·.words)).getD []
    let w := fun (i : Nat) => (ws.getD i 0).toNat
    leBytes 8 (w 0 + 2 ^ 32 * w 1) ++ leBytes 4 (w 2) ++ leBytes 1 (w 3) ++ zeros 19
  else match r.op.accs.find? (fun a => a.lid == lid || a.writers.any (fun x => x.1 == lid)) with
    | none => zeros 32
    | some a =>
      if r.ckind = 2 then zeros 8 ++ fit 16 (a.data.drop 7) ++ fit 4 (a.data.drop 23) ++ zeros 4
      else leBytes 8 a.va.toNat ++ fit 16 a.data ++ zeros 8

/-- A replay record (R324) of a group in a slot, the `order`-th of its group, with its lanes. -/
def Replay.bytes (r : Replay) (slot order : Nat) : List Byte :=
  let lids := r.mask.foldl (fun l x => insertNat x l) []
  leBytes 8 0 ++ leBytes 4 order ++ leBytes 1 r.ckind ++ leBytes 1 (r.op.flag.getD 15) ++ leBytes 2 slot ++ leBytes 4 r.resumeAt ++
  leBytes 4 r.op.word.toNat ++ leBytes 8 r.op.pc.toNat ++ leBytes 8 (maskOf r.mask) ++ leBytes 4 r.op.mode.toNat ++
  leBytes 4 r.op.fmv.toNat ++ leBytes 16 (if r.ckind = 3 then r.op.omv.toNat else 0) ++ lids.flatMap r.laneBytes

/-- Bytes of replay records written to the save area. Where in it they stand is the device's own: a free value (log entry 38). -/
def State.writeSave (s : State) (q : Nat) (bs : List Byte) : State :=
  let desc := (s.dev.part q).desc.getD Desc.none
  let off := 64 * (Config.freeCount s.dev.freeCtr % ((desc.saveLen - bs.length) / 64 + 1))
  { st := s.st.homeSet none (desc.save + off) bs, dev := { s.dev with freeCtr := s.dev.freeCtr + 1 } }

/-- An access joins a cell's queue. Beyond the 4,096 entries of the cell's home slice it is captured as a replay record with CKIND 1 in the
save area, and it keeps its place in arrival order (R340). -/
def State.joinQueue (s : State) (o : Op) (c : Nat) : State :=
  let p := s.dev.part o.part
  if p.waiters.any (fun w => w.1 == o.opid && w.2 == c) then s
  else
    let slice := fun (x : Nat) => s.st.sliceOf (48 / s.dev.nparts) (x / 8)
    let full := decide (4096 ≤ (p.waiters.filter (fun w => slice w.2 == slice c)).length)
    let s := s.onDev (fun d => d.modPart o.part (fun p => { p with waiters := p.waiters ++ [(o.opid, c)] }))
    if full then
      let mask := (o.accs.filter (fun x => x.got.isNone)).map (·.lid)
      let r : Replay := { gid := o.gid, op := o, ckind := 1, mask := mask, seq := p.nextCapture, resumeAt := 0, mx := none }
      s.writeSave o.part (r.bytes o.gslot (p.replays.filter (fun x => x.gid == o.gid)).length)
    else s

/-- A DET add whose new entry finds its bucket of the spill area full (R292). -/
def State.detFull (s : State) (o : Op) (x : Acc) : Bool := match o.kind with
  | .atomic _ true => !(s.detStep o x).2
  | _ => false

/-- One access attempted: performed, made to wait in its cell's queue, or faulted. -/
def State.attempt1 (s : State) (opid : Nat) (x : Acc) : State × List (Nat × FCode) :=
  match s.dev.op? opid with
  | none => (s, [])
  | some o =>
    let mark := fun (f : Acc → Acc) (s : State) => s.onDev (fun d => d.modOp opid (fun o =>
      { o with accs := o.accs.map (fun a => if a.lid = x.lid ∧ a.va = x.va ∧ a.data = x.data then f a else a) }))
    if !s.st.placeUp x.place then
      (if o.kind.isStore then (mark (fun a => { a with got := some [] }) (s.onSt (fun st => { st with drops := st.drops + 1 })), [])
       else (s, [(x.lid, .eccUncorrectable)]))
    else if (o.sites x).any (fun y => s.st.errAt y == some true) && !o.kind.isStore then (s, [(x.lid, .eccUncorrectable)])
    else match s.cellBar o x with
      | some (.wait c) =>
        ((mark (fun a => { a with cell := some c, joined := s.dev.time }) (s.joinQueue o c)).recount o.part c, [])
      | some (.bad c) => (s, [(x.lid, c)])
      | _ => if s.detFull o x then (s, []) else
        let r := (s.correctAt (o.sites x)).perform o x
        (mark (fun a => { a with got := some r.2, cell := none }) r.1, [])

/-- The accesses of an operation attempted in ascending LID (R182): those already performed or waiting are passed over;
`atIssue` attempts only what meets a cell that is not VALUE. -/
def State.attemptOn (s : State) (opid : Nat) (atIssue : Bool) (which : Acc → Bool) : State × List (Nat × FCode) :=
  match s.dev.op? opid with
  | none => (s, [])
  | some o =>
    let s := s.trigger o
    (o.accs.filter (fun x => x.got.isNone && x.cell.isNone && which x)).foldl (fun acc x =>
      if atIssue && (match acc.1.cellBar o x with | none => true | some _ => false) then acc
      else let r := acc.1.attempt1 opid x; (r.1, acc.2 ++ r.2)) (s, [])

/-- All of them. -/
def State.attempt (s : State) (opid : Nat) (atIssue : Bool) : State × List (Nat × FCode) :=
  s.attemptOn opid atIssue (fun _ => true)

/-! Results, flags and generations (R56, R57, R80, R325). -/

/-- The registers a result fills: a value narrower than a register is extended by its type (R184). -/
def Op.regs (o : Op) (bs : List Byte) : List Reg :=
  if bs.length < 4 ∧ o.kind = .load then
    let n := leNat bs
    let w := bs.length * 8
    match o.tags with
    | [.i32] => [{ bits := (BitVec.ofNat w n).signExtend 32, tag := .i32 }]
    | t :: _ => [{ bits := BitVec.ofNat 32 n, tag := t }]
    | [] => []
  else List.zipWith (fun w t => { bits := w, tag := t }) (wordsOf bs) o.tags

/-- Results written to lanes' registers. -/
def Group.put (g : Group) (ws : List (Nat × Dst)) (rs : List Reg) : Group :=
  let g := { g with lanes := g.lanes.map (fun l => match ws.find? (fun w => w.1 == l.lid) with
    | some w => l.write w.2 rs
    | none => l) }
  match ws with
  | w :: _ => g.writeS w.2 rs
  | [] => g

/-- An operation's results still belong to its allocation (R325): its group has the generation of its issue, or has retired and no group
has been placed in its slot since (`Dev.addGroup`). -/
def Dev.fresh (d : Dev) (o : Op) : Bool := match d.group? o.gid with
  | some g => decide (g.gen = o.gen)
  | none => decide (o.gen < 4096)

/-- The results of the performed accesses are written, unless the group's generation has moved on: then each is dropped
and counted (R80, R325). -/
def Dev.deliverResults (d : Dev) (o : Op) : Dev :=
  let done := o.accs.filter (fun x => x.got.isSome)
  if d.fresh o then d.modGroup o.gid (fun g => done.foldl (fun g x => g.put x.writers (o.regs (x.got.getD []))) g)
  else d.modPart o.part (fun p => { p with dropped := min 0xFFFFFFFF (p.dropped + 1) })

def Dev.countDown (d : Dev) (o : Op) : Dev :=
  match d.group? o.gid with
  | some g => if g.gen = o.gen then d.modGroup o.gid (fun g => g.dropFlag o.flag) else d
  | none => d

/-- An operation captured as a replay record (R324), with its entry of the matrix queue if it has one; `at_` is the chunk or k step
at which that is to go on. A result that was to come is still to return, and will be stale (R325). -/
def Dev.capture (d : Dev) (o : Op) (ckind : Nat) (mask : List Nat) (at_ : Nat) : Dev :=
  let mx := (d.core o.core).mq.find? (fun x => x.opid == o.opid)
  let returns := o.kind.isRead || o.kind.isAtomic || (match mx with | some x => x.kind == .rd | none => false)
  let id := d.nextOp
  let d := ({ d.dropOp o.opid with nextOp := id + 1 } : Dev).modCore o.core (fun c => { c with mq := c.mq.filter (fun x => x.opid != o.opid) })
  d.modPart o.part (fun p => { p with
    replays := p.replays ++ [{ gid := o.gid, op := o, ckind := ckind, mask := mask, seq := p.nextCapture, resumeAt := at_, mx := mx }],
    nextCapture := p.nextCapture + 1,
    stale := if returns && ckind != 8 then p.stale ++ [(id, o.gid, o.gen)] else p.stale })

/-- An operation leaves the queues of deferred cells in which it waits; their WAITERS follow (R334, R340). -/
def State.leaveQueues (s : State) (q opid : Nat) : State :=
  let cells := ((s.dev.part q).waiters.filter (fun w => w.1 == opid)).map (·.2)
  if cells.isEmpty then s
  else
    let s := s.onDev (fun d => d.modPart q (fun p => { p with waiters := p.waiters.filter (fun w => w.1 != opid) }))
    cells.foldl (fun s c => s.recount q c) s

/-- The same, with the queues it leaves. -/
def State.capture (s : State) (o : Op) (ckind : Nat) (mask : List Nat) (at_ : Nat) : State :=
  (s.leaveQueues o.part o.opid).onDev (fun d => d.capture o ckind mask at_)

def OpKind.ckind : OpKind → Bool → Nat
  | .load, w => if w then 1 else 0
  | .lda, w => if w then 1 else 0
  | .dtag, _ => 0
  | .atomic _ _, w => if w then 1 else 7
  | .smp, _ => 2
  | .store, _ => 6
  | .strl, _ => 6
  | .plate, _ => 6
  | .ret, _ => 0
  | .waitv, _ => 0
  | .look, _ => 0
  | .accLd, _ => 4
  | .accSt, _ => 4

/-- The halt line rises for the lanes of an operation that met faults, one record for each code; where the codes differ the address is
that of the reads of an unreachable peer (R410). -/
def Dev.raiseLanes (d : Dev) (o : Op) (bads : List (Nat × FCode)) (addr : DWord) (delivered : List Nat) : Dev :=
  match d.team? o.tid with
  | some t => (bads.foldl (fun cs b => if cs.contains b.2 then cs else cs ++ [b.2]) []).foldl (fun d c =>
      let lids := (bads.filter (fun b => b.2 == c)).map (·.1)
      let at_ := if c = .eccUncorrectable ∨ bads.all (fun b => b.2 == c) then addr else 0
      d.raiseFault o.part { d.faultFor o.gid o.core t c o.pc lids at_ with delivered := delivered }) d
  | none => d

/-- A wait's lanes are held by no interval of the issue that began it (R388): a group may issue in the cycle in which it leaves a wait. -/
def Group.unheld (g : Group) : List (Nat × Nat × Nat) := g.pace.filter (fun y => !(y.2.1 == gangKey && g.waiting.contains y.1))

/-- A group's wait is over: the waiting lanes go on to the next instruction. -/
def Group.unwait (g : Group) (f : Lane → Lane) : Group :=
  { g with wait := none, waiting := [], pace := g.unheld, lanes := mergeGangs (g.lanes.map (fun l =>
      if g.waiting.contains l.lid then (match l.clause with | some c => (f l).step c | none => f l) else l)) }

/-- A group's wait is dropped: the waiting lanes stand at the instruction, not executed (R247). -/
def Group.rewait (g : Group) : Group := { g with wait := none, waiting := [], pace := g.unheld }

/-- Lanes held by an operation are held no more and stand at its instruction, not executed. -/
def Group.dropHold (g : Group) (o : Op) : Group :=
  { g with lanes := mergeGangs (g.lanes.map (fun l =>
      if l.hold == some (.ret o.opid) then { l with hold := none } else l)) }

/-- A fault of a read that holds its gang or its group (R208, R219): nothing is captured, the instruction is not
executed. -/
def State.abandon (s : State) (o : Op) (bads : List (Nat × FCode)) (addr : DWord) : State :=
  (s.leaveQueues o.part o.opid).onDev (fun d =>
    let d := (d.dropOp o.opid).modGroup o.gid (fun g => (match g.wait with
      | some (.waitv id _) => if id = o.opid then g.rewait else g
      | _ => g).dropHold o)
    d.raiseLanes o bads addr [])

/-- A delivered fault of an operation that is captured (R181): the halt line rises with the PC of the instruction and the lanes that
met it; an atomic is captured for the lanes not performed, whose performed lanes' results are written; a store for the lanes that
faulted, while a release store that waits goes on for its others; any other whole. -/
def State.deliverOp (s : State) (o : Op) (bads : List (Nat × FCode)) (addr : DWord) : State :=
  let o := (s.dev.op? o.opid).getD o
  let lids := bads.map (·.1)
  let part := o.kind == .store || o.kind == .strl || o.kind == .plate
  let left := if o.kind.isAtomic then (o.accs.filter (fun x => x.got.isNone)).map (·.lid)
    else if part then lids else o.accs.map (·.lid)
  let s := if o.kind.isAtomic then s.onDev (fun d => d.deliverResults o) else s
  let keep := { o with accs := (o.accs.filter (fun x => left.contains x.lid)).map (fun x => { x with got := none, cell := none }) }
  let rest := o.accs.filter (fun x => !left.contains x.lid)
  let s := s.capture keep (o.kind.ckind false) left 0
  s.onDev (fun d => ({ d with ops := if o.kind == .strl && !rest.isEmpty then d.ops ++ [{ o with accs := rest }] else d.ops } : Dev).raiseLanes
    o bads addr [o.opid])

/-- A delivered fault (R181): of a read that holds its lanes, of a weight fill's read, which is its sample's for the lanes of the slice
(R268), or of any other operation. -/
def State.deliver (s : State) (o : Op) (bads : List (Nat × FCode)) (addr : DWord) : State :=
  match (if o.kind = .look then o.words.head?.bind (fun w => s.dev.op? w.toNat) else none), bads with
  | some k, b :: _ =>
    ((s.leaveQueues o.part o.opid).onDev (fun d => d.dropOp o.opid)).deliverOp k
      ((((k.accs.filter (fun x => x.lid / 4 == b.1 / 4)).map (·.lid)).eraseDups).map (fun l => (l, b.2))) addr
  | _, _ => if o.kind = .ret ∨ o.kind = .waitv ∨ o.kind = .look then s.abandon o bads addr else s.deliverOp o bads addr

/-- An operation stands aside while its group parks on an absent page or for room in the spill area (R292, R316, R317): it is kept as a
replay record, to be reissued when the ticket is resumed. -/
def Dev.parkOp (d : Dev) (o : Op) (r : Replay) (lids : List Nat) (addr : DWord) : Dev :=
  let d := (d.dropOp o.opid).modPart o.part (fun p => { p with replays := p.replays ++ [{ r with seq := p.nextCapture }], nextCapture := p.nextCapture + 1 })
  match d.group? o.gid, d.team? o.tid with
  | some g, some t =>
    if g.parked.isSome || g.parking.isSome then d
    else d.modGroup o.gid (fun g => { g with parking := some (faultOf d g t .translation o.pc lids addr) })
  | _, _ => d

/-- A DET add that has found no room is parked with its group, for the lanes whose adds are still to be performed; their group must be
there to park. -/
def State.parkFull (s : State) (opid : Nat) : State := match s.dev.op? opid with
  | none => s
  | some o =>
    let left := (o.accs.filter (fun x => x.got.isNone && x.cell.isNone))
    if !o.kind.isDet || left.isEmpty || (s.dev.group? o.gid).isNone then s
    else
      let r : Replay := { gid := o.gid, op := { o with accs := o.accs.filter (fun x => x.got.isNone) }, ckind := 7, mask := left.map (·.lid),
                          seq := 0, resumeAt := 0, mx := none }
      (s.leaveQueues o.part opid).onDev (fun d => (d.deliverResults o).parkOp o r (left.map (·.lid))
        (BitVec.ofNat 64 ((d.part o.part).desc.getD Desc.none).spill))

/-- The address of a delivered ECC_UNCORRECTABLE: that of the first read of an unreachable peer among those that met it (R410). -/
def State.lostAt (s : State) (o : Op) (bads : List (Nat × FCode)) : DWord :=
  ((bads.filter (fun b => b.2 == .eccUncorrectable)).findSome? (fun b =>
    (o.accs.find? (fun x => x.lid == b.1 && !s.st.placeUp x.place)).map (·.va))).getD 0

/-- What follows an attempt: a delivered fault if some access met one, or the parking of a DET add. -/
def State.afterAttempt (opid : Nat) (r : State × List (Nat × FCode)) : State :=
  match r.2, r.1.dev.op? opid with
  | b :: bs, some o =>
    r.1.deliver o (b :: bs) (r.1.lostAt o (b :: bs))
  | _, _ => r.1.parkFull opid

/-! Reads that hold their lanes: `ret` (R208) and `waitv` (R219). -/

def State.allGot (o : Op) : Bool := o.accs.all (fun x => x.got.isSome)

/-- An operation's unit can go on with it: an access is still to be attempted, or all are performed and it may end. -/
def Op.goesOn (o : Op) : Bool := o.accs.any (fun x => x.got.isNone && x.cell.isNone) || (State.allGot o && !o.tardy)

/-- `ret` with every read returned: a value that is no code address faults ALIGN and changes nothing; else sr.sp, the
depth and the PC of every lane change. -/
def State.finishRet (s : State) (o : Op) : State :=
  let val := fun (x : Acc) => leNat (x.got.getD [])
  let bad := o.accs.filter (fun x => val x % 4 != 0)
  if !bad.isEmpty then s.abandon o (bad.map (fun x => (x.lid, .align))) 0
  else s.onDev (fun d => (d.dropOp o.opid).modGroup o.gid (fun g =>
    { g with lanes := mergeGangs (g.lanes.map (fun l => match o.accs.find? (fun x => x.lid == l.lid) with
        | some x => if l.hold = some (.ret o.opid) then
            { l with sp := l.sp + 8#64, depth := l.depth - 1, pc := BitVec.ofNat 64 (val x), clause := none, hold := none } else l
        | none => l)) }))

/-- `waitv` with every word read: the wait ends if each equals its lane's value, an acquire at partition scope;
otherwise the words are read again after 4,096 cycles at the latest. -/
def State.finishWaitv (s : State) (o : Op) : State :=
  if o.accs.all (fun x => x.got == some x.data) then
    (s.onSt (fun st => st.acquire o.core)).onDev (fun d =>
      let lids := match d.group? o.gid with | some g => g.waiting | none => []
      (((d.deliverResults o).dropOp o.opid).modGroup o.gid (fun g => g.unwait id)).pause o.gid lids 4)
  else s.onDev (fun d =>
    let due := d.cycOf o.part o.core + 4096
    (d.modOp o.opid (fun o => { o with words := o.accs.map (fun x => BitVec.ofNat 32 (leNat (x.got.getD []))),
                                       accs := o.accs.map (fun x => { x with got := none }) })).modGroup o.gid (fun g =>
      { g with wait := some (.waitv o.opid due) }))

/-- An operation whose accesses have all been performed and that ends at once. -/
def State.settleOp (s : State) (opid : Nat) : State :=
  match s.dev.op? opid with
  | some o =>
    if !State.allGot o then s
    else if o.kind = .ret then s.finishRet o
    else if o.kind = .waitv then s.finishWaitv o
    else if o.kind = .look then s.onDev (fun d => (d.dropOp opid).modGroup o.gid (·.dropHold o))
    else s
  | none => s

/-! The waiters of a published cell (R341). -/

/-- One waiter's accesses to the cell performed; a waiter whose generation has gone stale is dropped and counted; one that meets an
uncorrectable error is delivered it (R282). -/
def State.replayWaiter (s : State) (cell opid : Nat) : State :=
  match s.dev.op? opid with
  | none => s
  | some o =>
    if !s.dev.fresh o then s.onDev (fun d => (d.dropOp opid).modPart o.part (fun p => { p with dropped := min 0xFFFFFFFF (p.dropped + 1) }))
    else if o.accs.any (fun x => x.cell == some cell && (s.st.hardAt o.core x.place || !s.st.placeUp x.place)) then
      let bads := (o.accs.filter (fun x => x.cell == some cell)).map (fun x => (x.lid, FCode.eccUncorrectable))
      s.deliver o bads (s.lostAt o bads)
    else
      let s := (o.accs.filter (fun x => x.cell == some cell)).foldl (fun s x =>
        let put := fun (f : Acc → Acc) (d : Dev) => d.modOp opid (fun o => { o with accs := o.accs.map (fun a =>
          if a.lid = x.lid ∧ a.va = x.va ∧ a.data = x.data then f a else a) })
        if s.detFull o x then s.onDev (put (fun a => { a with cell := none }))
        else
          let r := (s.correctAt (o.sites x)).perform o x
          r.1.onDev (put (fun a => { a with got := some r.2, cell := none }))) s
      (s.parkFull opid).settleOp opid

/-- The waiters of a published cell performed in arrival order. -/
def State.drainCell (s : State) (q cell : Nat) : State :=
  let ws := ((s.dev.part q).waiters.filter (fun w => w.2 == cell)).map (·.1)
  let s := s.onDev (fun d => d.modPart q (fun p => { p with waiters := p.waiters.filter (fun w => w.2 != cell),
                                                             replaying := p.replaying.filter (· != cell) }))
  ws.foldl (fun s opid => s.replayWaiter cell opid) s

/-- A write to cells whose waiters are still to be performed comes after them. -/
def State.drainAt (s : State) (pl : Place) (n : Nat) : State :=
  match pl with
  | .pa k _ _ true =>
    (List.range ((k + n - 1) / 16 - k / 16 + 1)).foldl (fun s i =>
      (List.range 4).foldl (fun s q => if (s.dev.part q).replaying.contains (k / 16 + i) then s.drainCell q (k / 16 + i) else s) s) s
  | _ => s

/-! Issuing. -/

/-- Destination registers go PENDING at issue (R57). -/
def Group.setPending (g : Group) (ws : List (Nat × Dst)) (n : Nat) : Group :=
  let pend := fun (rs : List Reg) (i : Nat) => (List.range n).foldl (fun rs j => modAt rs (i + j) (fun r => { r with tag := .pending })) rs
  let g := { g with lanes := g.lanes.map (fun l => match ws.find? (fun w => w.1 == l.lid) with
    | some (_, .v i) => { l with v := pend l.v i }
    | _ => l) }
  match ws with
  | (_, .s i) :: _ => { g with sregs := pend g.sregs i }
  | _ => g

/-- The parts of a long-latency operation that its instruction decides. -/
structure LongSpec where
  kind : OpKind
  size : Nat
  tags : List Tag
  takeFlag : Bool

/-- The lanes that make an access, each with its writers: every lane that passes the guard, or with U = 1 the leader for
all of them (R81, R183). -/
def Env.accessLanes (e : Env) (u : Bool) : List (Lane × List Lane) :=
  if u then (if e.passing.isEmpty then [] else [(e.leader, e.passing)]) else e.passing.map (fun l => (l, [l]))

/-- An operation entered: destinations PENDING, its flag counted, and cells that are not VALUE attempted at once. A DET add, for whose
entries the spill area has been found to have room, is performed at once (R292). -/
def Env.launchOp (e : Env) (sp : LongSpec) (ps : List (Req × Place)) (deadline : Option Nat) (s : State) : State :=
  let id := s.dev.nextOp
  let o : Op :=
    { opid := id, gid := e.g.gid, tid := e.g.tid, part := e.g.part, core := e.g.core, gslot := e.g.gslot, gen := e.g.gen, pc := e.sel.pc, word := e.word,
      mode := e.g.mode, fmv := e.g.fm.getD e.m.fmtsel 0, omv := 0, flag := if sp.takeFlag then e.flag else none,
      kind := sp.kind, size := sp.size, tags := sp.tags,
      accs := ps.map (fun p => { lid := p.1.lane.lid, va := BitVec.ofNat 64 p.1.va, place := p.2, data := p.1.data,
                                 writers := p.1.writers, got := none, cell := none, joined := 0 }),
      started := false, breached := false, deadline := deadline, missed := false, words := [], hdrVa := 0, hdr := [] }
  let s := s.onDev (fun d => (d.modGroup e.g.gid (fun g =>
      (g.addFlag o.flag).setPending (ps.flatMap (fun p => p.1.writers)) sp.tags.length)).addOp o)
  State.afterAttempt id (s.attempt id (!sp.kind.isDet))

/-- An operation that holds its lanes entered, and its reads attempted at once. -/
def State.runHold (s : State) (o : Op) : State :=
  let s := s.onDev (fun d => d.addOp o)
  (State.afterAttempt o.opid (s.attempt o.opid false)).settleOp o.opid

/-- An operation of the issuing gang that holds its lanes or its group. -/
def Env.holdOp (e : Env) (kind : OpKind) (size : Nat) (tags : List Tag) (ps : List (Req × Place)) : Op :=
  { opid := e.s.dev.nextOp, gid := e.g.gid, tid := e.g.tid, part := e.g.part, core := e.g.core, gslot := e.g.gslot, gen := e.g.gen, pc := e.sel.pc, word := e.word,
    mode := e.g.mode, fmv := e.g.fm.getD e.m.fmtsel 0, omv := 0, flag := none, kind := kind, size := size, tags := tags,
    accs := ps.map (fun p => { lid := p.1.lane.lid, va := BitVec.ofNat 64 p.1.va, place := p.2, data := p.1.data,
                               writers := p.1.writers, got := none, cell := none, joined := 0 }),
    started := true, breached := false, deadline := none, missed := false, words := [], hdrVa := 0, hdr := [] }

/-- The 16-byte cells of places read at issue outside the memory pipe. -/
def cellsOf (n : Nat) (ps : List (Req × Place)) : List (Req × Place) :=
  ps.flatMap (fun p => match p.2 with
    | .pa k c sc true => (List.range ((k + n - 1) / 16 - k / 16 + 1)).map (fun i =>
        ({ p.1 with va := (p.1.va / 16 + i) * 16 }, .pa ((k / 16 + i) * 16) c sc true))
    | _ => [])

/-- Reads that an instruction makes at issue meet deferred cells as loads do (R198): they wait in the cells' queues and hold the gang,
whose instruction issues again once they have been performed. -/
def Env.cellGate (e : Env) (cells : List (Req × Place)) (k : Unit → Out) : Out :=
  let o := e.holdOp .load 16 [] cells
  let found := o.accs.filterMap (fun x => (e.s.cellBar o x).map (fun t => (x, t)))
  let bad := found.filterMap (fun f => match f.2 with | .bad c => some (f.1.lid, c) | _ => none)
  if found.isEmpty then k ()
  else match bad with
    | b :: _ => e.raise b.2 ((bad.filter (fun x => x.2 == b.2)).map (·.1)) 0
    | [] =>
      let o := { o with kind := .look, accs := found.map (·.1) }
      .next ((e.stay e.s (fun l => { l with hold := some (.ret o.opid) })).runHold o)

/-- A place whose bytes cannot be had: an unreachable peer's (R410), or in a line with an uncorrectable error (R282). -/
def State.dead (s : State) (core : Nat) (pl : Place) : Bool := !s.st.placeUp pl || s.st.hardAt core pl

/-- Reads of `n` bytes at issue outside the memory pipe: bytes that cannot be had are ECC_UNCORRECTABLE, then cells are met as by
loads. -/
def Env.readGate (e : Env) (n : Nat) (ps : List (Req × Place)) (k : Unit → Out) : Out :=
  let hurt := ps.filter (fun p => e.s.dead e.g.core p.2)
  match hurt with
  | p :: _ => e.raise .eccUncorrectable (hurt.map (·.1.lane.lid)) (if e.s.st.placeUp p.2 then 0 else BitVec.ofNat 64 p.1.va)
  | [] => e.cellGate (cellsOf n ps) k

/-- A lane's read that an instruction makes at issue, as a load's (R269). -/
def Env.readNow (e : Env) (n : Nat) (p : Req × Place) (s : State) : State × List Byte :=
  let o := e.holdOp .load n [] [p]
  match o.accs with
  | x :: _ => (s.correct o.core x.place).perform o x
  | [] => (s, [])

/-- The groups of one pass of 32 lanes, for bank counts (R286): most distinct words named in one bank. -/
def bankCycles (accs : List (Nat × Nat)) (atomic : Bool) : Nat :=
  let ws := accs.flatMap (fun a => (List.range (if a.2 ≤ 4 then 1 else a.2 / 4)).map (fun i => a.1 / 4 + i))
  let distinct := if atomic then ws else ws.eraseDups
  ((List.range 32).map (fun b => (distinct.filter (fun w => w % 32 == b)).length)).foldl Nat.max 1

/-- Places whose accesses have no deadline (R391): host and peer memory, system-coherent and DEF pages. -/
def Place.untimed : Place → Bool
  | .pa k _ sc df => offModule k || sc || df
  | .scr _ => false

/-- The deadline of a load or atomic in lockup mode (R388, R391): the latest of those of its lanes' accesses, which lie in the
scratchpad (own half or the other), on the stack or in translated memory. A second pass counts where active lanes stand in both
halves (R18). -/
def Env.memDeadline (e : Env) (kind : OpKind) (n : Nat) (ps : List (Req × Place)) : Option Nat :=
  if !e.s.dev.lockup e.g.part then none
  else
    let c := (e.s.dev.part e.g.part).cyc
    let scr := fun (other : Bool) => ps.filter (fun p => match p.2 with
      | .scr _ => decide (windowBase + 0x100000 ≤ p.1.va) == other
      | _ => false)
    let far := ps.any (fun p => match p.2 with | .scr _ => false | _ => true)
    let two := if e.g.width == 64 && !bit e.word.toNat 24 && (List.range 2).all (fun h => e.lanes.any (fun l => l.lid / 32 == h)) then 1 else 0
    let banks := fun (qs : List (Req × Place)) (h : Nat) =>
      bankCycles ((qs.filter (fun p => p.1.lane.lid / 32 == h)).map (fun p => (p.1.va, n))) false - 1
    let near := fun (other : Bool) =>
      if (scr other).isEmpty then 0
      else if kind.isAtomic then (if other then 80 else 32) + ps.length - 1 + two
      else (if other then 72 else 24) + banks (scr other) 0 + banks (scr other) 1 + two
    if ps.isEmpty || ps.any (fun p => p.2.untimed) then none
    else some (c + max (if far then (if kind.isAtomic then 240 else 200) else 0) (max (near false) (near true)))

/-- What sets one long-latency memory instruction apart (R139, R184, R194): its address, the data it carries, its operation,
the types it takes, the evenness of its destination, the permission it needs, whether source ranges of engines lock it, the
places it refuses and its stream words. -/
structure MemOp where
  va : Env → Lane → Rd Nat
  data : Env → Lane → Rd (List Byte)
  spec : Env → LongSpec
  ok : Env → Bool
  even : Env → Bool
  need : Need
  srcToo : Bool
  refuse : Env → Req → Place → Bool
  words : Env → Nat

def MemOp.writes (k : MemOp) : Bool := k.need == .write || k.need == .both

/-- Its reads, and the destination of a lane. -/
def longRead (e : Env) (k : MemOp) (l : Lane) : Rd (Nat × List Byte) := ((k.va e l).and (k.data e l) Prod.mk).check (k.ok e) .format
def longDest (e : Env) (u : Bool) (d : Opnd) (k : MemOp) (l : Lane) : Rd Dst := dest e l u d (k.spec e).tags.length (k.even e)

/-- The checks of its reads and destinations. -/
def longChks (e : Env) (u : Bool) (d : Opnd) (k : MemOp) : List (Nat × Chk) :=
  e.readChks u (longRead e k) ++ e.lanes.map (fun l => (l.lid, (longDest e u d k l).chk))

/-- Its accesses: one for each lane that passes the guard, or one for all of them. -/
def longReqs (e : Env) (u : Bool) (d : Opnd) (k : MemOp) : List Req :=
  (e.accessLanes u).map (fun x => { lane := x.1, va := (longRead e k x.1).val.1, data := (longRead e k x.1).val.2,
                                    writers := x.2.map (fun l => (l.lid, (longDest e u d k l).val)) })

/-- DET adds that, the lanes' adds taken in order, need a new accumulator entry in a full bucket of the spill area (R292). -/
def spillStops (e : Env) (k : MemOp) (ps : List (Req × Place)) : List (Req × Place) :=
  if (k.spec e).kind.isDet then
    let o := e.holdOp (k.spec e).kind (k.spec e).size [] ps
    (ps.foldl (fun (acc : State × List (Req × Place)) p =>
      let r := acc.1.detStep o { lid := p.1.lane.lid, va := BitVec.ofNat 64 p.1.va, place := p.2, data := p.1.data, writers := [],
                                 got := none, cell := none, joined := 0 }
      if r.2 then (r.1.1, acc.2) else (acc.1, acc.2 ++ [p])) (e.s, [])).2
  else []

/-- An earlier access of some lane must be performed first (R182, R185). -/
def Env.orderStops (e : Env) (n : Nat) (ps : List (Req × Place)) : Bool :=
  ps.any (fun p => p.1.writers.any (fun w => e.s.dev.laneBlocked e.g.gid w.1 p.2 n) || e.s.dev.laneBlocked e.g.gid p.1.lane.lid p.2 n)

/-- The state after its issue, with the places its accesses lead to. -/
def longNext (e : Env) (u : Bool) (d : Opnd) (k : MemOp) (ps : List (Req × Place)) : State :=
  let sp := k.spec e
  let s := e.touchAll k.writes ps (e.settleReads (longChks e u d k) e.s)
  let s := e.done s (fun l => if e.m.passes l then { l with rctr := l.rctr + BitVec.ofNat 32 (k.words e) } else l)
  if ps.isEmpty then s else e.launchOp sp ps (e.memDeadline sp.kind sp.size ps) s

/-- A long-latency memory instruction (R139, R180, R184, R194): reads and checks its operands, checks its addresses,
and enters the operation. -/
def longIssue (s : State) (u : Bool) (d : Opnd) (k : MemOp) : Out :=
  withGang s (fun e =>
    let sp := k.spec e
    e.gate (longChks e u d k) (fun _ =>
      if sp.takeFlag && e.g.flagFull e.flag then .fault .blocked
      else match e.checkAddrs sp.size sp.size k.need k.srcToo true (longReqs e u d k) (k.refuse e) with
        | .stop o => o
        | .ok ps =>
          let full := spillStops e k ps
          if !full.isEmpty then e.park (full.map (·.1.lane.lid)) (BitVec.ofNat 64 e.desc.spill)
          else if e.orderStops sp.size ps then .fault .blocked
          else .next (longNext e u d k ps)))

/-- One lane's write of a store of some kind (R186, R187, R199, R410). -/
def State.store1 (s : State) (o : Op) (x : Acc) : State :=
  if s.st.placeUp x.place then ((s.correct o.core x.place).perform o x).1 else s.onSt (fun st => { st with drops := st.drops + 1 })

/-- A place in a PRINTING cell. -/
def State.isPrinting (s : State) : Place → Bool
  | .pa k _ _ true => s.st.cellTag (cellOf k) == 2
  | _ => false

/-- The stores of an instruction of some kind in ascending LID (R182); lanes that meet a PRINTING cell are delivered DEFER_BUSY and
captured (R181), and those that write a tile that is still to be read are held (R253). -/
def Env.storeAll (e : Env) (kind : OpKind) (size : Nat) (ps : List (Req × Place)) (s : State) : State :=
  let s := ps.foldl (fun s p => s.drainAt p.2 size) s
  let busy := ps.filter (fun p => s.isPrinting p.2)
  let held := fun (x : Acc) => s.dev.tileHolds e.g.core x.place size
  let o := { e.holdOp kind size [] ps with opid := s.dev.nextOp }
  let s := (o.accs.filter (fun x => !s.isPrinting x.place && !held x)).foldl (fun s x => s.store1 o x) s
  let s := if o.accs.any held then s.onDev (fun d => d.addOp { o with accs := o.accs.filter held }) else s
  let o := { o with opid := s.dev.nextOp }
  if busy.isEmpty then s
  else (s.onDev (fun d => d.addOp { o with accs := o.accs.filter (fun x => s.isPrinting x.place) })).deliver o (busy.map (fun p => (p.1.lane.lid, .deferBusy))) 0

/-- What sets one store apart: its size, which is its alignment, and what a lane reads: its address and its bytes. -/
structure StoreOp where
  size : Env → Nat
  read : Env → Lane → Rd (Nat × List Byte)

def storeReqs (e : Env) (u : Bool) (k : StoreOp) : List Req :=
  (e.accessLanes u).map (fun x => { lane := x.1, va := (k.read e x.1).val.1, data := (k.read e x.1).val.2, writers := [] })

/-- The state after a store's addresses have passed their checks and the gang has gone on. -/
def storeBase (e : Env) (u : Bool) (k : StoreOp) (ps : List (Req × Place)) : State :=
  e.done (e.touchAll true ps (e.settleReads (e.readChks u (k.read e)) e.s)) id

/-- The state after a plain store (R186). -/
def storeNext (e : Env) (u : Bool) (k : StoreOp) (ps : List (Req × Place)) : State :=
  e.storeAll .store (k.size e) ps (storeBase e u k ps)

/-- The state after an `strl` (R187): it waits in an operation of its own until the lanes' earlier accesses are performed, or the tile it
writes has been read (R253). -/
def strlNext (e : Env) (u : Bool) (k : StoreOp) (ps : List (Req × Place)) : State :=
  let s := storeBase e u k ps
  if ps.any (fun p => e.s.dev.laneHas e.g.gid p.1.lane.lid (fun _ => true) || e.s.dev.tileHolds e.g.core p.2 (k.size e)) then
    e.launchOp { kind := .strl, size := k.size e, tags := [], takeFlag := false } ps none s
  else e.storeAll .strl (k.size e) ps s

/-- A store (R186, R187, R198). -/
def storeIssue (s : State) (u : Bool) (k : StoreOp) (next : Env → List (Req × Place) → State) : Out :=
  withGang s (fun e =>
    e.gate (e.readChks u (k.read e)) (fun _ =>
      match e.checkAddrs (k.size e) (k.size e) .write true true (storeReqs e u k) with
      | .stop o => o
      | .ok ps => if e.orderStops (k.size e) ps then .fault .blocked else .next (next e ps)))

end Sys2Proof.Machine
end

