-- ==== Sys2Proof/Machine/Clause.lean ====
section
/-!
DEFINITION. Clause fetch (R51-R53, R96, R97): the event `CLAUSE_HEADER` of the gang that stands at a header.
-/
namespace Sys2Proof.Machine
open Sys2Proof


/-- Whether a word may stand only in a clause's last slot (R52): its OP is that of `br`, `jmp`, `call`, `callr`, `ret` or `exit` (R93), be
the word's other bits well formed or not. -/
def transferWord (w : Word) : Bool := decide (0x6C ≤ fld w.toNat 25 7 ∧ fld w.toNat 25 7 ≤ 0x71)

/-- A clause's words as its header counts them. -/
def headerLen (w : Word) : Nat := fld w.toNat 0 4
def headerNlit (w : Word) : Nat := fld w.toNat 4 3
def headerWait (w : Word) : Nat := fld w.toNat 7 12
def headerSetA (w : Word) : Nat := fld w.toNat 19 4
def headerSetB (w : Word) : Nat := fld w.toNat 23 4

/-- A header that R52 accepts: LEN is not 0 and neither flag field is 12 to 14. -/
def clauseHeaderOk (w : Word) : Bool :=
  headerLen w != 0 && !(decide (12 ≤ headerSetA w ∧ headerSetA w ≤ 14)) && !(decide (12 ≤ headerSetB w ∧ headerSetB w ≤ 14))

/-- What fetching one word gives. -/
inductive Fetch where
  | word (w : Word)
  | fault (c : FCode)
  | absent

/-- A word fetched with execute permission (R52, R179): through the core's L1 copy if it holds one, else at the home. -/
def Agent.fetchWord (a : Agent) (st : Store) (va : Nat) : Fetch :=
  match a.resolve st va .exec with
  | .ok pl =>
    if !st.placeUp pl || st.hardAt a.core pl then .fault .eccUncorrectable
    else match pl with
      | .pa k _ _ _ => .word (BitVec.ofNat 32 (leNat (if pl.inL1 then st.lineGet a.core 0 k 4 else st.homeGetN (st.own a.core pl.direct) k 4)))
      | .scr _ => .fault .permission
  | .fatal => .fault .translation
  | .absent => .absent
  | .perm => .fault .permission

/-- The words of a clause: those fetched, and the first word that cannot be, with its address. -/
def Agent.fetchWords (a : Agent) (st : Store) : Nat → Nat → List Word × Option (Fetch × Nat)
  | _, 0 => ([], none)
  | va, n + 1 => match a.fetchWord st va with
    | .word w => let r := a.fetchWords st ((va + 4) % 2 ^ 64) n; (w :: r.1, r.2)
    | f => ([], some (f, va))

/-- The places of errors that the words of a clause reach. -/
def Agent.fetchSites (a : Agent) (st : Store) (va n : Nat) : List ErrSite :=
  (List.range n).flatMap (fun i => match a.resolve st ((va + 4 * i) % 2 ^ 64) .exec with | .ok pl => errSites a.core pl | _ => [])

/-- A fault at a header (R52): its record keeps the header word for a skip (R331). -/
def State.headerFault (s : State) (g : Group) (t : Team) (pc : DWord) (lids : List Nat) (code : FCode) (addr : DWord) (hword : Option Word) : Out :=
  .next (s.onDev (fun d => d.raiseFault g.part { faultOf d g t code pc lids addr with header := true, hword := hword }))

/-- What a fetch that gave no word ends in. -/
def State.fetchStop (s : State) (g : Group) (t : Team) (pc : DWord) (lids : List Nat) (va : Nat) (hword : Option Word) (f : Fetch) : Out :=
  match f with
  | .absent => .next (s.onDev (fun d => d.modGroup g.gid (fun g =>
      { g with parking := some (faultOf d g t .translation pc lids (BitVec.ofNat 64 va)) })))
  | .fault c => s.headerFault g t pc lids c (BitVec.ofNat 64 va) hword
  | .word _ => .fault .notEnabled

/-- The group with its gang inside the clause: at its first instruction. -/
def Group.enterClause (g : Group) (x : Sel) (c : Clause) : Group :=
  { g with lanes := mergeGangs (g.lanes.map (fun l =>
      if l.live && l.pc == x.pc && l.depth == x.depth && l.clause == x.clause && l.hold.isNone then
        { l with clause := some c, pc := l.pc + 4#64 } else l)) }

/-- `CLAUSE_HEADER` (R52): the selected gang stands at a header. The checks come in R52's order; then every flag that WAIT names
must read zero, or the gang is not ready (R22). -/
def execClauseHeader (s : State) : Out :=
  match s.dev.sel with
  | none => .fault .noGang
  | some x => match s.dev.group? x.gid with
    | none => .fault .noGang
    | some g => match s.dev.team? g.tid with
      | none => .fault .noGang
      | some t =>
        let lanes := g.gang x
        let lids := lanes.map (·.lid)
        if lanes.isEmpty ∨ x.clause.isSome then .fault .noGang
        else if !g.canIssue s.dev then .fault .blocked
        else
          let desc := (s.dev.part g.part).desc.getD Desc.none
          let a := agentOf s.dev desc t g 0
          let pc := x.pc.toNat
          match a.fetchWord s.st pc with
          | .word h =>
            if !clauseHeaderOk h then s.headerFault g t x.pc lids .illegalClause 0 (some h)
            else
              let r := a.fetchWords s.st ((pc + 4) % 2 ^ 64) (headerLen h + headerNlit h)
              (match r.2 with
              | some (f, va) => s.fetchStop g t x.pc lids va (some h) f
              | none =>
                let words := r.1.take (headerLen h)
                if (words.dropLast).any transferWord then s.headerFault g t x.pc lids .illegalClause 0 (some h)
                else if (List.range 12).any (fun i => bit (headerWait h) i && decide (g.flags.getD i 0 ≠ 0)) then .fault .blocked
                else
                  let last := (pc + 4 * r.1.length) % 2 ^ 64
                  let s := if s.st.errs.isEmpty then s else s.onSt (fun st => st.correct (a.fetchSites st pc (r.1.length + 1)))
                  let s := s.onSt (fun st => a.touch (a.touch st pc false) last false)
                  .next (s.onDev (fun d => d.modGroup x.gid (fun g => g.enterClause x { hdr := x.pc, header := h, words := r.1 }))))
          | f => s.fetchStop g t x.pc lids pc none f

end Sys2Proof.Machine
end

