-- ==== Sys2Proof/Machine/Records.lean ====
section
/-!
DEFINITION. Launch records (R223, R224, R227), what a successor may take over (R43), and how a lane reads a record
(R209, R222).
-/
namespace Sys2Proof.Machine
open Sys2Proof

/-- A field of a record. -/
def wordAt (bs : List Byte) (lo : Nat) : Word := BitVec.ofNat 32 (field bs lo 4)
def dwordAt (bs : List Byte) (lo : Nat) : DWord := BitVec.ofNat 64 (field bs lo 8)
def zeroAt (bs : List Byte) (lo n : Nat) : Bool := decide (field bs lo n = 0)

def widthCode (n : Nat) : Nat := if n = 0 then 16 else if n = 1 then 32 else 64

/-- The fields of a launch record (R223); budgets in registers. -/
def LaunchRec.ofBytes (bs : List Byte) : LaunchRec :=
  let flags := field bs 34 2
  let forme := field bs 36 1 = 1
  { entry := dwordAt bs 0, arg := dwordAt bs 8, teams := field bs 16 4, groups := field bs 20 1,
    width := widthCode (field bs 21 1), regs := field bs 22 1 * 8, acc := field bs 23 1, scratch := field bs 24 4,
    stack := field bs 28 4, stagger := field bs 32 2, pair := bit flags 0, quad := bit flags 1, breachTrap := bit flags 2,
    forme := forme, counter := dwordAt bs 40, seed := wordAt bs 52, launchId := wordAt bs 56,
    roles := if forme then (List.range 3).map (fun i =>
      (dwordAt bs (64 + 16 * i), field bs (72 + 16 * i) 1 * 8, field bs (73 + 16 * i) 1)) else [] }

/-- Entry, budget and role of each group, by GIX (R225, R227). -/
def LaunchRec.members (r : LaunchRec) : List (DWord × Nat × Nat) :=
  if r.forme then
    (List.zipWith (fun (x : DWord × Nat × Nat) i => List.replicate x.2.2 (x.1, x.2.1, i)) r.roles [0, 1, 2]).flatten
  else List.replicate r.groups (r.entry, r.regs, 0)

/-- The members that lie on one core of a pair: even or odd GIX (R32). -/
def evenOdd {α : Type} (odd : Bool) (l : List α) : List α :=
  (l.zipIdx.filter (fun x => decide (x.2 % 2 = 1) == odd)).map (·.1)

def frameLen (stack : Nat) : Nat := ceilDiv stack 256 * 256
/-- The reserve of the stack pool for the reserved slots (R285). -/
def stackReserve (d : Dev) : Nat := 0x40000 * (144 / d.nparts)

/-- The checks of R224 that the bytes alone decide. -/
def recordShapeOk (bs : List Byte) : Bool :=
  let r := LaunchRec.ofBytes bs
  let kind := field bs 36 1
  let roleOk := fun (i : Nat) =>
    zeroAt bs (74 + 16 * i) 6 && decide (1 ≤ field bs (73 + 16 * i) 1 ∧ field bs (73 + 16 * i) 1 ≤ 14) &&
    decide (1 ≤ field bs (72 + 16 * i) 1 ∧ field bs (72 + 16 * i) 1 ≤ 24) && decide (field bs (64 + 16 * i) 8 % 4 = 0)
  let regsOf := fun (l : List (DWord × Nat × Nat)) => l.foldl (fun a m => a + r.width * m.2.1) 0
  zeroAt bs 112 16 && zeroAt bs 60 4 && zeroAt bs 48 4 && zeroAt bs 37 3 &&
  decide (kind ≤ 1) && decide (field bs 21 1 ≤ 2) && decide (1 ≤ r.teams) && decide (1 ≤ r.groups ∧ r.groups ≤ 16) &&
  decide (r.acc ≤ 64) && decide (r.scratch % 256 = 0 ∧ r.scratch ≤ 917504) &&
  decide (r.stack % 16 = 0 ∧ r.stack ≤ 1048576) && decide (field bs 34 2 < 8) &&
  (if kind = 0 then decide (1 ≤ field bs 22 1 ∧ field bs 22 1 ≤ 24) && decide (r.entry.toNat % 4 = 0) && zeroAt bs 64 48
   else decide (field bs 22 1 = 0) && decide (r.entry = 0) && (List.range 3).all roleOk &&
     decide (r.groups = (r.roles.map (·.2.2)).foldl (· + ·) 0)) &&
  decide (r.groups * r.width ≤ 1024) && !(r.pair && r.quad) && !(r.quad && (r.groups != 4 || kind == 1)) &&
  (if r.pair then decide (regsOf (evenOdd false r.members) ≤ 196608) && decide (regsOf (evenOdd true r.members) ≤ 196608)
   else if r.quad then true else decide (regsOf r.members ≤ 196608)) &&
  decide (r.counter.toNat % 4 = 0)

/-- Whether a launch record is accepted (R224): `successor` for one named by an `exit`. -/
def recordOk (d : Dev) (st : Store) (q core : Nat) (successor : Bool) (bs : List Byte) : Bool :=
  let r := LaunchRec.ofBytes bs
  let desc := (d.part q).desc.getD Desc.none
  let counterOk :=
    if r.counter = 0 then true
    else !successor && decide (r.counter.toNat < windowBase) &&
      (match Agent.resolve { unitAgent d q with core := core } st r.counter.toNat .write with | .ok _ => true | _ => false)
  recordShapeOk bs && counterOk && decide (r.groups * r.width * frameLen r.stack ≤ desc.stackLen - stackReserve d)

/-- A successor takes over no more than its predecessor held (R43). -/
def successorFits (p r : LaunchRec) : Bool :=
  let half := p.pair && !r.pair
  let held := if half then evenOdd false p.members else p.members
  decide (r.groups ≤ held.length) &&
  (List.zipWith (fun (x y : DWord × Nat × Nat) => decide (r.width * x.2.1 ≤ p.width * y.2.1)) r.members held).all id &&
  decide (r.scratch ≤ if half then p.scratch / 2 else p.scratch) && decide (r.acc ≤ p.acc) &&
  decide (r.stack ≤ p.stack) && (p.pair || !r.pair)

/-! Reading a record. -/

/-- Bytes a lane reads outside the memory pipe: at the home after an acquire, or in the local window (R179, R209, R222). -/
def Store.fetchBytes (st : Store) (core : Nat) (pl : Place) (n : Nat) : List Byte := match pl with
  | .pa k _ _ _ => st.homeGetN (st.own core pl.direct) k n
  | .scr k => st.scr.getN k n

/-- Checks of the reads of `n` bytes by lanes, under R180; an offset the window does not map faults PERMISSION, the last
byte's too. -/
def Env.checkReads (e : Env) (align n : Nat) (rs : List (Lane × Nat)) : Checked :=
  let req := fun (r : Lane × Nat) => ({ lane := r.1, va := r.2, data := [], writers := [] } : Req)
  match e.checkAddrs align n .read false true (rs.map req) with
  | .stop o => .stop o
  | .ok ps =>
    match e.checkAddrs 1 1 .read false true (rs.map (fun r => req (r.1, r.2 + n - 1))) with
    | .stop o => .stop o
    | .ok _ => .ok ps

end Sys2Proof.Machine
end

