-- ==== Sys2Proof/Machine/Teams.lean ====
section
/-!
DEFINITION. Placing and retiring teams, groups and lanes: resources of a core (R27, R31, R283-R285), the start of lanes
and groups (R15, R68, R225), barriers (R33, R217, R218), exits and what they end (R41, R279, R280, R343).
-/
namespace Sys2Proof.Machine
open Sys2Proof

/-! Stack frames (R284, R285). `stackUsed` lists the frames taken, by rising offset in the pool. -/

/-- Up to `n` free frames of a length from `cur` on, below `hi`. -/
def takeFrames : List (Nat × Nat) → Nat → Nat → Nat → Nat → List Nat
  | [], cur, hi, len, n => (List.range (min n ((hi - cur) / len))).map (fun i => cur + i * len)
  | (b, l) :: rest, cur, hi, len, n =>
    let k := min n ((min b hi - cur) / len)
    (List.range k).map (fun i => cur + i * len) ++ takeFrames rest (max cur (b + l)) hi len (n - k)

def insertUsed (x : Nat × Nat) : List (Nat × Nat) → List (Nat × Nat)
  | [] => [x]
  | y :: ys => if x.1 < y.1 then x :: y :: ys else y :: insertUsed x ys

/-- The frames of `n` lanes, as offsets in the pool; `none` if the pool cannot supply them. -/
def Dev.framesFor (d : Dev) (q : Nat) (reserve : Bool) (stack n : Nat) : Option (List Nat) :=
  let p := d.part q
  let len := frameLen stack
  if len = 0 then some (List.replicate n 0)
  else
    let r := stackReserve d
    let fs := if reserve then takeFrames p.stackUsed 0 r len n
      else takeFrames p.stackUsed r (p.desc.getD Desc.none).stackLen len n
    if fs.length = n then some fs else none

def Dev.useFrames (d : Dev) (q stack : Nat) (fs : List Nat) : Dev :=
  let len := frameLen stack
  if len = 0 then d
  else d.modPart q (fun p => { p with stackUsed := fs.foldl (fun u b => insertUsed (b, len) u) p.stackUsed })

/-- The physical address of a frame. -/
def Dev.framePa (d : Dev) (q off : Nat) : Nat := ((d.part q).desc.getD Desc.none).stackPool + off

/-- Frames returned to the pool: those of lanes that have a stack. -/
def Dev.returnFrames (d : Dev) (q stack : Nat) (pas : List Nat) : Dev :=
  let base := ((d.part q).desc.getD Desc.none).stackPool
  if stack = 0 then d else d.modPart q (fun p => { p with stackUsed := p.stackUsed.filter (fun u => !pas.contains (base + u.1)) })

/-- The lines of frames leave a core's L1, as the frames are about to serve other lanes (R284). -/
def Store.leaveFrames (st : Store) (core stack : Nat) (pas : List Nat) : Store :=
  (st.l1Lines core).foldl (fun st line =>
    if pas.any (fun a => decide (a < line * 128 + 128 ∧ line * 128 < a + frameLen stack)) then st.evictLine core line else st) st

/-! Resources of a core (R31). -/

/-- The groups that stand on a core: those of teams not swapped out. -/
def Dev.present (d : Dev) (core : Nat) : List Group :=
  d.groups.filter (fun g => g.core == core && (match d.team? g.tid with | some t => !t.out | none => false))

def Dev.teamsOn (d : Dev) (core : Nat) : List Team := d.teams.filter (fun t => !t.out && t.cores.contains core)
def LaunchRec.scratchPer (r : LaunchRec) : Nat := if r.pair then r.scratch / 2 else r.scratch
/-- The bytes of tile frames of draws on a core (R378). -/
def Dev.framesOn (d : Dev) (core : Nat) : Nat :=
  ((d.parts.flatMap (·.draws)).map (fun x => 65536 * (x.allocs.filter (· == core)).length)).foldl (· + ·) 0
def Dev.scratchOn (d : Dev) (core : Nat) : Nat :=
  ((d.teamsOn core).map (·.shape.scratchPer)).foldl (· + ·) 0 + d.framesOn core
def Dev.accOn (d : Dev) (core : Nat) : Nat := ((d.teamsOn core).map (·.shape.acc)).foldl (· + ·) 0
def Dev.lanesOn (d : Dev) (core : Nat) : Nat := ((d.present core).map (·.width)).foldl (· + ·) 0
def Dev.regsOn (d : Dev) (core : Nat) : Nat := ((d.present core).map (fun g => g.width * g.budget)).foldl (· + ·) 0

/-- What a team asks of one core. -/
structure CoreNeed where
  groups : Nat
  lanes : Nat
  regs : Nat
  scratch : Nat
  acc : Nat

def scratchWays (n : Nat) : Nat := ceilDiv n 131072

/-- The carve-out as the placement would leave it (R283). -/
def Dev.carveFor (d : Dev) (core scratch : Nat) : Nat :=
  if d.scratchOn core = 0 then scratchWays scratch else (d.core core).cw

/-- The conditions of R31 on a core, the group slots apart. -/
def Dev.roomFor (d : Dev) (core : Nat) (n : CoreNeed) : Bool :=
  (d.core core).working && decide (d.lanesOn core + n.lanes ≤ 2048) && decide (d.regsOn core + n.regs ≤ 196608) &&
  decide (d.scratchOn core + n.scratch ≤ 131072 * d.carveFor core n.scratch) && decide (d.carveFor core n.scratch ≤ 7) &&
  decide (d.accOn core + n.acc ≤ 64)

def Dev.usedSlots (d : Dev) (core : Nat) : List Nat := (d.present core).map (·.gslot)
def Dev.plainFree (d : Dev) (core : Nat) : List Nat := (List.range 62).filter (fun i => !(d.usedSlots core).contains i)

/-- A team's part fits on a core (R31). -/
def Dev.coreFits (d : Dev) (core : Nat) (n : CoreNeed) : Bool :=
  d.roomFor core n && decide (n.groups ≤ (d.plainFree core).length)

/-- The group slot a task wave or evaluator takes (R27, R38). -/
def Dev.printSlot (d : Dev) (core : Nat) : Option Nat :=
  match d.plainFree core with
  | i :: _ => some i
  | [] => [62, 63].find? (fun i => !(d.usedSlots core).contains i)

/-- The issue slot with the fewest resident groups, lowest among equals (R27). -/
def Dev.slotFor (d : Dev) (core : Nat) : Nat :=
  let n := fun (i : Nat) => ((d.present core).filter (fun g => g.islot == i)).length
  (List.range 4).foldl (fun best i => if n i < n best then i else best) 0

/-- The core's ways as the placement leaves them; ways that leave the L1 are cleaned and hold no lines (R283). -/
def State.carve (s : State) (core scratch : Nat) : State :=
  let cw := s.dev.carveFor core scratch
  let grow := (s.dev.core core).cw < cw
  let s := s.onDev (fun d => d.modCore core (fun c => { c with cw := cw }))
  if grow then s.onSt (fun st => st.acquire core) else s

/-! Lanes and groups at their start (R37, R68, R225). -/

def e4m3Word : Word := 0x02020E69
def modeReset : Word := 0x6000003F

def newLane (lid budget : Nat) (entry glid sp : DWord) (frame : Nat) (first : List Reg) (exited : Bool) : Lane :=
  { lid := lid, exited := exited, pc := entry, depth := 0, clause := none,
    v := setFrom (List.replicate budget rawReg) 0 (first.take budget), p := 0,
    x := List.replicate 8 { off := 0, limit := 0, base := 0 }, sp := sp, rctr := 0, cych := 0, glid := glid, spin := 0,
    yielded := false, hold := none, frame := frame, ticket := 0, chain := [], published := false, cell := 0, cellVa := 0, frag := none,
    skip := false }

def stackTop (stack : Nat) : DWord := BitVec.ofNat 64 (0xFFFFFF8000000000 + stack)

def n64Regs (x : DWord) : List Reg := regsOf [.n64l, .n64h] x.toNat
def n32Reg (n : Nat) : Reg := { bits := BitVec.ofNat 32 n, tag := .n32 }

def newGroup (gid tid part gix width budget role core gslot islot now : Nat) (sregs : List Reg) (lanes : List Lane) : Group :=
  { gid := gid, tid := tid, part := part, gix := gix, width := width, budget := budget, role := role, core := core,
    gslot := gslot, islot := islot, gen := 1, placed := now, selectable := true, since := none, mode := modeReset,
    sregs := setFrom (List.replicate 32 rawReg) 0 sregs, fm := List.replicate 8 e4m3Word, om := List.replicate 8 0,
    flags := List.replicate 12 0, latch := none, wait := none, waiting := [], parked := none, parking := none, breach := 0,
    prims := 0, primsClosed := false, barLast := List.replicate 16 none, pace := [], lanes := lanes }

def newTeam (tid : Nat) (kind : TeamKind) (part lno tix : Nat) (r : LaunchRec) (cores : List Nat) (nGroups now : Nat) : Team :=
  { tid := tid, kind := kind, part := part, launch := lno, tix := tix, shape := r, cores := cores,
    barriers := List.replicate 16 { ph := 0, arrived := [], marks := [], flip := none, leaving := [], after := [], due := 0 },
    futs := List.replicate 64 { st := .free, gen := 0, kept := none, orphan := false }, pending := [],
    pclass := match kind with | .launch => some 2 | _ => none,
    joint := { issued := [0, 0, 0, 0] }, succ := none, placedAt := now, hidden := [],
    nGroups := nGroups, out := false, candidateSince := none, draw := none, stamp := tid }

/-- The shape of a team that no launch record names: task waves, evaluators and fragment groups (R37, R337, R380). -/
def plainShape (entry arg : DWord) (width regs stack : Nat) : LaunchRec :=
  { entry := entry, arg := arg, teams := 1, groups := 1, width := width, regs := regs, acc := 0, scratch := 0, stack := stack,
    stagger := 0, pair := false, quad := false, breachTrap := false, forme := false, counter := 0, seed := 0, launchId := 0,
    roles := [] }

/-! Waves (R396, R397). -/

def Dev.waveG (d : Dev) (core : Nat) : Nat :=
  let c := (d.cluster (core / 4)).cslope.toNat
  min 64 (max 1 (fld c 0 16 / fld c 16 8))
def Dev.waveSp (d : Dev) (core : Nat) : Nat :=
  let c := (d.cluster (core / 4)).cslope.toNat
  if fld c 16 8 ≤ fld c 0 16 then 32 else min 4096 (ceilDiv (32 * fld c 16 8) (fld c 0 16))

/-! Placing a launch's team (R31, R32, R35, R225, R227). -/

/-- The core of a group among a team's cores. -/
def coreOfGix (r : LaunchRec) (cores : List Nat) (gix : Nat) : Nat :=
  if r.quad then cores.getD gix 0 else if r.pair then cores.getD (gix % 2) 0 else cores.headD 0

/-- What a team asks of the i-th of its cores. -/
def LaunchRec.needOn (r : LaunchRec) (i : Nat) : CoreNeed :=
  let ms := if r.quad then (r.members.drop i).take 1 else if r.pair then evenOdd (i == 1) r.members else r.members
  { groups := ms.length, lanes := r.width * ms.length, regs := ms.foldl (fun a m => a + r.width * m.2.1) 0,
    scratch := r.scratchPer, acc := r.acc }

def Dev.teamFits (d : Dev) (r : LaunchRec) (cores : List Nat) : Bool :=
  cores.zipIdx.all (fun c => d.coreFits c.1 (r.needOn c.2))

/-- The group and lanes of one member of a launch's team. -/
def launchGroup (d : Dev) (tid q tix : Nat) (r : LaunchRec) (cores : List Nat) (frames : List Nat) (gix : Nat)
    (m : DWord × Nat × Nat) : Group :=
  let core := coreOfGix r cores gix
  let total := r.width * r.groups
  let lanes := (List.range r.width).map (fun lid =>
    newLane lid m.2.1 m.1 (BitVec.ofNat 64 (tix * total + gix * r.width + lid)) (stackTop r.stack)
      (d.framePa q (frames.getD (gix * r.width + lid) 0)) (n64Regs r.arg) false)
  newGroup (d.nextGid + gix) tid q gix r.width m.2.1 m.2.2 core ((d.plainFree core).headD 0) (d.slotFor core) (d.cycOf q core)
    (n64Regs r.arg ++ [n32Reg r.teams, n32Reg m.2.2]) lanes

/-- The groups of a launch's team placed one after another in ascending GIX. -/
def Dev.placeGroups (d : Dev) (tid q tix : Nat) (r : LaunchRec) (cores : List Nat) (frames : List Nat) : Dev :=
  let d1 := r.members.zipIdx.foldl (fun (acc : Dev) m =>
    let g := launchGroup { acc with nextGid := d.nextGid } tid q tix r cores frames m.2 m.1
    let late := decide (acc.waveG g.core ≤ m.2)
    acc.addGroup { g with selectable := !late }) d
  { d1 with nextGid := d.nextGid + r.members.length }

/-- A launch's team placed whole on its cores. What was released toward its lanes is visible to them (R222, R299): the cores'
L1s keep no older copy. -/
def State.placeTeam (s : State) (q lno tix : Nat) (r : LaunchRec) (cores : List Nat) (frames : List Nat) : State :=
  let tid := s.dev.nextTid
  let s := cores.zipIdx.foldl (fun s c => (s.carve c.1 (r.needOn c.2).scratch).onSt (fun st => st.acquire c.1)) s
  let t := { newTeam tid .launch q lno tix r cores r.groups (s.dev.cycOf q (cores.headD 0)) with
             hidden := (List.range r.groups).drop (s.dev.waveG (cores.headD 0)) }
  s.onDev (fun d =>
    let d := { d with teams := d.teams ++ [t], nextTid := tid + 1 }
    (d.placeGroups tid q tix r cores frames).useFrames q r.stack frames)

/-! Barriers (R33, R217, R218). -/

def Dev.teamGroups (d : Dev) (tid : Nat) : List Group := d.groups.filter (fun g => g.tid == tid)

/-- The phase of a barrier completes: PH advances, and the waiting groups leave in waves, the first at once. -/
def Dev.flipBarrier (d : Dev) (tid b : Nat) : Dev :=
  match d.team? tid with
  | none => d
  | some t => match t.barriers[b]? with
    | none => d
    | some x =>
      let waits := (d.teamGroups tid).filter (fun g => g.wait == some (.barrier b x.ph))
      let y : Barrier := { ph := (x.ph + 1) % 2 ^ 32, arrived := [], marks := [], flip := none, leaving := x.leaving ++ waits.map (·.gix),
                           after := x.marks ++ (if x.leaving.isEmpty then [] else x.after), due := d.cycOf t.part (t.cores.headD 0) }
      d.modTeam tid (fun t => { t with barriers := t.barriers.set b y })

/-- A barrier whose arrived set holds every participant completes its phase; in lockup mode 8 cycles after the last arrival (row 25 of
R388). -/
def Dev.completeBarrier (d : Dev) (tid b : Nat) : Dev :=
  match d.team? tid with
  | none => d
  | some t => match t.barriers[b]? with
    | none => d
    | some x =>
      let gs := d.teamGroups tid
      if x.arrived.isEmpty ∨ !gs.all (fun g => x.arrived.contains g.gix) then d
      else
        let at_ := d.cycOf t.part (t.cores.headD 0) + 8
        if d.lockup t.part then d.modTeam tid (fun t => { t with barriers := t.barriers.set b { x with flip := some (x.flip.getD at_) } })
        else d.flipBarrier tid b

/-- The phases whose cycle has come complete (row 25 of R388). -/
def Dev.flipDue (d : Dev) : Dev :=
  d.teams.foldl (fun d t => (List.range 16).foldl (fun d b => match t.barriers[b]? with
    | some x => (match x.flip with
      | some c => if c ≤ d.cycOf t.part (t.cores.headD 0) then d.flipBarrier t.tid b else d
      | none => d)
    | none => d) d) d

/-- A group leaves the participant set of every barrier (R33). -/
def Dev.leaveBarriers (d : Dev) (tid gix : Nat) : Dev :=
  let d := d.modTeam tid (fun t => { t with barriers := t.barriers.map (fun b =>
    { b with arrived := b.arrived.filter (· != gix), leaving := b.leaving.filter (· != gix) }) })
  (List.range 16).foldl (fun d b => d.completeBarrier tid b) d

/-! Ends: streams, fragments, evaluators (R279, R280, R343). -/

/-- The draw whose mesh launch a team belongs to; a successor in a fragment group's chain belongs to none (R42, R380). -/
def Dev.meshDraw (d : Dev) (t : Team) : Option Nat :=
  match t.kind with
  | .launch => (match (if t.draw.isSome then none else d.launch? t.part t.launch) with
    | some l => (match l.origin with | .draw i => some i | _ => none)
    | none => none)
  | _ => none

/-- A mesh group's primitive stream closes (R279). -/
def Dev.closeStream (d : Dev) (gid : Nat) : Dev :=
  match d.group? gid with
  | none => d
  | some g => if g.primsClosed then d else match d.team? g.tid with
    | none => d
    | some t =>
      let d := d.modGroup gid (fun g => { g with primsClosed := true })
      match d.meshDraw t with
      | some i => d.modPart t.part (fun p => p.modDraw i (fun x => { x with closedGroups := x.closedGroups ++ [t.tix * t.nGroups + g.gix] }))
      | none => d

/-- The state of a fragment (R280, R383) changes. -/
def Dev.markFrag (d : Dev) (q draw : Nat) (f : Frag) (st : FragState) : Dev :=
  d.modPart q (fun p => p.modDraw draw (fun x => { x with frags := x.frags.map (fun k =>
    if k.key = f.key ∧ k.px = f.px ∧ k.py = f.py then { k with st := st } else k) }))

def SeqKey.lt (a b : SeqKey) : Bool :=
  decide (a.draw < b.draw) || (a.draw == b.draw && (decide (a.mesh < b.mesh) || (a.mesh == b.mesh && decide (a.prim < b.prim))))

def FragState.isFout : FragState → Bool | .fout _ => true | _ => false
def FragState.isResolved : FragState → Bool | .resolved => true | _ => false

/-- `fout` of a fragment is accepted (R383): its tile's pending store has room, or no fragment at its pixel with a smaller
key is unresolved. -/
def Draw.takes (x : Draw) (f : Frag) : Bool :=
  decide ((x.frags.filter (fun k => k.tile == f.tile && k.st.isFout)).length < 4096) ||
  x.frags.all (fun k => !(k.px == f.px && k.py == f.py && !k.st.isResolved && k.key.lt f.key))

/-- A lane has decided its fragment. -/
def Group.decided (g : Group) (lid : Nat) : Group :=
  { g with lanes := g.lanes.map (fun l => if l.lid = lid then { l with frag := l.frag.map (fun f => { f with decided := true }) } else l) }

/-- Blend inputs handed over as far as the pending stores take them, in ascending LID; those left. -/
def Dev.handFouts (d : Dev) (q draw : Nat) (g : Group) : List (Nat × List Word) → Dev × List (Nat × List Word)
  | [] => (d, [])
  | x :: xs =>
    let left := fun (r : Dev × List (Nat × List Word)) => (r.1, x :: r.2)
    match (g.lanes.find? (fun l => l.lid == x.1)).bind (·.frag), (d.part q).draw? draw with
    | some f, some dr =>
      if dr.takes f then ((d.markFrag q draw f (.fout x.2)).modGroup g.gid (fun g => g.decided x.1)).handFouts q draw g xs
      else left (d.handFouts q draw g xs)
    | _, _ => d.handFouts q draw g xs

/-- Gangs held by `prim.fout` of a draw go on as far as the pending stores take their inputs. -/
def Dev.pumpFouts (d : Dev) (q draw : Nat) : Dev :=
  d.groups.foldl (fun d g0 => g0.lanes.foldl (fun d l => match l.hold with
    | some (.fout rest) =>
      if g0.part ≠ q ∨ ((d.team? g0.tid).map (fun t => t.draw == some draw)).getD false = false then d
      else
        let r := d.handFouts q draw g0 rest
        r.1.modGroup g0.gid (fun g =>
          if r.2.isEmpty then g.endHold l.lid id
          else { g with lanes := g.lanes.map (fun k => if k.lid = l.lid then { k with hold := some (.fout r.2) } else k) })
    | _ => d) d) d

/-- A fragment is resolved: killed, run or discarded. -/
def Dev.resolveFrag (d : Dev) (q draw : Nat) (f : Frag) : Dev := (d.markFrag q draw f .resolved).pumpFouts q draw

/-- The cell of an evaluator that ends unpublished becomes POISON, and every waiter receives DEFER_POISON (R343). -/
def State.poisonCell (s : State) (q cell ticket fcode : Nat) : State :=
  let bs := s.st.cellBytes cell
  if s.st.cellTag cell ≠ 2 ∨ field bs 0 4 ≠ ticket then s
  else
    let s := s.onSt (fun st => st.setCell cell 3 (poisonBytes (field bs 8 8) fcode ticket))
    let ws := ((s.dev.part q).waiters.filter (fun w => w.2 == cell)).map (·.1)
    let s := s.onDev (fun d => d.modPart q (fun p => { p with waiters := p.waiters.filter (fun w => w.2 != cell) }))
    ws.foldl (fun s opid => match s.dev.op? opid with
      | some o =>
        let bad := (o.accs.filter (fun x => x.cell == some cell)).map (fun x => (x.lid, FCode.deferPoison))
        if bad.isEmpty then s else s.deliver o bad 0
      | none => s) s

/-- What ends with a lane that exits: an evaluator unpublished, a fragment undecided. -/
def State.endLane (s : State) (g : Group) (t : Team) (fcode : Nat) (l : Lane) : State :=
  let s := if l.ticket ≠ 0 ∧ !l.published then s.poisonCell g.part l.cell l.ticket.toNat fcode else s
  match l.frag with
  | some f => if f.helper || f.decided then s else s.onDev (fun d => d.resolveFrag g.part (t.draw.getD 0) f)
  | none => s

/-- Lanes of a group exit (R41). -/
def State.exitLanes (s : State) (gid : Nat) (lids : List Nat) : State :=
  match s.dev.group? gid with
  | none => s
  | some g => match s.dev.team? g.tid with
    | none => s
    | some t =>
      let out := g.lanes.filter (fun l => l.live && lids.contains l.lid)
      let s := s.onDev (fun d => d.modGroup gid (fun g =>
        { g with lanes := g.lanes.map (fun l => if lids.contains l.lid then { l with exited := true } else l) }))
      let s := out.foldl (fun s l => s.endLane g t 0 l) s
      match s.dev.group? gid with
      | some g => if g.lanes.any (·.live) then s else s.onDev (fun d => d.closeStream gid)
      | none => s

/-- A group retires (R33, R41): its slot, registers and stack frames are free. -/
def State.retireGroup (s : State) (gid : Nat) : State :=
  match s.dev.group? gid with
  | none => s
  | some g =>
    let stack := match s.dev.team? g.tid with | some t => t.shape.stack | none => 0
    (s.onSt (fun st => st.leaveFrames g.core stack (g.lanes.map (·.frame)))).onDev (fun d =>
      let d := { d with groups := d.groups.filter (fun k => k.gid != gid) }
      let d := d.modCore g.core (fun c => { c with starved := c.starved.filter (fun x => x.2 != gid) })
      let d := d.modPart g.part (fun p => { p with progress := 0 })
      (d.returnFrames g.part stack (g.lanes.map (·.frame))).leaveBarriers g.tid g.gix)

/-- A team's scratchpad bytes and accumulator slots are released (R303). -/
def Store.freeTeam (st : Store) (tid : Nat) : Store :=
  { st with scr := st.scr.filter (fun c => decide (c.1 / 2 ^ 22 ≠ tid)),
            acc := st.acc.filter (fun c => decide (c.1 / 2 ^ 20 ≠ tid)) }

end Sys2Proof.Machine
end

