-- ==== Sys2Proof/Machine/Control.lean ====
section
/-!
DEFINITION. Control transfer, exit, regrouping, barriers and `waitv` (R24, R25, R44-R50, R205-R209, R215-R219).
-/
namespace Sys2Proof.Machine
open Sys2Proof

/-! Branches. -/

/-- A lane at the target of a transfer (R54): the next word it reaches there is a clause header. -/
def Lane.goTo (l : Lane) (pc : DWord) : Lane := { l with pc := pc, clause := none, skip := false }

/-- Backward branches counted (R25): each gang that holds a taking lane and is not the group's only gang. -/
def Group.spinUp (g : Group) (spin : Nat) (takers : List Nat) : Group :=
  let hit := g.lanes.filter (fun l => l.live && takers.contains l.lid)
  if hit.isEmpty then g
  else { g with lanes := g.lanes.map (fun l =>
    if hit.any (fun h => sameGang l h) && g.lanes.any (fun k => k.live && !sameGang l k) then
      let n := min 65535 (l.spin + 1)
      { l with spin := n, yielded := l.yielded || decide (2 ^ spin ≤ n) }
    else l) }

/-- The group after a control transfer: `go` gives the lanes that take it; the others fall through. `back` names the takers
whose branch counts as backward (R24). -/
def Env.transfer (e : Env) (s : State) (go : Lane → Option Lane) (back : List Nat) : State :=
  s.onDev (fun d => d.modGroup e.g.gid (fun g =>
    ({ g with since := none, lanes := mergeGangs (g.lanes.map (fun l =>
        if e.lids.contains l.lid then
          match go l.selected with
          | some k => k
          | none => l.selected.step e.cl
        else l)) } : Group).spinUp e.m.spin back))

/-- The target of a B-format instruction (R54). -/
def Env.branchTarget (e : Env) (o : BitVec 16) : DWord := e.cl.hdr + 4#64 * o.signExtend 64

/-- Whether a lane takes a branch (R205): a predicate field of 63 transfers every active lane. -/
def takesBranch (p : BitVec 6) (n : Bool) (l : Lane) : Bool := if p = 63#6 then true else l.pred p.toNat n

/-- The lanes that take a branch, and the checks: the predicate field, and under U that every lane agrees with the leader
(R21). -/
def Env.branchChks (e : Env) (u : Bool) (p : BitVec 6) (n : Bool) : List (Nat × Chk) :=
  let field : Chk := if predOk p.toNat then Chk.ok else { Chk.ok with bad := [.illegalOperand] }
  let lead := takesBranch p n e.leader
  e.lanes.map (fun l => (l.lid,
    if u && e.m.uchk && takesBranch p n l != lead then field.and { Chk.ok with bad := [.uniform] } else field))

def Env.branchTakers (e : Env) (u : Bool) (p : BitVec 6) (n : Bool) : List Lane :=
  if u then (if takesBranch p n e.leader then e.lanes else []) else e.lanes.filter (takesBranch p n)

/-- The state after `br`: the takers stand at the target, the others at the next instruction (R24, R205). -/
def brNext (e : Env) (u : Bool) (p : BitVec 6) (n : Bool) (o : BitVec 16) : State :=
  let ts := (e.branchTakers u p n).map (·.lid)
  let target := e.branchTarget o
  e.transfer e.s (fun l => if takesBranch p n (e.source u l) then some (l.goTo target) else none)
    (if target.toNat ≤ e.cl.hdr.toNat then ts else [])

/-- `br` (R205). -/
def execBr (u : Bool) (p : BitVec 6) (n : Bool) (o : BitVec 16) (s : State) : Out :=
  withGang s (fun e => e.gate (e.branchChks u p n) (fun _ => .next (brNext e u p n o)))

/-- The lanes with the targets that `jmp` and `callr` read (R81, R204). -/
def targets (e : Env) (u : Bool) (a : Opnd) : List (Lane × Nat) := e.lanes.map (fun l => (l, (targetRead a e (e.source u l)).val))

/-- A target with bits [1:0] not zero faults ALIGN (R204). -/
def oddTargets (ts : List (Lane × Nat)) : List Nat := (ts.filter (fun t => t.2 % 4 != 0)).map (·.1.lid)

def targetOf (ts : List (Lane × Nat)) (l : Lane) : Option DWord :=
  match ts.find? (fun t => t.1.lid == l.lid) with
  | some t => some (BitVec.ofNat 64 t.2)
  | none => none

/-- The takers among lanes with targets whose branch is backward (R24). -/
def Env.backward (e : Env) (ts : List (Lane × Nat)) : List Nat :=
  (ts.filter (fun t => decide (t.2 ≤ e.cl.hdr.toNat))).map (·.1.lid)

/-- The state after `jmp` (R206). -/
def jmpNext (e : Env) (u : Bool) (a : Opnd) : State :=
  let ts := targets e u a
  e.transfer (e.settleReads (e.readChks u (targetRead a e)) e.s)
    (fun l => match targetOf ts l with | some t => some (l.goTo t) | none => none) (e.backward ts)

/-- `jmp` (R206). -/
def execJmp (u : Bool) (a : Opnd) (s : State) : Out :=
  withGang s (fun e => e.gate (e.readChks u (targetRead a e)) (fun _ =>
    if !(oddTargets (targets e u a)).isEmpty then e.raise .align (oddTargets (targets e u a)) 0
    else .next (jmpNext e u a)))

/-- The lanes of a call that fault (R207): a depth of 65,535, an odd stack pointer, no room left in the window's stack. -/
def callDeep (ts : List (Lane × Nat)) : List Nat := (ts.filter (fun t => t.1.depth == 65535)).map (·.1.lid)
def callOdd (ts : List (Lane × Nat)) : List Nat := (ts.filter (fun t => t.1.sp.toNat % 8 != 0)).map (·.1.lid)
def stackBase : Nat := windowBase + 0x8000000000
def callLow (e : Env) (ts : List (Lane × Nat)) : List Nat :=
  (ts.filter (fun t => decide (stackBase ≤ t.1.sp.toNat ∧ t.1.sp.toNat ≤ stackBase + e.t.shape.stack) &&
    decide (t.1.sp.toNat < stackBase + 8))).map (·.1.lid)

/-- The stores of a call: the fall-through address below each lane's stack pointer. -/
def callReqs (e : Env) (ts : List (Lane × Nat)) : List Req :=
  ts.map (fun t => { lane := t.1, va := (t.1.sp - 8#64).toNat, data := leBytes 8 e.cl.fallThrough.toNat, writers := [] })

/-- The state after a call: the stores, then sr.sp, the depth and the PC of the lanes (R207). -/
def callNext (e : Env) (cs : List (Nat × Chk)) (ts : List (Lane × Nat)) (counts : Bool) (ps : List (Req × Place)) : State :=
  let s := e.touchAll true ps (e.settleReads cs e.s)
  let s := e.transfer s (fun l => match targetOf ts l with
    | some t => some ({ l with sp := l.sp - 8#64, depth := l.depth + 1 }.goTo t)
    | none => none) (if counts then e.backward ts else [])
  e.storeAll .store 8 ps s

/-- A call of lanes with targets (R207): the checks in its order, then its effect. -/
def Env.callTo (e : Env) (cs : List (Nat × Chk)) (ts : List (Lane × Nat)) (counts : Bool) : Out :=
  if !(callDeep ts).isEmpty then e.raise .stack (callDeep ts) 0
  else if !(callOdd ts).isEmpty then e.raise .align (callOdd ts) 0
  else if !(callLow e ts).isEmpty then e.raise .stack (callLow e ts) 0
  else match e.checkAddrs 8 8 .write true false (callReqs e ts) with
    | .stop o => o
    | .ok ps => if e.orderStops 8 ps then .fault .blocked else .next (callNext e cs ts counts ps)

/-- The lanes that take a `call`, with its target. -/
def callTakers (e : Env) (u : Bool) (p : BitVec 6) (n : Bool) (o : BitVec 16) : List (Lane × Nat) :=
  (e.branchTakers u p n).map (fun l => (l, (e.branchTarget o).toNat))

/-- `call` (R207). -/
def execCall (u : Bool) (p : BitVec 6) (n : Bool) (o : BitVec 16) (s : State) : Out :=
  withGang s (fun e => e.gate (e.branchChks u p n) (fun _ => e.callTo (e.branchChks u p n) (callTakers e u p n o) false))

/-- `callr` (R207). -/
def execCallr (u : Bool) (a : Opnd) (s : State) : Out :=
  withGang s (fun e => e.gate (e.readChks u (targetRead a e)) (fun _ =>
    if !(oddTargets (targets e u a)).isEmpty then e.raise .align (oddTargets (targets e u a)) 0
    else e.callTo (e.readChks u (targetRead a e)) (targets e u a) true))

/-- The reads of `ret`: the stack slot of every lane; and the lanes whose depth is 0. -/
def retReqs (e : Env) : List Req := e.lanes.map (fun l => { lane := l, va := l.sp.toNat, data := [], writers := [] })
def flatLanes (e : Env) : List Nat := (e.lanes.filter (fun l => l.depth == 0)).map (·.lid)

/-- The state after the issue of `ret`: the gang is held until its reads return. -/
def retNext (e : Env) (ps : List (Req × Place)) : State :=
  let o := e.holdOp .ret 8 [] ps
  (e.stay (e.touchAll false ps e.s) (fun l => { l with hold := some (.ret o.opid) })).runHold o

/-- `ret` (R208). -/
def execRet (s : State) : Out :=
  withGang s (fun e =>
    if !(flatLanes e).isEmpty then e.raise .stack (flatLanes e) 0
    else match e.checkAddrs 8 8 .read false true (retReqs e) with
      | .stop o => o
      | .ok ps => if e.orderStops 8 ps then .fault .blocked else .next (retNext e ps))

/-! Exit and successors (R41-R43, R209). -/

/-- Whether retiring these lanes of this group retires the team's last live lane. -/
def Dev.lastExit (d : Dev) (tid gid : Nat) (lids : List Nat) : Bool :=
  (d.teamGroups tid).all (fun g => g.lanes.all (fun l => !l.live || (g.gid == gid && lids.contains l.lid)))

/-- The participating lanes retire, and are of no gang from then on (R20); guarded-off lanes go on. -/
def Env.exitNow (e : Env) (s : State) : State := e.done (s.exitLanes e.g.gid (e.passing.map (·.lid))) id

/-- `exit` (R209). -/
def execExit (_ : Bool) (s : State) : Out := withGang s (fun e => .next (e.exitNow e.s))

/-- The record an `exit` with a successor names. -/
def succVa (e : Env) (u : Bool) (a : Opnd) : Nat := (targetRead a e (e.source u e.leader)).val
def succOdd (e : Env) (u : Bool) (a : Opnd) : List Nat :=
  ((targets e u a).filter (fun t => e.m.passes t.1 && t.2 % 128 != 0)).map (·.1.lid)

/-- This `exit` retires its team's last live lane, and so reads and checks the record (R209). -/
def Env.isLast (e : Env) : Bool := !e.passing.isEmpty && e.s.dev.lastExit e.t.tid e.g.gid (e.passing.map (·.lid))

/-- The state as the record is read, after an acquire; and the record. -/
def succState (e : Env) (u : Bool) (a : Opnd) (ps : List (Req × Place)) : State :=
  e.touchAll false ps ((e.settleReads (e.readChks u (targetRead a e)) e.s).onSt (fun st => st.acquire e.g.core))
def succBytes (s : State) (e : Env) (ps : List (Req × Place)) : List Byte := match ps with
  | p :: _ => s.st.fetchBytes e.g.core p.2 128
  | [] => []

/-- The record is one of a successor: one team, no quad, no forme (R42). -/
def succOk (s : State) (e : Env) (bs : List Byte) : Bool :=
  let r := LaunchRec.ofBytes bs
  recordOk s.dev s.st e.g.part e.g.core true bs && !r.forme && !r.quad && r.teams == 1

/-- The state after the last `exit` of a team with a successor. -/
def succNext (e : Env) (s : State) (bs : List Byte) : State :=
  e.exitNow (s.onDev (fun d => d.modTeam e.t.tid (fun t => { t with succ := some (LaunchRec.ofBytes bs) })))

/-- An earlier access of an exiting lane must be performed before the record is read (R182, R185). -/
def Env.recordStops (e : Env) (ps : List (Req × Place)) : Bool :=
  ps.any (fun p => e.passing.any (fun l => e.s.dev.laneBlocked e.g.gid l.lid p.2 128))

/-- `exit` naming a successor (R209): only the team's last `exit` reads and checks the record. -/
def execExitSuccessor (u : Bool) (a : Opnd) (s : State) : Out :=
  withGang s (fun e =>
    e.gate (e.readChks u (targetRead a e)) (fun _ =>
      let lids := e.passing.map (·.lid)
      if !e.isLast then .next (e.exitNow (e.settleReads (e.readChks u (targetRead a e)) e.s))
      else if !(succOdd e u a).isEmpty then e.raise .align (succOdd e u a) 0
      else if e.t.kind = .task ∨ e.t.kind = .evaluator ∨ e.t.shape.quad then e.raise .launchRecord lids 0
      else match e.checkReads 128 128 [(e.leader, succVa e u a)] with
        | .stop o => o
        | .ok ps =>
          if e.recordStops ps then .fault .blocked
          else e.readGate 128 ps (fun _ =>
            let s := succState e u a ps
            let bs := succBytes s e ps
            if !succOk s e bs then e.raise .launchRecord lids 0
            else if !successorFits e.t.shape (LaunchRec.ofBytes bs) then e.raise .successorFit lids (BitVec.ofNat 64 (succVa e u a))
            else .next (succNext e s bs))))

/-! Regrouping (R44-R50, R215). -/

/-- The convergence rule of R45 and R216: BARRIER where a live lane has a greater PC, a wait where one has a smaller PC or
another depth. With lanes of both kinds R45's two clauses both hold: DESIGN CHOICE, log entry 44, BARRIER at once. -/
inductive Converged where
  | yes | wait | ahead
  deriving DecidableEq, Repr

def Env.converged (e : Env) : Converged :=
  let others := e.g.lanes.filter (fun l => l.live && !e.lids.contains l.lid)
  if others.any (fun l => decide (e.sel.pc.toNat < l.pc.toNat)) then .ahead
  else if others.isEmpty then .yes
  else .wait

/-- The peer a regroup half names, if R44 and R215 let it, as the half issues: a half that already waits goes on waiting when its peer
retires or issues a half that names another group (DESIGN CHOICE, log entry 49). -/
def Env.regroupPeer (e : Env) (give : Bool) (v : Word) : Option Group :=
  let n := v.toNat
  let used := n % 16 + n / 256 % 32 * 256
  let count := n / 256 % 32 * 8
  if e.t.kind ≠ .launch ∨ n ≠ used ∨ e.t.nGroups ≤ n % 16 ∨ n % 16 = e.g.gix then none
  else match (e.s.dev.teamGroups e.t.tid).find? (fun g => g.gix == n % 16) with
    | none => none
    | some p =>
      let clash : Bool := match p.wait with
        | some (.regroup k peer _ _ _) => k == give || peer != e.g.gix
        | _ => false
      if p.core ≠ e.g.core ∨ clash ∨ (!give && (count = 0 ∨ 192 < count ∨ e.g.budget < count ∨ p.budget < count)) then none
      else some p

/-- The value a regroup half names, and the state in which its group waits for the other half. -/
def regrpRead (p : BitVec 6) (a : Opnd) (e : Env) (l : Lane) : Rd Reg := (readMove e l a).check (predOk p.toNat) .illegalOperand
def regrpVal (e : Env) (p : BitVec 6) (a : Opnd) : Word := (regrpRead p a e e.leader).val.bits
def regrpNext (e : Env) (give : Bool) (p : BitVec 6) (a : Opnd) (peer : Group) : State :=
  e.waitFor (e.settleReads (e.readChks true (regrpRead p a e)) e.s)
    (.regroup give peer.gix ((regrpVal e p a).toNat / 256 % 32 * 8) p.toNat (e.passing.map (·.lid)))

/-- A regroup half (R44, R45, R215): it acts, or faults, only when its group is converged. `REGROUP_MOVE` joins two halves. -/
def regroupIssue (give : Bool) (p : BitVec 6) (a : Opnd) (s : State) : Out :=
  withGang s (fun e =>
    e.gate (e.readChks true (regrpRead p a e)) (fun _ =>
      match e.converged with
      | .ahead => e.raise .barrier e.lids 0
      | .wait => .fault .blocked
      | .yes => match e.regroupPeer give (regrpVal e p a) with
        | none => e.raise .barrier e.lids 0
        | some peer => .next (regrpNext e give p a peer)))

/-- `regrp.give` (R215). -/
def execRegrpGive (_ : Bool) (p : BitVec 6) (a : Opnd) (s : State) : Out := regroupIssue true p a s
/-- `regrp.take` (R215). -/
def execRegrpTake (_ : Bool) (p : BitVec 6) (a : Opnd) (s : State) : Out := regroupIssue false p a s

/-- A donor lane in the place of a receiver's exited lane (R47, R48, R49): the stack frames change places. -/
def movedLane (n budget pd : Nat) (ok : Bool) (t d : Lane) : Lane :=
  let k := { d with lid := t.lid, v := (d.v.take n) ++ List.replicate (budget - n) rawReg, exited := false, hold := none }
  let k := match d.clause with | some c => k.step c | none => k
  if ok then k.setP pd true else k

/-- The lanes of the receiver after a move: the j-th exited lane takes the j-th donor lane. -/
def placeMoved (f : Lane → Lane → Lane) : List Lane → List Lane → List Lane
  | [], _ => []
  | t :: ts, [] => t :: ts
  | t :: ts, d :: ds => if t.exited then f t d :: placeMoved f ts ds else t :: placeMoved f ts (d :: ds)

/-- The state after a move that does not fit (R46): both halves go on with 0 in their predicates. -/
def regroupFail (s : State) (donor receiver : Nat) (pd : Nat) (okG : List Nat) (td : Nat) (okR : List Nat) : State :=
  s.onDev (fun d =>
    (d.modGroup donor (fun g => g.unwait (fun l => if okG.contains l.lid then l.setP pd false else l))).modGroup receiver
      (fun r => r.unwait (fun l => if okR.contains l.lid then l.setP td false else l)))

/-- The state after a move: the receiver's exited lanes hold the donor's, and the donor retires. -/
def regroupMoved (s : State) (donor receiver : Nat) (from_ free : List Lane) (n pd : Nat) (okG : List Nat) (td : Nat) (okR : List Nat) :
    State :=
  let frames := free.map (·.frame)
  let moved := from_.map (fun l => (l, okG.contains l.lid))
  let s := s.onDev (fun d =>
    let d := d.modGroup receiver (fun r =>
      let r := r.unwait (fun l => if okR.contains l.lid then l.setP td true else l)
      { r with latch := none, lanes := mergeGangs (placeMoved (fun t k =>
          movedLane n r.budget pd (match moved.find? (fun m => m.1.lid == k.lid) with | some m => m.2 | none => false) t k)
          r.lanes from_) })
    let gone := List.zipWith (fun (l : Lane) f => { l with exited := true, frame := f }) from_ frames
    (d.closeStream donor).modGroup donor (fun g => { g with lanes := g.lanes.filter (fun l => !l.live) ++ gone }))
  s.retireGroup donor

/-- `REGROUP_MOVE` (R46-R49): both halves have joined and nothing is aimed at the donor's registers. -/
def execRegroupMove (donor receiver : Nat) (s : State) : Out :=
  match s.dev.group? donor, s.dev.group? receiver with
  | some g, some r => match g.wait, r.wait with
    | some (.regroup true p1 _ pd okG), some (.regroup false p2 n td okR) =>
      let pending := fun (x : Reg) => x.tag == Tag.pending
      if !s.dev.working g.part ∨ g.tid ≠ r.tid ∨ p1 ≠ r.gix ∨ p2 ≠ g.gix ∨ g.flags.any (· != 0) ∨ g.sregs.any pending ∨
          g.lanes.any (fun l => l.v.any pending) then .fault .notEnabled
      else
        let from_ := g.lanes.filter (·.live)
        let free := r.lanes.filter (·.exited)
        if free.length < from_.length then .next (regroupFail s donor receiver pd okG td okR)
        else .next (regroupMoved s donor receiver from_ free n pd okG td okR)
    | _, _ => .fault .notEnabled
  | _, _ => .fault .notEnabled

/-! Barriers (R216-R218). -/

/-- The group's arrival (R217). -/
def Env.arrive (e : Env) (s : State) (b : Nat) : State :=
  s.onDev (fun d =>
    let ph := match e.t.barriers[b]? with | some x => x.ph | none => 0
    let d := d.modGroup e.g.gid (fun g => { g with barLast := g.barLast.set b (some ph) })
    let join := fun (x : Barrier) => { x with arrived := x.arrived ++ [e.g.gix], marks := x.marks ++ [(e.g.gid, d.nextOp)] }
    (d.modTeam e.t.tid (fun t => { t with barriers := modAt t.barriers b join })).completeBarrier e.t.tid b)

/-- What a barrier instruction does, its group converged and its barrier's phase at hand (R217). -/
inductive BarStep where
  | bad
  | meet (ph : Nat)
  | post
  | pass
  | sleep (ph : Nat)
  deriving DecidableEq, Repr

/-- A second arrival and an `await` without a `post` are BARRIER; an `await` whose phase is over goes on. -/
def barStep (e : Env) (post await : Bool) (k : Nat) : BarStep := match e.t.barriers[k]? with
  | none => .bad
  | some x =>
    if post && x.arrived.contains e.g.gix then .bad
    else if post && await then .meet x.ph
    else if post then .post
    else match e.g.barLast.getD k none with
      | none => .bad
      | some ph => if ph ≠ x.ph then .pass else .sleep x.ph

/-- The cores of a paired team ordered at cluster scope by its barriers (R294, R299): what each wrote is performed and neither keeps an
older copy. -/
def Store.pairOrder (st : Store) (t : Team) : Store := if t.shape.pair then t.cores.foldl (fun st c => st.acquire c) st else st

/-- The state after a barrier instruction that is no fault; an `await` that goes on at once orders a paired team's cores as a release
from the wait does. -/
def barNext (e : Env) (k : Nat) : BarStep → State
  | .meet ph => e.arrive (e.waitFor e.s (.barrier k ph)) k
  | .post => e.arrive (e.done e.s id) k
  | .pass => (e.done e.s id).onSt (fun st => st.pairOrder e.t)
  | .sleep ph => e.waitFor e.s (.barrier k ph)
  | .bad => e.s

def barChks (e : Env) (b : BitVec 8) : List (Nat × Chk) :=
  e.lanes.map (fun l => (l.lid, if b.toNat < 16 then Chk.ok else { Chk.ok with bad := [.illegalOperand] }))

/-- A barrier instruction (R216, R217): `post` and `await` tell its halves. The guard does not apply. A `bar.meet` whose arrival had
counted when it was saved is issued again as the `bar.await` (R247). -/
def barIssue (post await : Bool) (b : BitVec 8) (s : State) : Out :=
  withGang s (fun e =>
    e.gate (barChks e b) (fun _ =>
      if e.t.kind = .task ∨ e.t.kind = .evaluator then e.raise .barrier e.lids 0
      else match e.converged with
        | .ahead => e.raise .barrier e.lids 0
        | .wait => .fault .blocked
        | .yes => match barStep e (post && !e.leader.skip) await b.toNat with
          | .bad => e.raise .barrier e.lids 0
          | x => .next (barNext e b.toNat x)))

/-- `bar.meet` (R217). -/
def execBarMeet (_ : Bool) (d : BitVec 8) (s : State) : Out := barIssue true true d s
/-- `bar.post` (R217). -/
def execBarPost (_ : Bool) (d : BitVec 8) (s : State) : Out := barIssue true false d s
/-- `bar.await` (R217). -/
def execBarAwait (_ : Bool) (d : BitVec 8) (s : State) : Out := barIssue false true d s

/-- The WAVEG groups, in ascending GIX, that leave a barrier next (R218). -/
def nextWave (n : Nat) (gixs : List Nat) : List Nat := ((List.range 16).filter (fun i => gixs.contains i)).take n

/-- The state after a wave has left. -/
def leaveNext (s : State) (t : Team) (b : Nat) (x : Barrier) : State :=
  let core := t.cores.headD 0
  let cyc := s.dev.cycOf t.part core
  let go := nextWave (s.dev.waveG core) x.leaving
  (s.onSt (fun st => st.pairOrder t)).onDev (fun d =>
    let left := fun (x : Barrier) => { x with leaving := x.leaving.filter (fun i => !go.contains i), due := cyc + d.waveSp core }
    let d := d.modTeam t.tid (fun t => { t with barriers := modAt t.barriers b left })
    { d with groups := d.groups.map (fun g =>
        let at_ : Bool := match g.wait with | some (.barrier k _) => k == b | _ => false
        if g.tid = t.tid ∧ go.contains g.gix ∧ at_ then g.unwait id else g) })

/-- `BARRIER_WAVE_RELEASE` (R218): the next wave of a completed phase leaves, once what the arrived groups issued before
has been performed. A paired team's cores are ordered at cluster scope (R294). -/
def execBarrierWaveRelease (tid b : Nat) (s : State) : Out :=
  match s.dev.team? tid with
  | none => .fault .notEnabled
  | some t => match t.barriers[b]? with
    | none => .fault .notEnabled
    | some x =>
      let core := t.cores.headD 0
      let cyc := s.dev.cycOf t.part core
      if x.leaving.isEmpty ∨ cyc < x.due ∨ s.dev.ops.any (fun o => x.after.any (fun m => m.1 == o.gid && decide (o.opid < m.2))) ∨ t.out ∨ !s.dev.working t.part then
        .fault .notEnabled
      else .next (leaveNext s t b x)

/-! Waiting on a value (R219). -/

/-- The address and value of a lane's `waitv`, its checks and its reads. -/
def waitvRead (a b : Opnd) (e : Env) (l : Lane) : Rd (Nat × Word) := (readAddr e l a).and (read32 e l b) (fun x y => (x, y.1))
def waitvChks (e : Env) (u : Bool) (d a b : Opnd) : List (Nat × Chk) :=
  e.readChks u (waitvRead a b e) ++ e.lanes.map (fun l => (l.lid, (dest e l u d 1 false).chk))
def waitvReqs (e : Env) (u : Bool) (d a b : Opnd) : List Req :=
  (e.accessLanes u).map (fun x => { lane := x.1, va := (waitvRead a b e x.1).val.1, data := leBytes 4 (waitvRead a b e x.1).val.2.toNat,
                                    writers := x.2.map (fun l => (l.lid, (dest e l u d 1 false).val)) })

/-- The state after the issue of `waitv`: the group waits and its words are read. -/
def waitvNext (e : Env) (u : Bool) (d a b : Opnd) (ps : List (Req × Place)) : State :=
  let s := e.touchAll false ps (e.settleReads (waitvChks e u d a b) e.s)
  if ps.isEmpty then e.done s id
  else
    let o := { e.holdOp .waitv 4 [.n32] ps with opid := s.dev.nextOp }
    (e.waitFor s (.waitv o.opid (e.s.dev.cycOf e.g.part e.g.core + 4096))).runHold o

/-- `waitv` (R219). -/
def execWaitv (u : Bool) (d a b : Opnd) (s : State) : Out :=
  withGang s (fun e =>
    e.gate (waitvChks e u d a b) (fun _ =>
      match e.checkAddrs 4 4 .read false true (waitvReqs e u d a b) with
      | .stop o => o
      | .ok ps => if e.orderStops 4 ps then .fault .blocked else .next (waitvNext e u d a b ps)))

/-- A word of the wait differs from what was read last. -/
def State.waitChanged (s : State) (o : Op) : Bool :=
  (List.zipWith (fun (x : Acc) (w : Word) => decide (leNat (s.st.fetchBytes o.core x.place 4) ≠ w.toNat)) o.accs o.words).any id

/-- `WAITV_RECHECK` (R219): the words are read again after a write to them, and every 4,096 cycles. -/
def execWaitvRecheck (gid : Nat) (s : State) : Out :=
  match s.dev.group? gid with
  | some g => match g.wait with
    | some (.waitv opid due) => match s.dev.op? opid with
      | some o =>
        if !s.dev.working g.part ∨ ((s.dev.team? g.tid).map (·.out)).getD true ∨ !(decide (due ≤ s.dev.cycOf g.part g.core) || s.waitChanged o) ∨
            o.accs.any (fun x => x.cell.isSome) then .fault .notEnabled
        else .next ((State.afterAttempt opid (s.attempt opid false)).settleOp opid)
      | none => .fault .notEnabled
    | _ => .fault .notEnabled
  | none => .fault .notEnabled

end Sys2Proof.Machine
end

