-- ==== Sys2Proof/Machine/Memory.lean ====
section
/-!
DEFINITION. The memory instructions: loads, stores, fences, cache maintenance, prefetch, atomics and deferred cells
(R184-R201).
-/
namespace Sys2Proof.Machine
open Sys2Proof

/-- The effective address (R60, R177). -/
def effective (unit : Env → Nat) (a : Opnd) (o : BitVec 8) (e : Env) (l : Lane) : Rd Nat :=
  (readAddr e l a).map (fun n => (n + o.toNat * unit e) % 2 ^ 64)

def noData (_ : Env) (_ : Lane) : Rd (List Byte) := Rd.pure []
def noRefuse (_ : Env) (_ : Req) (_ : Place) : Bool := false
def noWords (_ : Env) : Nat := 0

/-! Loads (R184, R185). -/

/-- The tags of a load of `n` bytes under ETYPE (R184). -/
def loadTags (e : Env) (n : Nat) : List Tag :=
  let ts := e.m.etype.tags e.m.fmtsel
  if n ≤ 4 then ts.take 1
  else (List.replicate (n / 4 / ts.length) ts).flatten

/-- The ETYPEs a load accepts (R184). -/
def loadOk (n : Nat) (t : EType) : Bool := match n with
  | 1 => isInt32 t
  | 2 => isInt32 t || t == .f16p || t == .bf16p || t == .i16p || t == .n16p
  | 4 => !t.wide
  | _ => true

/-- A load of n bytes (R184). -/
def loadOp (n : Nat) (a : Opnd) (o : BitVec 8) : MemOp :=
  { va := effective (fun _ => n) a o, data := noData, spec := fun e => { kind := .load, size := n, tags := loadTags e n, takeFlag := true },
    ok := fun e => loadOk n e.m.etype, even := fun _ => decide (8 ≤ n), need := .read, srcToo := false, refuse := noRefuse,
    words := noWords }

def loadOf (n : Nat) (u : Bool) (d a : Opnd) (o : BitVec 8) (s : State) : Out := longIssue s u d (loadOp n a o)

/-- `ld8` (R184). -/
def execLd8 (u : Bool) (d a : Opnd) (o : BitVec 8) (s : State) : Out := loadOf 1 u d a o s
/-- `ld16` (R184). -/
def execLd16 (u : Bool) (d a : Opnd) (o : BitVec 8) (s : State) : Out := loadOf 2 u d a o s
/-- `ld32` (R184). -/
def execLd32 (u : Bool) (d a : Opnd) (o : BitVec 8) (s : State) : Out := loadOf 4 u d a o s
/-- `ld64` (R184). -/
def execLd64 (u : Bool) (d a : Opnd) (o : BitVec 8) (s : State) : Out := loadOf 8 u d a o s
/-- `ld128` (R184). -/
def execLd128 (u : Bool) (d a : Opnd) (o : BitVec 8) (s : State) : Out := loadOf 16 u d a o s

/-- The size of `lda`, `strl` and the atomics (R185, R187, R194). -/
def typeSize (e : Env) : Nat := if e.m.etype.wide then 8 else 4

/-- A result that is a pair under a 64-bit ETYPE starts at an even register. -/
def evenType (e : Env) : Bool := e.m.etype.wide

/-- `lda` (R185). -/
def ldaOp (a : Opnd) (o : BitVec 8) : MemOp :=
  { va := effective typeSize a o, data := noData,
    spec := fun e => { kind := .lda, size := typeSize e, tags := e.m.etype.tags e.m.fmtsel, takeFlag := true },
    ok := fun _ => true, even := evenType, need := .read, srcToo := false, refuse := noRefuse, words := noWords }
/-- `lda` (R185). -/
def execLda (u : Bool) (d a : Opnd) (o : BitVec 8) (s : State) : Out := longIssue s u d (ldaOp a o)

/-! Stores (R186, R187). -/

/-- The data of a store of up to 4 bytes: one register, tag-free; a literal or constant as R146 gives. -/
def storeWord (d : Opnd) (n : Nat) (e : Env) (l : Lane) : Rd (List Byte) :=
  (readMoveChk e l d).map (fun r => leBytes n r.bits.toNat)

/-- The data of a run: registers or literals. -/
def dataRun (d : Opnd) (regs : Nat) (even : Bool) (e : Env) (l : Lane) : Rd (List Byte) :=
  let okOp := match d with | .const _ | .special _ => false | _ => true
  ((readRun e l .free d regs even).map (fun rs => bytesOf (rs.map (·.bits)))).check okOp .illegalOperand

/-- The data of a store of a run, which begins at an even register (R186, R199). -/
def storeRun (d : Opnd) (regs : Nat) (e : Env) (l : Lane) : Rd (List Byte) := dataRun d regs true e l

/-- A store of n bytes (R186). -/
def storeOp (n : Nat) (data : Env → Lane → Rd (List Byte)) (a : Opnd) (o : BitVec 8) : StoreOp :=
  { size := fun _ => n, read := fun e l => (effective (fun _ => n) a o e l).and (data e l) Prod.mk }

def storeOf (n : Nat) (data : Env → Lane → Rd (List Byte)) (u : Bool) (a : Opnd) (o : BitVec 8) (s : State) : Out :=
  storeIssue s u (storeOp n data a o) (fun e ps => storeNext e u (storeOp n data a o) ps)

/-- `st8` (R186). -/
def execSt8 (u : Bool) (d a : Opnd) (o : BitVec 8) (s : State) : Out := storeOf 1 (storeWord d 1) u a o s
/-- `st16` (R186). -/
def execSt16 (u : Bool) (d a : Opnd) (o : BitVec 8) (s : State) : Out := storeOf 2 (storeWord d 2) u a o s
/-- `st32` (R186). -/
def execSt32 (u : Bool) (d a : Opnd) (o : BitVec 8) (s : State) : Out := storeOf 4 (storeWord d 4) u a o s
/-- `st64` (R186). -/
def execSt64 (u : Bool) (d a : Opnd) (o : BitVec 8) (s : State) : Out := storeOf 8 (storeRun d 2) u a o s
/-- `st128` (R186). -/
def execSt128 (u : Bool) (d a : Opnd) (o : BitVec 8) (s : State) : Out := storeOf 16 (storeRun d 4) u a o s

/-- The data of `strl` (R187): a pair under a 64-bit ETYPE, one word otherwise. -/
def strlData (d : Opnd) (e : Env) (l : Lane) : Rd (List Byte) :=
  if e.m.etype.wide then
    match d with
    | .const c => (constBits e.fmSel e.m.etype c).map (leBytes 8)
    | .special x => Rd.pure (leBytes 8 (if x == .glid then l.glid.toNat else (specialWord e l x).toNat))
    | _ => (readRun e l .free d 2 true).map (fun rs => bytesOf (rs.map (·.bits)))
  else storeWord d 4 e l

/-- `strl` (R187). -/
def strlOp (d a : Opnd) (o : BitVec 8) : StoreOp :=
  { size := typeSize, read := fun e l => (effective typeSize a o e l).and (strlData d e l) Prod.mk }
/-- `strl` (R187). -/
def execStrl (u : Bool) (d a : Opnd) (o : BitVec 8) (s : State) : Out :=
  storeIssue s u (strlOp d a o) (fun e ps => strlNext e u (strlOp d a o) ps)

/-! Atomics (R194-R197). -/

def atomTypes (code : Nat) (t : EType) : Bool :=
  if code ≤ 2 then notNar t else if code ≤ 5 then isScalarInt t else true

/-- DET acts on this `aadd` (R135, R197). -/
def detOn (code : Nat) (e : Env) : Bool := code = 0 && e.m.det && isFloat e.m.etype

/-- Stream words of an atomic that rounds (R125, R194). -/
def atomWords (code : Nat) (e : Env) : Nat := match e.m.etype.elems with
  | .flt _ _ n => if code ≤ 2 ∧ e.rsto ∧ !detOn code e then n else 0
  | _ => 0

/-- The operand of an atomic as data, then its stream words. -/
def atomData (code : Nat) (b : Opnd) (e : Env) (l : Lane) : Rd (List Byte) :=
  let n := typeSize e
  let ws := (List.range (atomWords code e)).flatMap (fun i => leBytes 4 (e.stream l i))
  (readElem e l b).map (fun x => leBytes n x ++ ws)

/-- The run of `acas`: compare value and new value, each of ETYPE (R195). -/
def casData (b : Opnd) (e : Env) (l : Lane) : Rd (List Byte) :=
  let n := typeSize e
  let okOp := match b with | .const _ | .special _ => false | _ => true
  let k := if e.m.etype.wide then 2 else 1
  ((locate e l b (2 * k) e.m.etype.wide).next (fun loc => match loc with
    | .lit j => Rd.pure ((List.range (2 * k)).flatMap (fun i => leBytes 4 (e.lit (j + i)).toNat))
    | .const _ | .special _ | .none => Rd.pure []
    | loc => (Rd.seq ((List.range 2).map (fun i =>
        (Rd.seq ((List.range k).map (fun j => regAt e l .resolve loc (i * k + j)))).next
          (typedRegs e [e.m.etype.tags e.m.fmtsel])))).map (fun xs => xs.flatMap (leBytes n)))).check okOp .illegalOperand

/-- What the place of an atomic refuses (R196, R197): host memory takes only FetchAdd, Swap and CAS; a DET add neither
host memory nor the local window, stack included. -/
def atomRefuse (code : Nat) (e : Env) (r : Req) (pl : Place) : Bool :=
  let det := detOn code e
  (det && inWindow r.va) || (match pl with
  | .scr _ => false
  | .pa k _ _ _ => isHost k && (det || !((code = 0 && isScalarInt e.m.etype) || code = 6 || code = 7)))

/-- A DET `aadd` is of a type that has exact accumulators (R135, R197). -/
def detOk (code : Nat) (e : Env) : Bool := !(code = 0 && e.m.det && (e.m.etype == .f64 || e.m.etype == .nar))

/-- An atomic (R194, R195). -/
def atomOp (code : Nat) (a b : Opnd) : MemOp :=
  { va := fun e l => readAddr e l a, data := if code = 7 then casData b else atomData code b,
    spec := fun e => { kind := .atomic code (detOn code e), size := typeSize e, tags := e.m.etype.tags e.m.fmtsel, takeFlag := true },
    ok := fun e => atomTypes code e.m.etype && detOk code e, even := evenType, need := .both, srcToo := true,
    refuse := atomRefuse code, words := atomWords code }

def atomIssue (code : Nat) (u : Bool) (d a b : Opnd) (s : State) : Out := longIssue s u d (atomOp code a b)

/-- `aadd` (R135-R137, R194, R197). -/
def execAadd (u : Bool) (d a b : Opnd) (s : State) : Out := atomIssue 0 u d a b s
/-- `amin` (R194). -/
def execAmin (u : Bool) (d a b : Opnd) (s : State) : Out := atomIssue 1 u d a b s
/-- `amax` (R194). -/
def execAmax (u : Bool) (d a b : Opnd) (s : State) : Out := atomIssue 2 u d a b s
/-- `aand` (R194). -/
def execAand (u : Bool) (d a b : Opnd) (s : State) : Out := atomIssue 3 u d a b s
/-- `aor` (R194). -/
def execAor (u : Bool) (d a b : Opnd) (s : State) : Out := atomIssue 4 u d a b s
/-- `axor` (R194). -/
def execAxor (u : Bool) (d a b : Opnd) (s : State) : Out := atomIssue 5 u d a b s
/-- `axchg` (R194). -/
def execAxchg (u : Bool) (d a b : Opnd) (s : State) : Out := atomIssue 6 u d a b s
/-- `acas` (R195). -/
def execAcas (u : Bool) (d a b : Opnd) (s : State) : Out := atomIssue 7 u d a b s

/-! Deferred cells (R199-R201). -/

/-- Only translated DEF pages hold cells (R199). -/
def notDeferred (_ : Env) (pl : Place) : Bool := match pl with | .pa _ _ _ df => !df | .scr _ => true

/-- `dplate` reads the address of a cell and its 16 bytes (R199). -/
def plateOp (d a : Opnd) (o : BitVec 8) : StoreOp :=
  { size := fun _ => 16, read := fun e l => (effective (fun _ => 16) a o e l).and (storeRun d 4 e l) Prod.mk }

/-- The state after `dplate`: a plate in every cell but the PRINTING ones, which fault DEFER_BUSY. -/
def plateNext (e : Env) (u : Bool) (k : StoreOp) (ps : List (Req × Place)) : State := e.storeAll .plate 16 ps (storeBase e u k ps)

/-- `dplate` (R199): installs a plate. An entry with bits [1:0] set faults ALIGN. -/
def execDplate (u : Bool) (d a : Opnd) (o : BitVec 8) (s : State) : Out :=
  let k := plateOp d a o
  withGang s (fun e =>
    e.gate (e.readChks u (k.read e)) (fun _ =>
      let odd := (storeReqs e u k).filter (fun r => field r.data 0 4 % 4 != 0 || r.va % 16 != 0)
      if !odd.isEmpty then e.raise .align (odd.map (·.lane.lid)) 0
      else match e.checkAddrs 16 16 .write true true (storeReqs e u k) (fun _ pl => notDeferred e pl) with
        | .stop o => o
        | .ok ps =>
          if e.orderStops 16 ps then .fault .blocked
          else .next (plateNext e u k ps)))

/-- The cell an evaluator lane publishes to becomes VALUE and its waiters may be replayed (R200, R341). -/
def State.publish (s : State) (q cell : Nat) (bs : List Byte) : State :=
  (s.onSt (fun st => st.setCell cell 0 bs)).onDev (fun d => d.modPart q (fun p =>
    { p with replaying := if p.waiters.any (fun w => w.2 == cell) then insertNew p.replaying cell else p.replaying }))

/-- The value run of `dpub` and its count. -/
def dpubRead (d : Opnd) (n : BitVec 8) (e : Env) (l : Lane) : Rd (List Byte) :=
  (dataRun d 4 false e l).check (decide (1 ≤ n.toNat ∧ n.toNat ≤ 16)) .illegalOperand

/-- The state after `dpub`: what the core's lanes wrote is performed, each participating lane has published, and its cell is
VALUE. -/
def dpubNext (e : Env) (d : Opnd) (n : BitVec 8) : State :=
  let s := e.done (e.settleReads (e.readChks false (dpubRead d n e)) (if e.passing.isEmpty then e.s else e.s.onSt (fun st => st.release e.g.core)))
    (fun l => if e.m.passes l then { l with published := true } else l)
  e.passing.foldl (fun s l => s.publish e.g.part l.cell (overCell 0 ((dpubRead d n e l).val.take n.toNat))) s

/-- `dpub` (R200). Every access of the lane issued before is performed at partition scope first. -/
def execDpub (d : Opnd) (n : BitVec 8) (s : State) : Out :=
  withGang s (fun e =>
    e.gate (e.readChks false (dpubRead d n e)) (fun _ =>
      let bad := e.passing.filter (fun l => l.ticket == 0 || l.published)
      let locked := e.passing.filter (fun l => e.s.dev.locked e.g.core true (l.cellVa.toNat, 16))
      if !bad.isEmpty then e.raise .permission (bad.map (·.lid)) 0
      else if !locked.isEmpty then e.raise .rangeLock (locked.map (·.lid)) (match locked with | l :: _ => l.cellVa | [] => 0)
      else if e.passing.any (fun l => e.s.dev.laneHas e.g.gid l.lid (fun _ => true)) then .fault .blocked
      else .next (dpubNext e d n)))

/-- `dtag` (R201). -/
def dtagOp (a : Opnd) (o : BitVec 8) : MemOp :=
  { va := effective (fun _ => 16) a o, data := noData, spec := fun _ => { kind := .dtag, size := 16, tags := [.n32], takeFlag := true },
    ok := fun _ => true, even := fun _ => false, need := .read, srcToo := false, refuse := noRefuse, words := noWords }
/-- `dtag` (R201). -/
def execDtag (u : Bool) (d a : Opnd) (o : BitVec 8) (s : State) : Out := longIssue s u d (dtagOp a o)

/-! Prefetch (R193). -/

def prefVa (a : Opnd) (o : BitVec 8) (e : Env) (l : Lane) : Rd Nat := effective (fun _ => 128) a o e l

/-- One lane's prefetch: its line joins the L2, and the L1 for `l1` as CHINT has it (R188), dropped in silence where it cannot be
read. -/
def State.prefetch (s : State) (e : Env) (lv : Bool) (l : Lane) (va : Nat) : State :=
  if windowBase ≤ va then s
  else match (e.agent l).resolve s.st va .read with
    | .ok pl =>
      if e.s.dev.locked e.g.core true (va, 128) then s
      else
        let s := s.onSt (fun st => (e.agent l).touch st va false)
        match pl with
        | .pa k _ _ _ =>
          let via := hintVia e.m
          let s := if pl.inL1 && !via.inL1 then s.onSt (fun st => st.evictLine e.g.core (k / 128)) else s
          let s := s.noteHome e.g.core pl (hintAt e.m false .load pl)
          if !lv && pl.inL1 && via.inL1 then s.onSt (fun st => st.fillLine e.g.core 0 (k / 128) (via == .stream)) else s
        | .scr _ => s
    | _ => s

/-- The state after `pref`. -/
def prefNext (e : Env) (u lv : Bool) (a : Opnd) (o : BitVec 8) : State :=
  (e.accessLanes u).foldl (fun s x => s.prefetch e lv x.1 ((prefVa a o e x.1).val / 128 * 128))
    (e.done (e.settleReads (e.readChks u (prefVa a o e)) e.s) id)

/-- `pref` (R193): brings a readable line into the L2, and a cacheable one into the L1 for `l1`. -/
def execPref (u : Bool) (lv : Bool) (a : Opnd) (o : BitVec 8) (s : State) : Out :=
  withGang s (fun e => e.gate (e.readChks u (prefVa a o e)) (fun _ => .next (prefNext e u lv a o)))

/-! Fences and cache maintenance (R189-R192): they hold the gang until what they wait for is done. -/

/-- The operations a fence of a kind waits for (R189): 0 full, 1 acq, 2 rel, 3 engine. -/
def fenceWaits (kind : Nat) (k : OpKind) : Bool :=
  if kind = 3 then k.isAtomic || k.isStore
  else if kind = 1 then k.isRead || k.isAtomic
  else true

/-- What a fence does to its core's L1 once nothing it waits for is outstanding. -/
def Store.fence (st : Store) (core kind scope : Nat) : Store :=
  if kind = 3 then st.release core
  else if scope < 2 then st
  else if kind = 2 then st.release core
  else st.acquire core

/-- The state after a `fence` (R189): it completes at once, or holds the gang. -/
def fenceNext (e : Env) (kind : Nat) : State :=
  if e.lanes.any (fun l => e.s.dev.laneHas e.g.gid l.lid (fenceWaits kind)) then e.hold e.s (.fence kind e.m.scope)
  else e.done (e.s.onSt (fun st => st.fence e.g.core kind e.m.scope)) id

/-- `fence` (R189): it applies to every active lane whatever the guard. -/
def fenceIssue (kind : Nat) (s : State) : Out := withGang s (fun e => .next (fenceNext e kind))

/-- `fence full` (R189). -/
def execFenceFull (_ : Bool) (s : State) : Out := fenceIssue 0 s
/-- `fence acq` (R189). -/
def execFenceAcq (_ : Bool) (s : State) : Out := fenceIssue 1 s
/-- `fence rel` (R189). -/
def execFenceRel (_ : Bool) (s : State) : Out := fenceIssue 2 s
/-- `fence engine` (R189). -/
def execFenceEngine (_ : Bool) (s : State) : Out := fenceIssue 3 s

/-- The lines of a `cmo` range (R190): clean, cinv and settle round outward. -/
def cmoLines (va n : Nat) : List Nat :=
  if n = 0 then [] else (List.range ((va + n - 1) / 128 - va / 128 + 1)).map (fun i => (va / 128 + i) * 128)

/-- A line leaves an L2, its dirty bytes lost; the words under accumulation keep what they read as (R137, R191). -/
def Store.l2Drop (st : Store) (own : Option Nat) (line : Nat) : Store :=
  let words := (List.range 32).filter (fun i => st.exact.any (fun x => x.pa == line * 128 + 4 * i))
  let keep := words.flatMap (fun i => offsets (4 * i) (st.homeGetN own (line * 128 + 4 * i) 4))
  let st := { st with l2 := st.l2.filter (fun k => !k.serves own line) }
  if keep.isEmpty then st else st.memPuts line keep

/-- A line of an L2 written to its memory; it stays. -/
def Store.l2Clean (st : Store) (own : Option Nat) (line : Nat) : Store := match st.l2At own line with
  | none => st
  | some l =>
    let ds := l.body.dirtyBytes
    if ds.isEmpty then st
    else
      let st := st.memPuts line ds
      { st with l2 := st.l2.map (fun k => if k.serves own line then { k with body := LineBytes.clean k.body.data } else k) }

/-- One line of a `cmo` (R191, R268, R305): kinds 0 clean, 1 inv, 2 cinv, 3 settle. From level 1 on the partition's L2 is acted on;
memory off the module takes its dirty bytes at level 3, or before `cinv` drops them (log entry 12). -/
def Store.cmoLine (st : Store) (core kind level key : Nat) : Store :=
  let line := key / 128
  let st := if kind = 3 then st.settle (line * 128) 128 else st
  let st := if kind = 1 then st else st.cleanLine core line
  let st := if kind = 1 ∨ kind = 2 then
      { st with lines := st.lines.filter (fun l => !(l.core == core && l.line == line)), errs := st.errs.filter (fun e => e.1 != .l1 core line) }
    else st
  if level = 0 then st
  else
    let own := st.own core false
    let st := if kind ≠ 1 ∧ (!offModule key ∨ level = 3 ∨ kind = 2) then st.l2Clean own line else st
    if kind = 1 ∨ kind = 2 then st.l2Drop own line else st

/-- What a lane's `cmo` range meets (R190). -/
inductive CmoCheck where
  | ok (keys : List Nat)
  | bad (c : FCode)

/-- A `cmo` line is checked: absent pages, HOLEs and the local window are skipped; a malformed entry faults. A range of no bytes has no
effect and no fault, also where `inv` names an address that is no multiple of 128 (DESIGN CHOICE, log entry 48). -/
def Agent.cmoKeys (a : Agent) (st : Store) (kind va n : Nat) : CmoCheck :=
  if n = 0 then .ok []
  else if kind = 1 ∧ (va % 128 ≠ 0 ∨ n % 128 ≠ 0) then .bad .align
  else if !canonical va ∨ 2 ^ 64 < va + n ∨ !canonical (va + n - 1) ∨ va / 2 ^ 63 ≠ (va + n - 1) / 2 ^ 63 then .bad .translation
  else
    let need := if kind = 0 then Need.read else Need.write
    let r := (cmoLines va n).foldl (fun (acc : List Nat × Bool × Bool) line =>
      if windowBase ≤ line then acc
      else match st.leafFor a.part a.nparts a.root a.core line false with
        | .leaf ent _ shift =>
          if needOk ent need then (acc.1 ++ [match st.placeIn line ent shift with | .pa k _ _ _ => k | .scr k => k], acc.2.1, acc.2.2)
          else (acc.1, acc.2.1, true)
        | .bad => (acc.1, true, acc.2.2)
        | _ => acc) ([], false, false)
    if r.2.1 then .bad .translation else if r.2.2 then .bad .permission else .ok r.1

/-- A `cmo` performed by a core on keys (R191, R306): at level 1 and above the covered writes are at the home. -/
def Store.cmo (st : Store) (core kind level : Nat) (keys : List Nat) : Store :=
  keys.foldl (fun st k => st.cmoLine core kind level k) st

/-- The range a lane's `cmo` names: first address and length. -/
def cmoRead (lv : BitVec 4) (a b : Opnd) (e : Env) (l : Lane) : Rd (Nat × Nat) :=
  ((readAddr e l a).and (read32 e l b) (fun x y => (x, y.1.toNat))).check (decide (lv.toNat ≤ 3)) .illegalOpcode

/-- The lanes that act, with their ranges. -/
def cmoRanges (e : Env) (u : Bool) (lv : BitVec 4) (a b : Opnd) : List (Lane × Nat × Nat) :=
  (e.accessLanes u).map (fun x => (x.1, (cmoRead lv a b e x.1).val))

/-- What their ranges meet. -/
def cmoChecks (e : Env) (kind : Nat) (rs : List (Lane × Nat × Nat)) : List ((Lane × Nat × Nat) × CmoCheck) :=
  rs.map (fun r => (r, (e.agent r.1).cmoKeys e.s.st kind r.2.1 r.2.2))

/-- The lanes whose ranges fault with a code. -/
def cmoBad (chk : List ((Lane × Nat × Nat) × CmoCheck)) (c : FCode) : List (Lane × Nat × Nat) :=
  (chk.filter (fun x => match x.2 with | .bad d => d == c | _ => false)).map (·.1)

/-- A `cmo` fault: its lanes, and the address of the first. -/
def Env.cmoRaise (e : Env) (c : FCode) (bad : List (Lane × Nat × Nat)) : Out :=
  e.raise c (bad.map (·.1.lid)) (match bad with | x :: _ => BitVec.ofNat 64 x.2.1 | [] => 0)

/-- A range rounded outward to whole lines (R190). -/
def lineRange (va n : Nat) : Nat × Nat := (va / 128 * 128, (va + n + 127) / 128 * 128 - va / 128 * 128)

/-- The lanes whose ranges, rounded as R190 says, an engine has locked (R202). -/
def cmoLocked (e : Env) (kind : Nat) (rs : List (Lane × Nat × Nat)) : List (Lane × Nat × Nat) :=
  rs.filter (fun r => r.2.2 ≠ 0 && e.s.dev.locked e.g.core (kind != 0) (if kind = 1 then r.2 else lineRange r.2.1 r.2.2))

/-- The state after a `cmo`: it acts, or holds the gang until the lanes' earlier accesses are performed. -/
def cmoNext (e : Env) (kind : Nat) (u : Bool) (lv : BitVec 4) (a b : Opnd) : State :=
  let s := e.settleReads (e.readChks u (cmoRead lv a b e)) e.s
  let rs := cmoRanges e u lv a b
  if e.lanes.any (fun l => e.s.dev.laneHas e.g.gid l.lid (fun _ => true)) then
    e.hold s (.cmo kind lv.toNat (rs.map (fun r => (r.1.lid, BitVec.ofNat 64 r.2.1, r.2.2))))
  else
    let keys := (cmoChecks e kind rs).flatMap (fun x => match x.2 with | .ok ks => ks | _ => [])
    e.done (s.onSt (fun st => st.cmo e.g.core kind lv.toNat keys)) id

/-- `cmo` (R190-R192): checks every active lane's range, then acts once the lanes' earlier accesses are performed. -/
def cmoIssue (kind : Nat) (u : Bool) (lv : BitVec 4) (a b : Opnd) (s : State) : Out :=
  withGang s (fun e =>
    e.gate (e.readChks u (cmoRead lv a b e)) (fun _ =>
      let rs := cmoRanges e u lv a b
      let chk := cmoChecks e kind rs
      if !(cmoBad chk .align).isEmpty then e.cmoRaise .align (cmoBad chk .align)
      else if !(cmoBad chk .translation).isEmpty then e.cmoRaise .translation (cmoBad chk .translation)
      else if !(cmoBad chk .permission).isEmpty then e.cmoRaise .permission (cmoBad chk .permission)
      else if !(cmoLocked e kind rs).isEmpty then e.cmoRaise .rangeLock (cmoLocked e kind rs)
      else .next (cmoNext e kind u lv a b)))

/-- `cmo clean` (R191). -/
def execCmoClean (u : Bool) (l : BitVec 4) (a b : Opnd) (s : State) : Out := cmoIssue 0 u l a b s
/-- `cmo inv` (R191). -/
def execCmoInv (u : Bool) (l : BitVec 4) (a b : Opnd) (s : State) : Out := cmoIssue 1 u l a b s
/-- `cmo cinv` (R191). -/
def execCmoCinv (u : Bool) (l : BitVec 4) (a b : Opnd) (s : State) : Out := cmoIssue 2 u l a b s
/-- `cmo settle` (R191). -/
def execCmoSettle (u : Bool) (l : BitVec 4) (a b : Opnd) (s : State) : Out := cmoIssue 3 u l a b s

end Sys2Proof.Machine
end

