-- ==== Sys2Proof/Machine/Held.lean ====
section
/-!
DEFINITION. Gangs held by `fence` and `cmo` (R189-R192): they go on once no access of their lanes that they wait for is
outstanding.
-/
namespace Sys2Proof.Machine
open Sys2Proof

/-- The `fence` of a gang's leader, its gang's accesses all performed, takes effect and the gang goes on. -/
def State.endFence (s : State) (g : Group) (lead : Nat) (kind scope : Nat) : State :=
  if (g.held lead).any (fun l => s.dev.laneHas g.gid l.lid (fenceWaits kind)) then s
  else (s.onSt (fun st => st.fence g.core kind scope)).onDev (fun d => d.modGroup g.gid (fun g => g.endHold lead id))

/-- The keys a held `cmo` acts on, its ranges translated as they stand now. -/
def State.heldKeys (s : State) (g : Group) (kind : Nat) (ranges : List (Nat × DWord × Nat)) : List Nat :=
  match s.dev.team? g.tid with
  | none => []
  | some t =>
    let desc := (s.dev.part g.part).desc.getD Desc.none
    ranges.flatMap (fun r =>
      let frame := match g.lanes.find? (fun l => l.lid == r.1) with | some l => l.frame | none => 0
      match (agentOf s.dev desc t g frame).cmoKeys s.st kind r.2.1.toNat r.2.2 with
      | .ok ks => ks
      | .bad _ => [])

/-- The same for `cmo`. -/
def State.endCmo (s : State) (g : Group) (lead : Nat) (kind level : Nat) (ranges : List (Nat × DWord × Nat)) : State :=
  if (g.held lead).any (fun l => s.dev.laneHas g.gid l.lid (fun _ => true)) then s
  else (s.onSt (fun st => st.cmo g.core kind level (s.heldKeys g kind ranges))).onDev (fun d =>
    (d.modGroup g.gid (fun g => g.endHold lead id)).pause g.gid ((g.held lead).map (·.lid)) 4)

/-- After an operation of a group has completed: its held fences and cache operations that can go on do. -/
def State.wakeHeld (s : State) (gid : Nat) : State :=
  match s.dev.group? gid with
  | none => s
  | some g => g.lanes.foldl (fun s l => match l.hold with
      | some (.fence kind scope) => s.endFence g l.lid kind scope
      | some (.cmo kind level ranges) => s.endCmo g l.lid kind level ranges
      | _ => s) s

end Sys2Proof.Machine
end

