-- ==== Sys2Proof/Machine/Matrix.lean ====
section
/-!
DEFINITION. The matrix unit: accumulator slots (R248, R249), the matrix queue (R250), `mma` and `mmj` (R251-R259), the acc
family (R260-R264), and the events that perform queued operations.
-/
namespace Sys2Proof.Machine
open Sys2Proof

/-! Types and shapes (R248, R251). -/

/-- The accumulator type an ETYPE multiplies into, as an AUX code: 0 f32, 1 f64, 2 i32, 3 n32. -/
def EType.accType : EType → Option Nat
  | .f64 => some 1
  | .f32 | .f16p | .bf16p | .nar => some 0
  | .i16p | .i8q => some 2
  | .n16p | .n8q => some 3
  | .i32 | .n32 | .i64 | .n64 => none

def auxType (aux : Nat) : EType := if aux = 0 then .f32 else if aux = 1 then .f64 else if aux = 2 then .i32 else .n32
def columns (n : BitVec 2) : Nat := 32 * 2 ^ n.toNat
/-- Slots for N columns of an accumulator type. -/
def slotsFor (aux ncols : Nat) : Nat := if aux = 1 then ncols / 4 else ncols / 8
/-- Bytes of an element of an accumulator type. -/
def accBytes (aux : Nat) : Nat := if aux = 1 then 8 else 4
/-- K of a multiply: 256 bits of elements. -/
def stepK (fm : Word) (t : EType) : Nat := 256 / t.width fm

/-- The element type an ETAG stands for (R89). -/
def etagType (etag : Nat) : EType :=
  if etag = 10 then .f64 else if etag = 3 then .f32 else if etag = 4 then .f16p else if etag = 5 then .bf16p
  else if etag = 6 then .i16p else if etag = 7 then .n16p else if etag = 8 then .i8q else if etag = 9 then .n8q else .nar

/-- The ETAGs a multiply of an ETYPE accepts (R251). -/
def Env.etagOk (e : Env) (etag : Nat) : Bool := match e.m.etype with
  | .f64 => etag == 10
  | .f32 => etag == 3
  | .f16p | .bf16p => etag == 4 || etag == 5
  | .nar => decide (16 ≤ etag ∧ etag ≤ 23) && contOf (e.fmReg (etag - 16)) == contOf e.fmSel
  | .i16p => etag == 6
  | .n16p => etag == 7
  | .i8q => etag == 8
  | .n8q => etag == 9
  | .i32 | .n32 | .i64 | .n64 => false

/-! Slots. A team's slots of one core or member are 64 runs of 4,096 bytes. -/

def Env.accKey (e : Env) : Nat := (e.t.tid * 4 + memberOf e.t e.g) * 64

/-- Where element (row, column) of an accumulator type lies. -/
def accAt (key base aux row col : Nat) : Nat :=
  if aux = 1 then (key + base + col / 4) * 4096 + 32 * row + 8 * (col % 4)
  else (key + base + col / 8) * 4096 + 32 * row + 4 * (col % 8)

def Store.accGet (st : Store) (x : MxEntry) (aux row col : Nat) : Nat :=
  leNat (st.acc.getN (accAt x.accKey x.accBase aux row col) (accBytes aux))
def Store.accSet (st : Store) (x : MxEntry) (aux row col v : Nat) : Store :=
  { st with acc := st.acc.setN (accAt x.accKey x.accBase aux row col) (leBytes (accBytes aux) v) }

/-- The rows a lane owns, each with its q (R249). -/
def ownedRows (width lid : Nat) : List (Nat × Nat) := (List.range (128 / width)).map (fun q => (q, lid + width * q))

/-- The slots named lie within what the team holds; task waves and evaluators hold none (R248, R249). -/
def Env.accOk (e : Env) (base n : Nat) : Bool := decide (base + n ≤ e.t.shape.acc)

/-- What the word shows of such a run's register: a direct v code, even where pairs ask for it (R96, R97). -/
def directRun (a : Opnd) (even : Bool) : Bool := match a with | .v n => !even || n.val % 2 == 0 | _ => false

/-- A register run that a matrix or acc instruction names: a direct v code (R251, R260). -/
def locateV (e : Env) (l : Lane) (a : Opnd) (run : Nat) (even : Bool) : Rd Loc := match a with
  | .v _ => locate e l a run even
  | _ => Rd.bad .illegalOperand .none

/-! Entering the queue (R250, R389). -/

/-- An entry of the issuing gang. -/
def Env.mxEntry (e : Env) (kind : MxKind) (aux base ncols : Nat) (rows : List MxRow) : MxEntry :=
  { opid := e.s.dev.nextOp, gid := e.g.gid, tid := e.t.tid, part := e.g.part, gen := e.g.gen, pc := e.sel.pc, word := e.word,
    kind := kind, mode := e.g.mode, fmv := e.fmSel, omv := 0, accKey := e.accKey, accBase := base, ncols := ncols, aux := aux,
    dst := 0, rows := rows, writers := e.passing.map (·.lid),
    tile := { etag := 0, fm := 0, first := 0, rows := [], scales := [], keys := [] }, flag := none, deadline := none, breached := false,
    jointNo := 0, member := 0, issued := e.s.dev.cycOf e.g.part e.g.core, done := 0, cost := 0 }

/-- The first entry of a core's queue whose deadline is still to be set. -/
def Dev.unchained (d : Dev) (core : Nat) : Option MxEntry := (d.core core).mq.find? (fun x => x.cost != 0 && x.deadline.isNone)

/-- The deadline of an entry set, and with it the chain of its core (R389). -/
def Dev.setDue (d : Dev) (core opid due : Nat) : Dev :=
  d.modCore core (fun c => { c with mq := c.mq.map (fun x => if x.opid = opid then { x with deadline := some due } else x), lastDeadline := due })

/-- The deadline of the next entry of a core's queue (R389): `cost` cycles from its start, which chains on the deadline before it. A
joint entry gets its own when all four members have issued and no earlier entry of theirs lacks one; it counts from its last
member's issue + 16. -/
def Dev.chainOne (d : Dev) (core : Nat) : Option Dev :=
  (d.unchained core).bind (fun x =>
    if x.kind != .mmj then some (d.setDue core x.opid (max (x.issued + 8) (d.core core).lastDeadline + x.cost))
    else (d.team? x.tid).bind (fun t =>
      let ys := t.cores.filterMap (fun c => ((d.unchained c).filter (fun y => y.kind == .mmj && y.tid == x.tid && y.jointNo == x.jointNo)).map (fun y => (c, y)))
      if ys.length ≠ 4 then none
      else
        let last := (ys.map (fun y => y.2.issued)).foldl Nat.max 0
        let prev := (ys.map (fun y => (d.core y.1).lastDeadline)).foldl Nat.max 0
        some (ys.foldl (fun d y => d.setDue y.1 y.2.opid (max (last + 24) prev + x.cost)) d)))

/-- Every deadline of some cores that can be set. -/
def Dev.chainAll (cores : List Nat) : Nat → Dev → Dev
  | 0, d => d
  | n + 1, d => match cores.findSome? d.chainOne with
    | some d => d.chainAll cores n
    | none => d

/-- An entry queued, counted on its flag, and its deadline chained: `cost` cycles from its start in lockup mode, 0 for none. -/
def Env.queueMx (e : Env) (x : MxEntry) (cost : Nat) (s : State) : State :=
  s.onDev (fun d =>
    let x := { x with cost := if d.lockup e.g.part then cost else 0, opid := d.nextOp }
    let d := d.modGroup e.g.gid (fun g => g.addFlag x.flag)
    let d := d.modCore e.g.core (fun c => { c with mq := c.mq ++ [x] })
    { d.chainAll ((List.range 4).map (fun i => 4 * (e.g.core / 4) + i)) 32 with nextOp := d.nextOp + 1 })

/-- While the core's queue is full the gang is not ready (R250), whatever its instruction would meet. -/
def Env.mxBusy (e : Env) : Bool := decide (8 ≤ (e.s.dev.core e.g.core).mq.length)

/-- A full queue or a full flag holds the gang back. -/
def Env.mxFull (e : Env) (flag : Option Nat) : Bool := e.mxBusy || e.g.flagFull flag

/-! The A operand (R252, R255). -/

/-- The registers of a run under the type checks of R73: `k` to an element, with the tags of the type. -/
def typedAs (e : Env) (k : Nat) (rs : List (Rd Reg)) : Rd (List Reg) :=
  (Rd.seq ((List.range (rs.length / k)).map (fun i =>
    (Rd.seq ((rs.drop (i * k)).take k)).next (fun xs => (typedRegs e [e.m.etype.tags e.m.fmtsel] xs).map (fun _ => xs))))).map
    List.flatten

/-- The scale registers that follow the data: one for each owned row where A's format has blocks. -/
def Env.scaleRegs (e : Env) : Nat := if e.m.etype = .nar ∧ blkOf e.fmSel ≠ 0 then 128 / e.g.width else 0

/-- A's run of a lane, read and checked. -/
def readMatrixA (e : Env) (l : Lane) (a : Opnd) : Rd (List Reg) :=
  let n := 8 * (128 / e.g.width)
  let k := if e.m.etype.wide then 2 else 1
  (locateV e l a (n + e.scaleRegs) e.m.etype.wide).next (fun loc => match loc with
    | .none => Rd.pure []
    | loc => (typedAs e k ((List.range n).map (regAt e l .resolve loc))).and
        (Rd.seq ((List.range e.scaleRegs).map (fun i => regAt e l .free loc (n + i)))) (fun x y => x ++ y))

/-- A's run of a lane, as the registers stand. -/
def rawMatrixA (e : Env) (base : Nat) (l : Lane) : List Reg :=
  (l.v.drop base).take (8 * (128 / e.g.width) + e.scaleRegs)

/-- The latch holds A for this instruction. -/
def Env.latched (e : Env) (base : Nat) : Option Latch := match e.g.latch with
  | some x => if x.base = base ∧ x.etype = e.m.etype.code ∧ x.fm = e.fmSel then some x else none
  | none => none

/-- A register as the latch holds it (R255), read as the register would be; the register itself is resolved with it only while it is
still that handle. -/
def readLatched (e : Env) (l : Lane) (n : Nat) (r : Reg) : Rd Reg :=
  let x := readTagged e.t (.v n) r
  { x with chk := { x.chk with touch := if l.reg n = r then x.chk.touch else [] } }

/-- A of a lane: from the latch, its tags checked and its handles resolved as a register's would be, or from the registers. -/
def Env.readA (e : Env) (a : Opnd) (base : Nat) (l : Lane) : Rd (List Reg) := match e.latched base with
  | some x =>
    let rs := match x.regs.find? (fun r => r.1 == l.lid) with | some r => r.2 | none => []
    let n := 8 * (128 / e.g.width)
    (typedAs e (if e.m.etype.wide then 2 else 1) ((rs.take n).zipIdx.map (fun r => readLatched e l (base + r.2) r.1))).map
      (fun ys => ys ++ rs.drop n)
  | none => readMatrixA e l a

/-- A row of a lane from its run: the eight data words and the scale word. -/
def rowOf (width : Nat) (rs : List Reg) (lid : Nat) (x : Nat × Nat) : MxRow :=
  let ws := rs.map (·.bits)
  let n := 8 * (128 / width)
  { lid := lid, q := x.1, row := x.2, words := (ws.drop (8 * x.1)).take 8 ++ [ws.getD (n + x.1) 0], stream := [] }

/-! The B tile (R253). -/

/-- The chunks of 16 bytes of tile row `t`, as local-window offsets in column order. -/
def tileChunks (om : BitVec 128) (rowBytes t : Nat) : List Nat :=
  let n := om.toNat
  let swz := fld n 56 2
  (List.range (rowBytes / 16)).map (fun c =>
    let c' := if swz = 1 then c ^^^ (t % 4) else if swz = 2 then c ^^^ (t % 8) else c
    fld n 0 32 + t * fld n 32 16 * 16 + 16 * c')

/-- The scale bytes of tile row `t`: none unless the element format has blocks. -/
def tileScales (om : BitVec 128) (blk ncols t : Nat) : List Nat :=
  if blk = 0 then []
  else (List.range ncols).map (fun j => fld om.toNat 64 32 + t / blk * fld om.toNat 96 16 + j)

/-- What the reads of a tile find. -/
inductive TileRead where
  | stop (o : Out)
  | wait
  | ok (t : MxTile)

/-- The tile is not yet to be read: a store of the core to it is still to be performed (R253), or an earlier atomic or `lda` of a lane
that takes part (R182, R185). -/
def Env.tileStops (e : Env) (bytes : List (Nat × Nat)) : Bool :=
  e.passing.any (fun l => e.s.dev.laneHas e.g.gid l.lid (· == .lda)) ||
  bytes.any (fun b => e.s.dev.ops.any (fun p => p.core == e.g.core && (p.kind.isStore || p.kind.isAtomic) && p.accs.any (fun x =>
    x.got.isNone && overlaps (x.place.base, p.size) (2 ^ 70 + b.1, b.2))))

/-- The tile read at issue: PERMISSION outside the scratchpad, RANGE_LOCK under a destination of an engine operation; it
waits as `tileStops` says. -/
def Env.readTile (e : Env) (om : BitVec 128) (first k ncols : Nat) : TileRead :=
  let etag := fld om.toNat 48 8
  let ty := etagType etag
  let fm := if 16 ≤ etag then e.fmReg (etag - 16) else 0
  let blk := if 16 ≤ etag then blkOf fm else 0
  let ag := e.agent e.leader
  let key := fun (off : Nat) => match ag.window off with | .ok (.scr k) => some k | _ => none
  let rows := (List.range k).map (fun i => tileChunks om (ncols * ty.width fm / 8) (first + i))
  let scales := (List.range k).map (fun i => tileScales om blk ncols (first + i))
  let offs := rows.flatten.map (fun o => (o, 16)) ++ scales.flatten.map (fun o => (o, 1))
  let lids := e.passing.map (·.lid)
  match offs.find? (fun o => (key o.1).isNone) with
  | some o => .stop (e.raise .permission lids (BitVec.ofNat 64 (windowBase + o.1)))
  | none =>
    let at_ := fun (o : Nat × Nat) => ((key o.1).getD 0, o.2)
    match offs.find? (fun o => e.s.dev.locked e.g.core false (2 ^ 64 + (at_ o).1, (at_ o).2)) with
    | some o => .stop (e.raise .rangeLock lids (BitVec.ofNat 64 (windowBase + o.1)))
    | none =>
      if e.tileStops (offs.map at_) then .wait
      else
        let get := fun (n o : Nat) => e.s.st.scr.getN ((key o).getD 0) n
        .ok { etag := etag, fm := fm, first := first, rows := rows.map (fun r => r.flatMap (get 16)),
              scales := scales.map (fun r => r.flatMap (get 1)), keys := offs.map at_ }

/-! Issue of `mma` and `mmj`. -/

/-- The unit's occupancy (R254). -/
def occupancy (w ncols : Nat) : Nat := if 32 ≤ w then ncols / 2 else ncols / 4

/-- The latch after the instruction (R255): A of every non-exited lane. -/
def Env.newLatch (e : Env) (r : Bool) (base : Nat) (used : List (Nat × List Reg)) : Option Latch :=
  if !r then none
  else match e.latched base with
    | some x => some x
    | none => some { base := base, etype := e.m.etype.code, fm := e.fmSel, regs := (e.g.lanes.filter (·.live)).map (fun l =>
        (l.lid, match used.find? (fun u => u.1 == l.lid) with | some u => u.2 | none => rawMatrixA e base l)) }

/-- The lanes that have not exited and do not pass the guard, whose A registers the instruction reads for the latch or a joint
operation: for the latch, which keeps them with their tags, it waits for those that are PENDING (R77, R255). -/
def Env.restLanes (e : Env) : List Lane := e.g.lanes.filter (fun l => l.live && !(e.passing.any (fun k => k.lid == l.lid)))
def Env.restWaits (e : Env) (base : Nat) : List (Nat × Chk) :=
  e.restLanes.map (fun l => (l.lid, { Chk.ok with wait := (rawMatrixA e base l).any (fun r => r.tag == .pending) }))

/-- A of such a lane as a joint operation reads it (log entry 15): PENDING and handles are waited for and handles resolved (R76, R77), and
no type is asked for. -/
def Env.readRest (e : Env) (base : Nat) (l : Lane) : Rd (List Reg) :=
  let rs : List Reg := match e.latched base with
    | some x => (match x.regs.find? (fun r => r.1 == l.lid) with | some r => r.2 | none => [])
    | none => rawMatrixA e base l
  Rd.seq (rs.zipIdx.map (fun (r : Reg × Nat) => if r.2 < 8 * (128 / e.g.width) then readLatched e l (base + r.2) r.1 else readFree r.1))

/-- The rows a joint operation takes from this member: those of every lane that has not exited (log entry 15). -/
def Env.jointRows (e : Env) (used : List (Nat × List Reg)) : List MxRow :=
  (e.g.lanes.filter (·.live)).flatMap (fun l =>
    let rs := match used.find? (fun u => u.1 == l.lid) with
      | some u => u.2
      | none => []
    (ownedRows e.g.width l.lid).map (rowOf e.g.width rs l.lid))

/-- The fields of `mma` and `mmj` (R251): whether joint, REUSE, A, the slots' base, the columns, the omap register, the tile step. -/
structure MxOp where
  joint : Bool
  reuse : Bool
  a : Opnd
  c : BitVec 6
  n : BitVec 2
  o : BitVec 3
  k : BitVec 4

def MxOp.base (x : MxOp) : Nat := match x.a with | .v i => i.val | _ => 0
/-- The accumulator type whose slots are counted (R248). Under an ETYPE that has none, which is FORMAT, ACC_BOUNDS comes first by R97
and the slots are counted as f32's: DESIGN CHOICE, log entry 46. -/
def mxAux (e : Env) : Nat := (e.m.etype.accType).getD 0
def mxOm (e : Env) (x : MxOp) : BitVec 128 := e.g.om.getD x.o.toNat 0

/-- The checks that hold for the whole gang, over a read: A a v code, the slots held, the types and RND allowed (R251-R253, R257). -/
def mxCheck {α : Type} (e : Env) (x : MxOp) (r : Rd α) : Rd α :=
  ((r.check (directRun x.a e.m.etype.wide) .illegalOperand).check (e.accOk x.c.toNat (slotsFor (mxAux e) (columns x.n))) .accBounds).check
    ((e.m.etype.accType).isSome && e.etagOk (fld (mxOm e x).toNat 48 8) && !e.rsto && (!x.joint || e.t.shape.quad)) .format

/-- The A operand of each participating lane. -/
def mxRead (x : MxOp) (e : Env) (l : Lane) : Rd (List Reg) := mxCheck e x (e.readA x.a x.base l)
def mxUsed (e : Env) (x : MxOp) : List (Nat × List Reg) :=
  e.passing.map (fun l => (l.lid, (mxRead x e l).val)) ++
    (if x.joint then e.restLanes.map (fun l => (l.lid, (e.readRest x.base l).val)) else [])

/-- The checks: the participating lanes' reads, and the gang's for the others. -/
def mxChks (e : Env) (x : MxOp) : List (Nat × Chk) :=
  e.passing.map (fun l => (l.lid, (mxRead x e l).chk)) ++
    (e.lanes.filter (fun l => !e.m.passes l)).map (fun l => (l.lid, (mxCheck e x (Rd.pure ())).chk)) ++
    (if x.joint then e.restLanes.map (fun l => (l.lid, (e.readRest x.base l).chk))
     else if x.reuse && (e.latched x.base).isNone then e.restWaits x.base else [])

/-- The tile of B that the instruction reads at issue. -/
def mxTile (e : Env) (x : MxOp) : TileRead :=
  let kk := stepK e.fmSel e.m.etype
  e.readTile (mxOm e x) (x.k.toNat * kk) kk (columns x.n)

/-- The rows of A that the entry takes. -/
def mxRows (e : Env) (x : MxOp) : List MxRow :=
  if x.joint then e.jointRows (mxUsed e x)
  else e.passing.flatMap (fun l => (ownedRows e.g.width l.lid).map (rowOf e.g.width (mxRead x e l).val l.lid))

/-- The entry that joins the core's queue: a joint operation has the member's number of it. -/
def mxEntryOf (e : Env) (x : MxOp) (tile : MxTile) : MxEntry :=
  { e.mxEntry (if x.joint then .mmj else .mma) (mxAux e) x.c.toNat (columns x.n) (mxRows e x) with
    omv := mxOm e x, tile := tile, flag := e.flag, jointNo := if x.joint then e.t.joint.issued.getD e.g.gix 0 else 0,
    member := if x.joint then e.g.gix else 0 }

/-- The state after `mma` or `mmj`: the gang goes on, the entry is queued, the latch is set or cleared (R250, R255, R257). -/
def mxNext (e : Env) (x : MxOp) (tile : MxTile) : State :=
  let cost := occupancy (e.m.etype.width e.fmSel) (columns x.n) + 16
  let no := e.t.joint.issued.getD e.g.gix 0
  let s := e.queueMx (mxEntryOf e x tile) cost (e.done (e.settleReads (mxChks e x) e.s) id)
  s.onDev (fun d =>
    let d := d.modGroup e.g.gid (fun g => { g with latch := e.newLatch x.reuse x.base (mxUsed e x) })
    if x.joint then d.modTeam e.t.tid (fun t => { t with joint := { t.joint with issued := t.joint.issued.set e.g.gix (no + 1) } }) else d)

/-- `mma` and `mmj` at issue (R251-R255, R257). -/
def matrixIssue (x : MxOp) (s : State) : Out :=
  withGang s (fun e =>
    if e.mxBusy then .fault .blocked
    else e.gate (mxChks e x) (fun _ =>
      if e.mxFull e.flag then .fault .blocked
      else match mxTile e x with
        | .stop out => out
        | .wait => .fault .blocked
        | .ok tile => .next (mxNext e x tile)))

/-- `mma` (R251-R255). -/
def execMma (r : Bool) (a : Opnd) (c : BitVec 6) (n : BitVec 2) (o : BitVec 3) (k : BitVec 4) (s : State) : Out :=
  matrixIssue { joint := false, reuse := r, a := a, c := c, n := n, o := o, k := k } s
/-- `mmj` (R257, R258). -/
def execMmj (r : Bool) (a : Opnd) (c : BitVec 6) (n : BitVec 2) (o : BitVec 3) (k : BitVec 4) (s : State) : Out :=
  matrixIssue { joint := true, reuse := r, a := a, c := c, n := n, o := o, k := k } s

/-! The acc family (R260-R264). -/

/-- The owned rows of the participating lanes with the words and stream words of each. -/
def Env.accRows (e : Env) (words : Lane → Nat → List Word) (stream : Lane → Nat → List Word) : List MxRow :=
  e.passing.flatMap (fun l => (ownedRows e.g.width l.lid).map (fun x =>
    { lid := l.lid, q := x.1, row := x.2, words := words l x.1, stream := stream l x.1 }))

/-- The stream words of the q-th owned row of a lane: `n` for each row, from the lane's counter on. -/
def Env.rowStream (e : Env) (n : Nat) (l : Lane) (q : Nat) : List Word :=
  (List.range n).map (fun i => BitVec.ofNat 32 (e.stream l (q * n + i)))

/-- The checks of the family: AUX, then the slots. -/
def Env.accChk {α : Type} (e : Env) (aux base n : Nat) (r : Rd α) : Rd α :=
  (r.check (decide (aux ≤ 3)) .illegalOperand).check (e.accOk base n) .accBounds

def noRowWords (_ : Lane) (_ : Nat) : List Word := []

def zeroChks (e : Env) (c : BitVec 6) (n : BitVec 2) (x : BitVec 3) : List (Nat × Chk) :=
  e.lanes.map (fun l => (l.lid, (e.accChk x.toNat c.toNat (slotsFor x.toNat (columns n)) (Rd.pure ())).chk))
/-- The state after `acc.zero`: its entry is queued. -/
def zeroNext (e : Env) (c : BitVec 6) (n : BitVec 2) (x : BitVec 3) : State :=
  e.queueMx (e.mxEntry .zero x.toNat c.toNat (columns n) (e.accRows noRowWords noRowWords)) (columns n / 8) (e.done e.s id)

/-- `acc.zero` (R260). -/
def execAccZero (c : BitVec 6) (n : BitVec 2) (x : BitVec 3) (s : State) : Out :=
  withGang s (fun e => if e.mxBusy then .fault .blocked else e.gate (zeroChks e c n x) (fun _ => if e.mxFull none then .fault .blocked else .next (zeroNext e c n x)))

/-- A read of the family with the checks that hold for the whole gang, and those checks for every lane: a direct v code, AUX, the
slots (R97, R260). `even` tells a run of pairs (R96). -/
def accRead {α : Type} (e : Env) (a : Opnd) (even : Bool) (aux base n : Nat) (rd : Env → Lane → Rd α) (l : Lane) : Rd α :=
  e.accChk aux base n ((rd e l).check (directRun a even) .illegalOperand)
def accChks {α : Type} (e : Env) (a : Opnd) (even : Bool) (aux base n : Nat) (rd : Env → Lane → Rd α) : List (Nat × Chk) :=
  e.passing.map (fun l => (l.lid, (accRead e a even aux base n rd l).chk)) ++
    (e.lanes.filter (fun l => !e.m.passes l)).map (fun l => (l.lid, (e.accChk aux base n ((Rd.pure ()).check (directRun a even) .illegalOperand)).chk))

/-- The address and signed pitch of an acc transfer (R261). -/
def readRows (e : Env) (l : Lane) (a : Opnd) : Rd (Nat × Int) :=
  (locateV e l a 3 true).next (fun loc => match loc with
    | .none => Rd.pure (0, 0)
    | loc => ((Rd.seq ((List.range 2).map (regAt e l .resolve loc))).next (typedRegs e [n64Tags, i64Tags])).and
        ((regAt e l .resolve loc 2).next (fun r => (typedRegs e [[.i32], [.n32]] [r]).map (fun n =>
          if r.tag = .i32 then (BitVec.ofNat 32 n).toInt else (n : Int)))) Prod.mk)

/-- The address of a row. -/
def rowVa (base : Nat) (pitch : Int) (row : Nat) : Nat := (((base : Int) + pitch * row) % (2 ^ 64 : Nat)).toNat

/-- The fields of `acc.ld` and `acc.st` (R261, R262). -/
structure AccMove where
  store : Bool
  a : Opnd
  c : BitVec 6
  n : BitVec 2
  x : BitVec 3

def rowsRead (a : Opnd) (e : Env) (l : Lane) : Rd (Nat × Int) := readRows e l a
def accMoveChks (e : Env) (k : AccMove) : List (Nat × Chk) :=
  accChks e k.a true k.x.toNat k.c.toNat (slotsFor k.x.toNat (columns k.n)) (rowsRead k.a)
/-- The bytes of a row in memory: elements of ETYPE for a store, of the accumulator's type for a load. -/
def accRowBytes (e : Env) (k : AccMove) : Nat :=
  if k.store then columns k.n * e.m.etype.width e.fmSel / 8 else columns k.n * accBytes k.x.toNat
/-- What a lane's row keeps for the record of a captured transfer (R324): the row-0 address, the pitch, and whether it was read as
signed. -/
def moveRowWords (e : Env) (k : AccMove) (l : Lane) (_ : Nat) : List Word :=
  let r := (rowsRead k.a e l).val
  let signed := ((locateV e l k.a 3 true).next (fun loc => regAt e l .resolve loc 2)).val.tag == Tag.i32
  [BitVec.ofNat 32 r.1, BitVec.ofNat 32 (r.1 / 2 ^ 32), BitVec.ofInt 32 r.2, if signed then 1 else 0]
/-- Every 16 bytes of a row are one access of the lane. -/
def accMoveReqs (e : Env) (k : AccMove) : List Req :=
  e.passing.flatMap (fun l => (ownedRows e.g.width l.lid).flatMap (fun q =>
    let r := (rowsRead k.a e l).val
    (List.range (accRowBytes e k / 16)).map (fun i =>
      { lane := l, va := (rowVa r.1 r.2 q.2 + 16 * i) % 2 ^ 64, data := [], writers := [] })))
/-- Stream words of a store that rounds, for each element (R125). -/
def accMoveWords (e : Env) (k : AccMove) : Nat := if k.store then convWords e (auxType k.x.toNat) e.m.etype * columns k.n else 0

/-- The state after `acc.ld` or `acc.st`: its entry is queued and its accesses are outstanding. -/
def accMoveNext (e : Env) (k : AccMove) (ps : List (Req × Place)) : State :=
  let w := accMoveWords e k
  let s := e.touchAll k.store ps (e.settleReads (accMoveChks e k) e.s)
  let s := e.done s (fun l => if e.m.passes l then { l with rctr := l.rctr + BitVec.ofNat 32 (w * (128 / e.g.width)) } else l)
  let mx := { e.mxEntry (if k.store then .st else .ld) k.x.toNat k.c.toNat (columns k.n) (e.accRows (moveRowWords e k) (e.rowStream w)) with
              flag := e.flag }
  let op : Op := { e.holdOp (if k.store then .accSt else .accLd) 16 [] ps with
    opid := s.dev.nextOp, flag := e.flag, fmv := e.fmSel, started := false }
  (e.queueMx mx (if ps.any (fun p => p.2.untimed) then 0 else 220 + columns k.n) s).onDev (fun d => d.addOp op)

/-- `acc.ld` and `acc.st` (R261, R262). -/
def accTransfer (k : AccMove) (s : State) : Out :=
  withGang s (fun e =>
    if e.mxBusy then .fault .blocked
    else e.gate (accMoveChks e k) (fun _ =>
      if e.mxFull e.flag then .fault .blocked
      else match e.checkAddrs 16 16 (if k.store then .write else .read) k.store true (accMoveReqs e k) with
        | .stop o => o
        | .ok ps => if e.orderStops 16 ps then .fault .blocked else .next (accMoveNext e k ps)))

/-- `acc.ld` (R261). -/
def execAccLd (a : Opnd) (c : BitVec 6) (n : BitVec 2) (x : BitVec 3) (s : State) : Out :=
  accTransfer { store := false, a := a, c := c, n := n, x := x } s
/-- `acc.st` (R262). -/
def execAccSt (a : Opnd) (c : BitVec 6) (n : BitVec 2) (x : BitVec 3) (s : State) : Out :=
  accTransfer { store := true, a := a, c := c, n := n, x := x } s

/-- The registers `acc.rd` writes: a run of a direct v code (R263). -/
def accRun (e : Env) : Nat := 8 * (128 / e.g.width)
def vBase (d : Opnd) : Nat := match d with | .v i => i.val | _ => 0
def accRdChks (e : Env) (d : Opnd) (c : BitVec 6) (x : BitVec 3) : List (Nat × Chk) :=
  e.lanes.map (fun l => (l.lid, (e.accChk x.toNat c.toNat 1
    ((dest e l false d (accRun e) (x == 1#3)).check (directRun d (x == 1#3)) .illegalOperand)).chk))

/-- The state after `acc.rd`: its entry is queued and its destinations are PENDING. -/
def accRdNext (e : Env) (d : Opnd) (c : BitVec 6) (x : BitVec 3) : State :=
  let mx := { e.mxEntry .rd x.toNat c.toNat 8 (e.accRows noRowWords noRowWords) with flag := e.flag, dst := vBase d }
  (e.queueMx mx 16 (e.done e.s id)).onDev (fun dv => dv.modGroup e.g.gid (fun g =>
    g.setPending (e.passing.map (fun l => (l.lid, Dst.v (vBase d)))) (accRun e)))

/-- `acc.rd` (R263). -/
def execAccRd (d : Opnd) (c : BitVec 6) (x : BitVec 3) (s : State) : Out :=
  withGang s (fun e => if e.mxBusy then .fault .blocked else e.gate (accRdChks e d c x) (fun _ =>
    if e.mxFull e.flag then .fault .blocked else .next (accRdNext e d c x)))

/-- The factors of `acc.scale` of a lane, one for each owned row (R264). -/
def readFactors (e : Env) (l : Lane) (a : Opnd) (aux : Nat) : Rd (List Nat) :=
  let q := 128 / e.g.width
  let k := if aux = 1 then 2 else 1
  let tags := if aux = 1 then [Tag.f64l, Tag.f64h] else [Tag.f32]
  (locateV e l a (k * q) (aux == 1)).next (fun loc => match loc with
    | .none => Rd.pure []
    | loc => Rd.seq ((List.range q).map (fun i =>
        (Rd.seq ((List.range k).map (fun j => regAt e l .resolve loc (i * k + j)))).next (typedRegs e [tags]))))

def scaleRead (a : Opnd) (aux : Nat) (e : Env) (l : Lane) : Rd (List Nat) := readFactors e l a aux
def scaleChks (e : Env) (a : Opnd) (c : BitVec 6) (n : BitVec 2) (x : BitVec 3) : List (Nat × Chk) :=
  accChks e a (x == 1#3) x.toNat c.toNat (slotsFor x.toNat (columns n)) (scaleRead a x.toNat)
/-- The factor of the q-th owned row of a lane, as two words. -/
def factorWords (e : Env) (a : Opnd) (x : BitVec 3) (l : Lane) (q : Nat) : List Word :=
  let v := (scaleRead a x.toNat e l).val.getD q 0
  [BitVec.ofNat 32 v, BitVec.ofNat 32 (v / 2 ^ 32)]

/-- The state after `acc.scale`: its entry is queued with the factors read. -/
def scaleNext (e : Env) (a : Opnd) (c : BitVec 6) (n : BitVec 2) (x : BitVec 3) : State :=
  let k := if e.rsto then columns n else 0
  let s := e.done (e.settleReads (scaleChks e a c n x) e.s) (fun l => if e.m.passes l then
    { l with rctr := l.rctr + BitVec.ofNat 32 (k * (128 / e.g.width)) } else l)
  e.queueMx (e.mxEntry .scale x.toNat c.toNat (columns n) (e.accRows (factorWords e a x) (e.rowStream k))) (columns n / 8) s

/-- `acc.scale` (R264). -/
def execAccScale (a : Opnd) (c : BitVec 6) (n : BitVec 2) (x : BitVec 3) (s : State) : Out :=
  withGang s (fun e => if e.mxBusy then .fault .blocked else e.gate (scaleChks e a c n x) (fun _ =>
    if e.mxFull none then .fault .blocked else .next (scaleNext e a c n x)))

/-! Performing entries (R254, R258, R260-R264). -/

/-- One step of a reduction: the elements of A and B and the product of their block scales. -/
structure Prod3 where
  a : Num
  b : Num
  scale : FVal

def Prod3.value (p : Prod3) : FVal := FVal.mul (FVal.mul p.a.toFlt p.b.toFlt) p.scale

/-- The chunks of a reduction, `n` products each (R132). -/
def chunksOf {α : Type} (n : Nat) : Nat → List α → List (List α)
  | 0, _ => []
  | fuel + 1, l => if l.isEmpty then [] else l.take n :: chunksOf n fuel (l.drop n)

/-- The products of a chunk of a type, or of a k step (R132-R134). -/
def stepLen (et : EType) (w : Nat) : Nat := if et = .f64 ∨ et = .f32 then 1 else 128 / w

/-- An accumulator element after a reduction in ascending k (R132-R134). -/
def reduce (c : RCtx) (et : EType) (w : Nat) (ps : List Prod3) (acc : Nat) : Nat :=
  let chain := fun (f : Fmt) => ps.foldl (fun x p =>
    f.round c c.ftz (FVal.fma (c.rnd == .rdn) p.a.toFlt p.b.toFlt (f.read c.ftz x))) acc
  match et with
  | .f64 => chain .f64
  | .f32 => chain .f32
  | _ => (chunksOf (stepLen et w) ps.length ps).foldl (fun x ch => match (chunkType et).elems with
      | .int sg _ _ => narrowInt sg c.sat 32 ((ch.map (fun p => p.a.toInt * p.b.toInt)).foldl (· + ·) (intOf sg 32 x))
      | _ => dotSum .f32 c (ch.map Prod3.value ++ [Fmt.f32.read c.ftz x])) acc

/-- The elements of an A row, in ascending k. -/
def rowElems (m : Mode) (fm : Word) (r : MxRow) : List Num :=
  if m.etype.wide then (List.range 4).map (fun i =>
    numOf m.ftz fm m.etype ((r.words.getD (2 * i) 0).toNat + 2 ^ 32 * (r.words.getD (2 * i + 1) 0).toNat))
  else chunkElems m.ftz fm m.etype ((r.words.take 8).map (·.toNat))

def oneVal : FVal := .fin false 1 0

/-- The products of an A row (`none`: an exited lane's zero row) with column `j` of a tile, the scales of R121 by the tile
row. The spec gives an exited lane's row zero elements and no block scale (R258): it has scale 1 here, so that its products are zero;
DESIGN CHOICE, log entry 46. -/
def products (m : Mode) (fm : Word) (first : Nat) (r : Option MxRow) (tile : MxTile) (j : Nat) : List Prod3 :=
  let ty := etagType tile.etag
  let as := match r with | some r => rowElems m fm r | none => []
  let blk := if m.etype = .nar then blkOf fm else 0
  let zero := numOf false fm m.etype 0
  (tile.rows.zip tile.scales).zipIdx.map (fun x =>
    let k := x.2
    let b := numOf m.ftz tile.fm ty (elemAt (ty.width tile.fm) j (leNat x.1.1))
    let sa := match r with
      | some r => if blk = 0 then oneVal
          else scaleVal (sfmtOf fm) (fld (r.words.getD 8 0).toNat (8 * ((first + k) / blk - first / blk)) 8)
      | none => oneVal
    let sb := match x.1.2[j]? with | some c => scaleVal (sfmtOf tile.fm) c.toNat | none => oneVal
    { a := as.getD k zero, b := b, scale := FVal.mul sa sb })

/-- The chunks or k steps of a multiply (R256): those of the instruction's K, twice for a joint operation. -/
def MxEntry.steps (x : MxEntry) : Nat :=
  let et := (Mode.ofWord x.mode).etype
  stepK x.fmv et / stepLen et (et.width x.fmv) * (if x.kind = .mmj then 2 else 1)

/-- The next chunk or k step of a multiply in the written rows: `pieces` gives, for a row, the operands of its K-halves. -/
def Store.multiply (st : Store) (x : MxEntry) (pieces : MxRow → List (Nat × Option MxRow × MxTile)) : Store :=
  let m := Mode.ofWord x.mode
  let c : RCtx := { rnd := m.rnd, sat := m.sat, ftz := m.ftz, word := 0 }
  let n := stepLen m.etype (m.etype.width x.fmv)
  (x.rows.filter (fun r => x.writers.contains r.lid)).foldl (fun st r =>
    let ps := pieces r
    (List.range x.ncols).foldl (fun st j =>
      let all := ps.flatMap (fun p => products m x.fmv p.1 p.2.1 p.2.2 j)
      st.accSet x x.aux r.row j (reduce c m.etype (m.etype.width x.fmv) ((all.drop (n * x.done)).take n) (st.accGet x x.aux r.row j))) st) st

/-- The next chunk of an `mma` performed (R254). -/
def Store.mma (st : Store) (x : MxEntry) : Store := st.multiply x (fun r => [(x.tile.first, some r, x.tile)])

/-- The next chunk of a member's quadrant of a joint operation (R258): member (i, j) takes A's half h from member (i, h) and B's half h from
member (h, j). -/
def Store.mmj (st : Store) (xs : List MxEntry) (x : MxEntry) : Store :=
  let i := x.member / 2
  let j := x.member % 2
  let from_ := fun (n : Nat) => xs.find? (fun y => y.member == n)
  st.multiply x (fun r => [0, 1].filterMap (fun h => match from_ (2 * i + h), from_ (2 * h + j) with
    | some y, some z => some (y.tile.first, y.rows.find? (fun k => k.row == r.row), z.tile)
    | _, _ => none))

/-- Slots written in all their rows hold no error any more (R282). -/
def Store.accFresh (st : Store) (x : MxEntry) : Store :=
  if x.rows.length < 128 then st
  else { st with errs := st.errs.filter (fun e => match e.1 with
    | .acc n => !(decide (x.accKey + x.accBase ≤ n ∧ n < x.accKey + x.accBase + slotsFor x.aux x.ncols))
    | _ => true) }

/-- `acc.zero` performed. -/
def Store.accZero (st : Store) (x : MxEntry) : Store :=
  x.rows.foldl (fun st r => (List.range x.ncols).foldl (fun st j => st.accSet x x.aux r.row j 0) st) (st.accFresh x)

/-- `acc.scale` performed: AUX 2 and 3 leave f32 (R264). -/
def Store.accScale (st : Store) (x : MxEntry) : Store :=
  let m := Mode.ofWord x.mode
  let f : Fmt := if x.aux = 1 then .f64 else .f32
  x.rows.foldl (fun st r =>
    let s := f.read m.ftz ((r.words.getD 0 0).toNat + (if x.aux = 1 then 2 ^ 32 * (r.words.getD 1 0).toNat else 0))
    (List.range x.ncols).foldl (fun st j =>
      let c : RCtx := { rnd := m.rnd, sat := m.sat, ftz := m.ftz, word := (r.stream.getD j 0).toNat }
      let v := (numOf m.ftz 0 (auxType x.aux) (st.accGet x x.aux r.row j)).toFlt
      st.accSet x x.aux r.row j (f.round c m.ftz (FVal.mul v s))) st) st

/-- The bytes `acc.st` writes for a row (R262). -/
def Store.accRow (st : Store) (x : MxEntry) (r : MxRow) : List Byte :=
  let m := Mode.ofWord x.mode
  let w := m.etype.width x.fmv
  let code := fun (j : Nat) =>
    let c : RCtx := { rnd := m.rnd, sat := m.sat, ftz := m.ftz, word := (r.stream.getD j 0).toNat }
    toElem c x.fmv m.etype (numOf m.ftz 0 (auxType x.aux) (st.accGet x x.aux r.row j))
  leBytes (x.ncols * w / 8) (joinElems w ((List.range x.ncols).map code))

/-- The registers `acc.rd` writes for a lane: its owned rows of the slot, in ascending q. -/
def Store.accRegs (st : Store) (x : MxEntry) (lid : Nat) : List Reg :=
  let tag := fun (i : Nat) => if x.aux = 0 then Tag.f32 else if x.aux = 1 then (if i % 2 = 0 then .f64l else .f64h)
    else if x.aux = 2 then .i32 else .n32
  (x.rows.filter (fun r => r.lid == lid)).flatMap (fun r => (List.range 8).map (fun i =>
    { bits := BitVec.ofNat 32 (st.accGet x 0 r.row i), tag := tag i }))

/-- `acc.ld` performed: the bytes read go to the slots, bits unchanged. -/
def Store.accFill (st : Store) (x : MxEntry) (o : Op) : Store :=
  let n := x.ncols * accBytes x.aux / 16
  x.rows.zipIdx.foldl (fun st r =>
    let bs := ((o.accs.drop (r.2 * n)).take n).flatMap (fun a => a.got.getD [])
    (List.range x.ncols).foldl (fun st j => st.accSet x x.aux r.1.row j (field bs (j * accBytes x.aux) (accBytes x.aux))) st) (st.accFresh x)

/-- The data of an `acc.st`'s accesses. -/
def accStData (st : Store) (x : MxEntry) (accs : List Acc) : List Acc :=
  let bs := x.rows.flatMap (st.accRow x)
  accs.zipIdx.map (fun a => { a.1 with data := (bs.drop (16 * a.2)).take 16 })

/-- An entry whose deadline is past, as the queue now holds it, and that has not been reported is a breach as it ends (R390). -/
def Dev.lateMx (d : Dev) (core : Nat) (x : MxEntry) : Dev := match (d.core core).mq.find? (fun y => y.opid == x.opid) with
  | some y =>
    let op := d.op? y.opid
    let seen := y.breached || (match op with | some o => o.breached | none => false)
    let lids := match op with | some o => o.late | none => y.writers
    if !seen && pastDue (d.part y.part).cyc y.deadline then d.breach y.tid y.gid core y.pc lids else d
  | none => d

/-- The entry leaves its queue and its flag; a late one is a breach. -/
def Dev.finishMx (d : Dev) (core : Nat) (x : MxEntry) : Dev :=
  let d := d.lateMx core x
  let d := d.modCore core (fun c => { c with mq := c.mq.filter (fun y => y.opid != x.opid) })
  match d.group? x.gid with
  | some g => if g.gen = x.gen then d.modGroup x.gid (fun g => g.dropFlag x.flag) else d
  | none => d

/-- An acc transfer goes on: accesses not yet made are attempted; once all are performed the slots or the flag follow. -/
def State.runTransfer (s : State) (core : Nat) (x : MxEntry) (o : Op) : State :=
  let s := if x.kind = .st ∧ !o.started then
      (o.accs.foldl (fun s a => s.drainAt a.place o.size) s).onDev (fun d =>
        d.modOp o.opid (fun o => { o with accs := accStData s.st x o.accs, started := true })) else s
  let s := State.afterAttempt o.opid (s.attempt o.opid false)
  match s.dev.op? o.opid with
  | none => s
  | some o =>
    if !State.allGot o || o.tardy then s
    else
      let s := if x.kind = .ld then s.onSt (fun st => st.accFill x o)
        else if 2 ≤ (Mode.ofWord x.mode).scope then s.onSt (fun st => st.release core) else s
      (s.onDev (fun d => (d.finishMx core x).dropOp o.opid)).wakeHeld x.gid

/-- The state after `acc.rd` has been performed: registers written, or dropped if the group's generation has moved on (R325). -/
def rdNext (s : State) (core : Nat) (x : MxEntry) : State :=
  let fits := match s.dev.group? x.gid with | some g => decide (g.gen = x.gen) | none => false
  s.onDev (fun d =>
    let d := if fits then d.modGroup x.gid (fun g => x.writers.foldl (fun g l => g.put [(l, .v x.dst)] (s.st.accRegs x l)) g)
      else d.modPart x.part (fun p => { p with dropped := min 0xFFFFFFFF (p.dropped + 1) })
    d.finishMx core x)

/-! Capture and faults of queued operations (R256, R259, R282, R321). -/

/-- A queued matrix operation as the record of its capture needs it. -/
def MxEntry.stub (x : MxEntry) (core : Nat) : Op :=
  { opid := x.opid, gid := x.gid, tid := x.tid, part := x.part, core := core, gslot := 0, gen := x.gen, pc := x.pc, word := x.word, mode := x.mode,
    fmv := x.fmv, omv := x.omv, flag := x.flag, kind := .accLd, size := 16, tags := [], accs := [], started := false,
    breached := false, deadline := none, missed := false, words := [], hdrVa := 0, hdr := [] }

/-- A matrix operation captured, to go on at its next chunk (R256, R259, R321). -/
def Dev.captureMx (d : Dev) (core : Nat) (x : MxEntry) (ckind : Nat) : Dev :=
  match d.op? x.opid with
  | some o => d.capture { o with accs := o.accs.map (fun a => { a with got := none, cell := none }), started := false } ckind x.writers x.done
  | none => d.capture (x.stub core) ckind x.writers x.done

/-- The same, out of the queues of deferred cells in which it waits. -/
def State.captureMx (s : State) (core : Nat) (x : MxEntry) (ckind : Nat) : State :=
  (s.leaveQueues x.part x.opid).onDev (fun d => d.captureMx core x ckind)

/-- A delivered fault of queued matrix operations, each with its core: to every one's group, its lanes named. `acc.scale` has no CKIND
of R324 and is kept as one not executed. -/
def Dev.mxFault (d : Dev) (xs : List (Nat × MxEntry)) (code : FCode) : Dev :=
  xs.foldl (fun d cx =>
    let x := cx.2
    let d := d.captureMx cx.1 x (if x.kind = .mma ∨ x.kind = .mmj then 3 else if x.kind = .scale then 8 else 4)
    match d.group? x.gid with
    | some g => match d.team? g.tid with
      | some t => d.raiseFault x.part { faultOf d g t code x.pc x.writers 0 with delivered := [x.opid] }
      | none => d
    | none => d) d

/-- The slots that an entry reads, as places of errors: none for `acc.zero` and `acc.ld`. -/
def MxEntry.sites (x : MxEntry) : List ErrSite :=
  if x.kind = .zero ∨ x.kind = .ld then []
  else (List.range (if x.kind = .rd then 1 else slotsFor x.aux x.ncols)).map (fun i => .acc (x.accKey + x.accBase + i))

/-- Correctable errors of the slots an entry reads are corrected; an uncorrectable one is delivered to its group (R282). -/
def State.mxSlots (s : State) (core : Nat) (x : MxEntry) (k : State → State) : State :=
  if x.sites.any (fun e => s.st.errAt e == some true) then s.onDev (fun d => d.mxFault [(core, x)] .eccUncorrectable)
  else k (s.onSt (fun st => st.correct x.sites))

/-! Joint operations (R258, R259). -/

/-- The team's joint operation that comes next of those its members have queued: its entries, each with its core. -/
def Dev.jointEntries (d : Dev) (t : Team) : List (Nat × MxEntry) :=
  let mine := t.cores.flatMap (fun c => ((d.core c).mq.filter (fun x => x.kind == .mmj && x.tid == t.tid)).map (fun x => (c, x)))
  match mine with
  | [] => []
  | y :: ys =>
    let no := ys.foldl (fun n z => Nat.min n z.2.jointNo) y.2.jointNo
    mine.filter (fun z => z.2.jointNo == no)

/-- All four members have issued, and each heads its core's queue. -/
def Dev.jointHeads (d : Dev) (xs : List (Nat × MxEntry)) : Bool :=
  xs.length == 4 && xs.all (fun cx => ((d.core cx.1).mq.head?.map (·.opid)) == some cx.2.opid)

/-- The four members agree (R259). -/
def jointAgree (xs : List MxEntry) : Bool := match xs with
  | [] => true
  | x :: rest => rest.all (fun y => y.ncols == x.ncols && (Mode.ofWord y.mode).etype == (Mode.ofWord x.mode).etype &&
      y.fmv == x.fmv && y.tile.etag == x.tile.etag)

/-- A chunk of a multiply is over: the entry stands at the next, or leaves its queue after the last. -/
def Dev.stepMx (d : Dev) (core : Nat) (x : MxEntry) : Dev :=
  if x.steps ≤ x.done + 1 then d.finishMx core x
  else d.modCore core (fun c => { c with mq := c.mq.map (fun y => if y.opid = x.opid then { y with done := y.done + 1 } else y) })

/-- The state after a chunk of a joint operation: in every member's quadrant, and after the last the entries leave their queues. A member
whose slots hold an uncorrectable error is delivered it, and nothing is computed. -/
def jointNext (s : State) (xs : List (Nat × MxEntry)) : State :=
  let es := xs.map (·.2)
  let hurt := xs.filter (fun cx => cx.2.sites.any (fun e => s.st.errAt e == some true))
  if !hurt.isEmpty then s.onDev (fun d => d.mxFault hurt .eccUncorrectable)
  else (s.onSt (fun st => es.foldl (fun st x => (st.correct x.sites).mmj es x) st)).onDev (fun d => xs.foldl (fun d cx => d.stepMx cx.1 cx.2) d)

/-- `JOINT_OPERATION_START` (R258): every member has issued and heads its queue; its first chunk is performed. -/
def execJointOperationStart (tid : Nat) (s : State) : Out :=
  match s.dev.team? tid with
  | none => .fault .notEnabled
  | some t =>
    let xs := s.dev.jointEntries t
    if !s.dev.jointHeads xs ∨ !s.dev.working t.part then .fault .notEnabled
    else if !jointAgree (xs.map (·.2)) then .next (s.onDev (fun d => d.mxFault xs .format))
    else .next (jointNext s xs)

/-- The next chunk of a joint operation that has started. -/
def jointStep (s : State) (tid : Nat) : Out :=
  match s.dev.team? tid with
  | none => .fault .notEnabled
  | some t =>
    let xs := s.dev.jointEntries t
    if !s.dev.jointHeads xs ∨ xs.any (fun cx => cx.2.done == 0) then .fault .notEnabled else .next (jointNext s xs)

/-- `MATRIX_OPERATION` (R250, R254, R256): the entry at the head of a core's queue goes on. A multiply performs one chunk or k step; a
joint one is started by `JOINT_OPERATION_START`. -/
def execMatrixOperation (core : Nat) (s : State) : Out :=
  match (s.dev.core core).mq with
  | [] => .fault .notEnabled
  | x :: _ =>
    if !s.dev.working x.part then .fault .notEnabled
    else match x.kind with
      | .mmj => jointStep s x.tid
      | .mma => .next (s.mxSlots core x (fun s => (s.onSt (fun st => st.mma x)).onDev (fun d => d.stepMx core x)))
      | .zero => .next ((s.onSt (fun st => st.accZero x)).onDev (fun d => d.finishMx core x))
      | .scale => .next (s.mxSlots core x (fun s => (s.onSt (fun st => st.accScale x)).onDev (fun d => d.finishMx core x)))
      | .rd => .next (s.mxSlots core x (fun s => rdNext s core x))
      | _ => match s.dev.op? x.opid with
        | none => .fault .notEnabled
        | some o =>
          if o.goesOn then .next (s.mxSlots core x (fun s => s.runTransfer core x o))
          else .fault .notEnabled

/-- `JOINT_TIMEOUT` (R259). -/
def execJointTimeout (tid : Nat) (s : State) : Out :=
  match s.dev.team? tid with
  | none => .fault .notEnabled
  | some t =>
    let xs := s.dev.jointEntries t
    let wait := ((s.dev.part t.part).desc.getD Desc.none).jointWait
    let late := xs.any (fun cx => decide (cx.2.issued + wait ≤ s.dev.cycOf t.part cx.1))
    if xs.isEmpty ∨ xs.length = 4 ∨ !late ∨ !s.dev.working t.part then .fault .notEnabled
    else .next (s.onDev (fun d => d.mxFault xs .jointTimeout))

end Sys2Proof.Machine
end

