-- ==== Sys2Proof/Machine/Complete.lean ====
section
/-!
DEFINITION. Events of the memory pipe: completion of long-latency instructions (R56, R57, R80, R181), writes that become
performed (R187, R298), evictions (R297), waiters of deferred cells (R341, R344), lockup deadlines (R390), walks of the
page table (R313) and the starved queue (R28).
-/
namespace Sys2Proof.Machine
open Sys2Proof

/-- An operation whose deadline is past and that has not been reported is a breach as it ends (R390). Deadlines are not checked once the
halt line has risen or during a save (R391). -/
def Dev.lateEnd (d : Dev) (o : Op) : Dev :=
  if d.working o.part && !o.breached && pastDue (d.part o.part).cyc o.deadline then d.breach o.tid o.gid o.core o.pc o.late else d

/-- Registers that results fill hold no error any more (R282). -/
def State.fillRegs (s : State) (o : Op) : State :=
  if s.st.errs.isEmpty then s
  else
    let fills := fun (y : ErrSite) (w : Nat × Dst) => match w.2, y with
      | .v n, .reg g l i => g == o.gid && l == w.1 && decide (n ≤ i ∧ i < n + o.tags.length)
      | .s n, .sreg g i => g == o.gid && decide (n ≤ i ∧ i < n + o.tags.length)
      | _, _ => false
    s.onSt (fun st => { st with errs := st.errs.filter (fun y => !o.accs.any (fun a => a.writers.any (fills y.1))) })

/-- An operation whose accesses are all performed ends: results written or dropped, its flag decremented (R56, R80). -/
def State.completeOp (s : State) (o : Op) : State :=
  ((s.fillRegs o).onDev (fun d => (((d.lateEnd o).deliverResults o).countDown o).dropOp o.opid)).wakeHeld o.gid

/-- The result of a captured instruction returns after a restore: its generation is stale, so it is dropped and counted (R80, R325). -/
def State.staleReturn (s : State) (op : Nat) : Option State :=
  (List.range 4).findSome? (fun q => ((s.dev.part q).stale.find? (fun x => x.1 == op)).bind (fun x =>
    let moved := match s.dev.group? x.2.1 with | some g => g.gen != x.2.2 | none => true
    if s.dev.working q && moved then some (s.onDev (fun d => d.modPart q (fun p =>
      { p with stale := p.stale.filter (fun y => y.1 != op), dropped := min 0xFFFFFFFF (p.dropped + 1) })))
    else none))

/-- `LONG_LATENCY_COMPLETION` (R56): the accesses are performed and the results written; a stale result is dropped. -/
def execLongLatencyCompletion (op : Nat) (s : State) : Out :=
  match s.dev.op? op with
  | none => (match s.staleReturn op with | some t => .next t | none => .fault .notEnabled)
  | some o =>
    if !s.dev.working o.part ∨ !o.kind.completes ∨ !o.goesOn ∨ s.dev.writeHeld o then
      .fault .notEnabled
    else
      let s := State.afterAttempt op (s.attempt op false)
      match s.dev.op? op with
      | none => .next (s.wakeHeld o.gid)
      | some o => .next (if State.allGot o && !o.tardy then s.completeOp o else s)

/-- A release store that no earlier access of its lanes holds back (R187), or a plain one; and no tile that is still to be read holds
it (R253). -/
def Dev.writeReady (d : Dev) (o : Op) : Bool :=
  (o.kind == .strl || o.kind == .store) && !d.writeHeld o && !(o.kind == .strl && d.ops.any (fun k => decide (k.opid < o.opid) && k.gid == o.gid &&
    k.accs.any (fun x => o.accs.any (fun y => y.lid == x.lid || x.writers.any (fun w => w.1 == y.lid)))))

/-- A waiting store performed (R187, R253). -/
def State.finishWrite (s : State) (o : Op) : State :=
  let s := o.accs.foldl (fun s x => s.drainAt x.place o.size) s
  let s := State.afterAttempt o.opid (s.attempt o.opid false)
  match s.dev.op? o.opid with
  | none => s.wakeHeld o.gid
  | some _ => (s.onDev (fun d => d.dropOp o.opid)).wakeHeld o.gid

/-- `WRITE_PERFORMED` (R187, R253, R298): a store to the line that waits for its lanes' earlier accesses or for a tile is performed. Plain
writes wait in the L1 for a release, a `cmo` or an eviction (R297), and what a fence or `cmo` carries is performed as it ends. -/
def execWritePerformed (core line : Nat) (s : State) : Out :=
  match s.dev.ops.find? (fun o => o.core == core && s.dev.writeReady o && s.dev.working o.part &&
      o.accs.any (fun x => x.place.base / 128 == line)) with
  | some o => .next (s.finishWrite o)
  | none => .fault .notEnabled

/-- `L1_LINE_EVICTION` (R297): a line of a core's L1, or its copies in the texel caches. -/
def execL1LineEviction (core line : Nat) (s : State) : Out :=
  if (s.dev.part (s.dev.partOfCore core)).paused then .fault .notEnabled
  else if (lineAt s.st.lines core 0 line).isSome then .next (s.onSt (fun st => st.evictLine core line))
  else if s.st.lines.any (fun l => l.core == core && l.line == line) then
    .next (s.onSt (fun st => { st with lines := st.lines.filter (fun l => !(l.core == core && l.line == line)) }))
  else .fault .notEnabled

/-- `WAITER_REPLAY` (R341). -/
def execWaiterReplay (cell : Nat) (s : State) : Out :=
  match (List.range 4).find? (fun q => (s.dev.part q).replaying.contains cell) with
  | some q => if s.dev.working q then .next (s.drainCell q cell) else .fault .notEnabled
  | none => .fault .notEnabled

/-- `DEFER_TIMEOUT` (R344): an entry that has waited DEFER_TIMEOUT µs leaves the queue and its access is delivered the fault. -/
def execDeferTimeout (cell op : Nat) (s : State) : Out :=
  match s.dev.op? op with
  | none => .fault .notEnabled
  | some o =>
    let xs := o.accs.filter (fun x => x.cell == some cell)
    let wait := ((s.dev.part o.part).desc.getD Desc.none).deferTimeout * 2000
    if !s.dev.working o.part ∨ xs.isEmpty ∨ (s.dev.part o.part).replaying.contains cell ∨
        !xs.any (fun x => decide (x.joined + wait ≤ s.dev.time)) then .fault .notEnabled
    else
      let s := s.onDev (fun d => d.modPart o.part (fun p =>
        { p with waiters := p.waiters.filter (fun w => !(w.1 == op && w.2 == cell)) }))
      .next ((s.recount o.part cell).deliver o (xs.map (fun x => (x.lid, .deferTimeout))) 0)

/-! Lockup deadlines (R390, R391). -/

/-- A gang held at an engine instruction of a number: its group, the lane that names it and its deadline. -/
def Dev.heldEng (d : Dev) (op : Nat) : Option (Group × Lane × Option Nat) :=
  d.groups.findSome? (fun g => g.lanes.findSome? (fun l => match l.hold with
    | some (.eng id due _ _ _) => if id = op then some (g, l, due) else none
    | _ => none))

/-- A gang's deadline has been reported: it has none any more. -/
def Lane.noDeadline (l : Lane) : Lane :=
  { l with hold := match l.hold with | some (.eng id _ rest sc fm) => some (.eng id none rest sc fm) | h => h }

/-- A breach by an operation not over in its deadline cycle (R390): a long-latency instruction, an entry of a matrix queue, an engine
operation, or an `eng.*` still held. -/
def Dev.breachOp (d : Dev) (op : Nat) : Option Dev :=
  let ok := fun (q : Nat) => d.lockup q && d.working q
  match d.op? op, d.cores.zipIdx.findSome? (fun c => (c.1.mq.find? (fun x => x.opid == op)).map (fun x => (c.2, x))) with
  | some o, mx =>
    let due := match mx with | some x => x.2.deadline | none => o.deadline
    let seen := o.breached || (match mx with | some x => x.2.breached | none => false)
    if !ok o.part ∨ seen ∨ !overdue (d.part o.part).cyc due then none
    else some ((d.modOp op (fun o => { o with breached := true })).breach o.tid o.gid o.core o.pc o.late)
  | none, some (core, x) =>
    if !ok x.part ∨ x.breached ∨ !overdue (d.part x.part).cyc x.deadline then none
    else some ((d.modCore core (fun c =>
      { c with mq := c.mq.map (fun y => if y.opid = op then { y with breached := true } else y) })).breach x.tid x.gid core x.pc x.writers)
  | none, none => match d.eng? op with
    | some e =>
      if !ok e.part ∨ !overdue (d.part e.part).cyc e.deadline then none
      else some ((d.modEng op (fun e => { e with deadline := none })).breach e.tid e.gid e.core e.pc e.lids)
    | none => (d.heldEng op).bind (fun h =>
        let (g, l, due) := h
        if !ok g.part ∨ !overdue (d.part g.part).cyc due then none
        else some ((d.modGroup g.gid (fun g =>
          { g with lanes := g.lanes.map (fun k => if k.lid = l.lid then k.noDeadline else k) })).breach g.tid g.gid g.core l.pc ((g.held l.lid).map (·.lid))))

/-- `LOCKUP_BREACH` (R390). -/
def execLockupBreach (op : Nat) (s : State) : Out := match s.dev.breachOp op with
  | some d => .next { s with dev := d }
  | none => .fault .notEnabled

/-- The numbers under which an operation may have a deadline. -/
def Dev.timed (d : Dev) : List Nat :=
  d.ops.map (·.opid) ++ d.cores.flatMap (fun c => c.mq.map (·.opid)) ++ d.engs.map (·.eid) ++
  d.groups.flatMap (fun g => g.lanes.filterMap (fun l => match l.hold with | some (.eng id _ _ _ _) => some id | _ => none))

/-- As a cycle ends, every operation whose deadline cycle it is and that is not over is a breach (R390). -/
def Dev.breachDue (d : Dev) : Dev :=
  if (List.range 4).any d.lockup then d.timed.foldl (fun d op => (d.breachOp op).getD d) d else d

/-- `TRANSLATION_WALK` (R313): a TLB miss of a core in its context: A and D are set and the leaf is installed. -/
def execTranslationWalk (core : Nat) (va : DWord) (wr : Bool) (s : State) : Out :=
  let q := s.dev.partOfCore core
  let desc := (s.dev.part q).desc.getD Desc.none
  let miss := match s.st.tlbHit q core va.toNat with
    | some t => wr && !bit t.leaf.toNat 53
    | none => true
  let found := match s.st.walk q s.dev.nparts desc.root va.toNat with
    | .leaf e _ _ => !wr || bit e 4
    | _ => false
  if !s.dev.working q ∨ (s.dev.present core).isEmpty ∨ windowBase ≤ va.toNat ∨ !canonical va.toNat ∨ !miss ∨ !found then .fault .notEnabled
  else .next (s.onSt (fun st => st.touchPage q s.dev.nparts desc.root core va.toNat wr))

/-- A group has been ready and not selected for 256 consecutive cycles, and is not in its slot's starved queue (R28). -/
def Dev.starves (d : Dev) (g : Group) : Bool :=
  (match g.since with | some c => decide (c + 256 ≤ d.cycOf g.part g.core) | none => false) && g.canIssue d &&
  !(d.core g.core).starved.contains (g.islot, g.gid)

def Dev.enterStarved (d : Dev) (g : Group) : Dev := d.modCore g.core (fun c => { c with starved := c.starved ++ [(g.islot, g.gid)] })

/-- `STARVED_QUEUE_ENTRY` (R28). -/
def execStarvedQueueEntry (gid : Nat) (s : State) : Out :=
  match s.dev.group? gid with
  | none => .fault .notEnabled
  | some g => if s.dev.starves g then .next (s.onDev (fun d => d.enterStarved g)) else .fault .notEnabled

end Sys2Proof.Machine
end

