-- ==== Sys2Proof/Machine/EngMem.lean ====
section
/-!
DEFINITION. How engines and the front end reach memory (R271, R308, R335, R410): translated memory at the home slices, the
local window in the scratchpad, and where an access stops.
-/
namespace Sys2Proof.Machine
open Sys2Proof

/-- How an access ends: whole, at a fault of the engine class, or at an absent page (R316, R318). -/
inductive EngStop where
  | ok
  | fault (c : FCode)
  | absent (va : Nat)
  deriving DecidableEq, Repr

/-- A run of bytes cut at 128-byte lines: addresses and lengths. -/
def linePieces (va : Nat) : Nat → Nat → List (Nat × Nat)
  | 0, _ => []
  | fuel + 1, n =>
    if n = 0 then []
    else
      let k := min n (128 - va % 128)
      (va, k) :: linePieces ((va + k) % 2 ^ 64) fuel (n - k)

def piecesOf (va n : Nat) : List (Nat × Nat) := linePieces va (n / 128 + 2) n

/-- The fault an engine read meets at deferred cells: 0x0E at PLATE and PRINTING, 0x0D at POISON (R335). -/
def Store.cellStop (st : Store) (k n : Nat) : Option FCode :=
  (List.range ((k + n - 1) / 16 - k / 16 + 1)).findSome? (fun i => match st.cellTag (k / 16 + i) with
    | 0 => none
    | 3 => some .deferPoison
    | _ => some .deferBusy)

/-- A place as a unit that keeps no L1 reaches it (R308). -/
def homePlace (k : Nat) (sc df : Bool) : Place := .pa k false sc df

/-- The memory errors that an access at the home finds (R282): an L1's are not among them. -/
def Store.hardHome (st : Store) (k : Nat) : Bool := st.errAt (.mem (k / 128)) == some true
def State.correctHome (s : State) (k : Nat) : State := if s.st.errs.isEmpty then s else s.onSt (fun st => st.correct [.mem (k / 128)])

/-- An access of a unit reaches the L2 (R281), or, at system scope, memory homed off the module itself (R295, R350). -/
def State.unitReach (s : State) (a : Agent) (k : Nat) (sc df : Bool) : State :=
  if a.sys && offModule k then s.onSt (fun st => st.toSystem a.core (k / 128)) else s.noteHome a.core (homePlace k sc df) 0

/-- A read within one line. -/
def State.engRead1 (s : State) (a : Agent) (va n : Nat) : State × List Byte × EngStop :=
  match a.resolve s.st va .read with
  | .ok (.scr k) =>
    if s.st.hardAt a.core (.scr k) then (s, [], .fault .eccUncorrectable) else (s.correct a.core (.scr k), s.st.scr.getN k n, .ok)
  | .ok (.pa k _ sc df) =>
    if !s.st.keyUp k || s.st.hardHome k then (s, [], .fault .eccUncorrectable)
    else
      let s := s.drainAt (homePlace k sc df) n
      match (if df then s.st.cellStop k n else none) with
      | some c => (s, [], .fault c)
      | none =>
        let s := ((s.onSt (fun st => a.touch st va false)).unitReach a k sc df).correctHome k
        let s := s.useExact a.part (homePlace k sc df) n
        (s, s.st.homeGetN (a.own s.st (sc || df)) k n, .ok)
  | .fatal => (s, [], .fault .translation)
  | .absent => (s, [], .absent va)
  | .perm => (s, [], .fault .permission)

/-- A write over deferred cells in ascending address, stopping at a PRINTING cell (R335). -/
def writeUntil : List (Nat × List Byte) → Store → Store × EngStop
  | [], st => (st, .ok)
  | p :: ps, st =>
    if st.cellTag (cellOf p.1) = 2 then (st, .fault .deferBusy) else writeUntil ps (st.writeCells p.1 p.2)

/-- A write within one line: the issuing core's L1, where there is one, keeps no copy of it (R308). -/
def State.engWrite1 (s : State) (a : Agent) (va : Nat) (bs : List Byte) : State × EngStop :=
  match a.resolve s.st va .write with
  | .ok (.scr k) => (s.onSt (fun st => { st with scr := st.scr.setN k bs }), .ok)
  | .ok (.pa k _ sc df) =>
    if !s.st.keyUp k then (s.onSt (fun st => { st with drops := st.drops + 1 }), .ok)
    else
      let s := s.onSt (fun st => let st := a.touch st va true; if a.bare then st else st.evictLine a.core (k / 128))
      let s := (s.unitReach a k sc df).correctHome k
      if df then
        let s := s.drainAt (homePlace k sc df) bs.length
        let r := writeUntil (cellPieces k bs (bs.length / 16 + 2)) s.st
        ({ s with st := r.1 }, r.2)
      else (s.onSt (fun st => st.homeSet (a.own st (sc || df)) k bs), .ok)
  | .fatal => (s, .fault .translation)
  | .absent => (s, .absent va)
  | .perm => (s, .fault .permission)

/-- The address of the first byte of a run at which an access stops: on a page it may not reach, in bytes that cannot be had, or at a
deferred cell (R335, R377). -/
def State.stopsAt (s : State) (a : Agent) (wr : Bool) (va n : Nat) : Nat :=
  let bad := fun (p : Nat × Nat) => match a.resolve s.st p.1 (if wr then .write else .read) with
    | .ok (.pa k _ _ df) => if df && (if wr then s.st.cellTag (cellOf k) == 2 else s.st.cellTag (cellOf k) != 0) then true
        else !wr && (!s.st.keyUp k || s.st.hardHome k)
    | .ok (.scr k) => s.st.hardAt a.core (.scr k)
    | _ => true
  match ((List.range (ceilDiv n 16)).map (fun i => ((va + 16 * i) % 2 ^ 64, 16))).find? bad with
  | some p => p.1
  | none => va

def State.engReads (s : State) (a : Agent) : List (Nat × Nat) → State × List Byte × EngStop
  | [] => (s, [], .ok)
  | p :: ps => match s.engRead1 a p.1 p.2 with
    | (s, bs, .ok) => match State.engReads s a ps with
      | (s, rest, x) => (s, bs ++ rest, x)
    | (s, bs, x) => (s, bs, x)

/-- A read of any length. -/
def State.engRead (s : State) (a : Agent) (va n : Nat) : State × List Byte × EngStop := s.engReads a (piecesOf va n)

def State.engWrites (s : State) (a : Agent) (bs : List Byte) : List (Nat × Nat) → State × EngStop
  | [] => (s, .ok)
  | p :: ps => match s.engWrite1 a p.1 (bs.take p.2) with
    | (s, .ok) => State.engWrites s a (bs.drop p.2) ps
    | (s, x) => (s, x)

/-- A write of any length. -/
def State.engWrite (s : State) (a : Agent) (va : Nat) (bs : List Byte) : State × EngStop :=
  s.engWrites a bs (piecesOf va bs.length)

/-- A unit moved: read at one address, written at another. -/
def State.engMove (s : State) (a : Agent) (src dst n : Nat) : State × EngStop :=
  match s.engRead a src n with
  | (s, bs, .ok) => s.engWrite a dst bs
  | (s, _, x) => (s, x)

/-- Units run one after another until one stops: the state, how many were done, and the end. -/
def runUnits {α : Type} (f : State → α → State × EngStop) : List α → State → Nat → State × Nat × EngStop
  | [], s, n => (s, n, .ok)
  | x :: xs, s, n => match f s x with
    | (s, .ok) => runUnits f xs s (n + 1)
    | (s, e) => (s, n, e)

end Sys2Proof.Machine
end

