-- ==== Sys2Proof/Machine/Headers.lean ====
section
/-!
DEFINITION. Texture headers (R364-R367): fields, checks, the layout of texels, latents and weight images, and the tap rule
(R368, R369).
-/
namespace Sys2Proof.Machine
open Sys2Proof

/-- The fields of a header (R364). -/
structure Header where
  va : DWord
  neural : Bool
  dims : Nat
  addr : Nat
  res : List Nat
  levels : Nat
  mip : Bool
  linear : Bool
  tfmt : Nat
  base : Nat
  wbase : Nat
  wver : Nat
  lfmt : Fmt
  packed : Bool
  acts : List Nat
  e2m1 : Bool
  widths : List Nat
  feats : Nat
  stoch : Bool
  pin : Bool
  deriving DecidableEq, Repr

/-- The latent format of LFMT (R365). -/
def latentFmt (n : Nat) : Fmt :=
  let e := fld n 1 3
  { sgn := bit n 0, ebits := e, mbits := fld n 4 3, bias := if e = 0 then 1 else 2 ^ (e - 1) - 1,
    spec := if !bit n 7 && e != 0 then 1 else 0 }

def Header.ofBytes (va : DWord) (bs : List Byte) : Header :=
  let fl := field bs 33 1
  let neural := field bs 0 1 = 1
  let nlay := field bs 40 1
  { va := va, neural := neural, dims := fld fl 2 2, addr := fld fl 4 2, res := (List.range 3).map (fun k => field bs (20 + 2 * k) 2),
    levels := field bs 34 1, mip := bit fl 7, linear := neural || bit fl 6, tfmt := field bs 32 1,
    base := field bs 48 8, wbase := field bs 56 8, wver := field bs 45 1, lfmt := latentFmt (field bs 44 1),
    packed := bit (field bs 44 1) 7, acts := (List.range 4).map (fun i => fld (field bs 43 1) (2 * i) 2),
    e2m1 := field bs 42 1 = 1, widths := (List.range nlay).map (fun i => field bs (36 + i) 1), feats := field bs 35 1,
    stoch := neural && bit fl 1, pin := neural && bit fl 0 }

def pad (a n : Nat) : Nat := ceilDiv n a * a

/-- The resolution of an axis at a level (R366). -/
def Header.resAt (h : Header) (k l : Nat) : Nat := max 1 (h.res.getD k 1 / 2 ^ l)
/-- Bytes of a point: a texel or a latent record. -/
def Header.point (h : Header) : Nat := if h.neural then 16 else if h.tfmt = 1 then 8 else 4
def Header.levelSize (h : Header) (l : Nat) : Nat := h.point * (h.resAt 0 l * h.resAt 1 l * h.resAt 2 l)
/-- Where a level starts, from the first (R366): at the next 128-byte boundary after the level before it. -/
def Header.levelOff (h : Header) (l : Nat) : Nat := (List.range l).foldl (fun off i => pad 128 (h.base + off + h.levelSize i) - h.base) 0
/-- Bytes of all levels. -/
def Header.dataLen (h : Header) : Nat := h.levelOff (h.levels - 1) + h.levelSize (h.levels - 1)

/-- The sections of the weight image, one for each layer: offset, inputs, outputs (R367). -/
def sections (rowB : Nat) : Nat → Nat → List Nat → List (Nat × Nat × Nat)
  | _, _, [] => []
  | off, n, m :: ms => (off, n, m) :: sections rowB (off + m * rowB + pad 16 m + pad 16 (2 * m)) m ms

def Header.rowBytes (h : Header) : Nat := if h.e2m1 then 16 else 32
def Header.layers (h : Header) : List (Nat × Nat × Nat) := sections h.rowBytes 0 h.feats h.widths
def Header.imageLen (h : Header) : Nat := if !h.neural then 0 else
  (h.widths.map (fun m => m * h.rowBytes + pad 16 m + pad 16 (2 * m))).foldl (· + ·) 0

/-- The header is not refused (R365). The rule does not name an address that is not aligned as its row says (log entry 16). -/
def headerOk (bs : List Byte) : Bool :=
  let h := Header.ofBytes 0 bs
  let kind := field bs 0 1
  let maxRes := if kind = 0 then 16384 else 4096
  let resOk := (List.range 3).all (fun k => decide (1 ≤ h.res.getD k 0 ∧ h.res.getD k 0 ≤ maxRes) &&
    (decide (k < h.dims) || h.res.getD k 0 == 1))
  let lf := field bs 44 1
  let bitsOf := fld lf 0 1 + fld lf 1 3 + fld lf 4 3
  let nlay := field bs 40 1
  decide (kind ≤ 1) && zeroAt bs 1 19 && zeroAt bs 26 6 && decide (1 ≤ h.dims) && decide (h.addr ≤ 2) && resOk &&
  decide (h.base + h.dataLen ≤ windowBase) &&
  (if kind = 0 then
     zeroAt bs 56 8 && zeroAt bs 35 13 && decide (1 ≤ h.levels ∧ h.levels ≤ 15) && decide (h.tfmt ≤ 3) &&
     decide (fld (field bs 33 1) 0 2 = 0)
   else
     zeroAt bs 32 1 && zeroAt bs 46 2 && zeroAt bs 41 1 && decide (fld (field bs 33 1) 6 2 = 0) &&
     decide (1 ≤ h.levels ∧ h.levels ≤ 8) && decide (1 ≤ h.feats ∧ h.feats ≤ 16) && decide (1 ≤ nlay ∧ nlay ≤ 4) &&
     decide (field bs 42 1 ≤ 1) && (List.range 4).all (fun i => let w := field bs (36 + i) 1
       if i < nlay then decide (1 ≤ w ∧ w ≤ 32) else w == 0) && decide (field bs (35 + nlay) 1 ≤ 4) &&
     decide (2 ≤ bitsOf ∧ bitsOf ≤ (if bit lf 7 then 4 else 8)) &&
     decide (h.wbase + h.imageLen ≤ windowBase))

/-! Levels and taps. Every rounding is RNE. -/

def f32r (x : FVal) : FVal := Fmt.f32.decode (Fmt.f32.round RCtx.plain false x)

/-- A coordinate that is not finite is read as +0 (R368). -/
def coord (w : Word) : FVal := match Fmt.f32.decode w.toNat with
  | .fin n m e => .fin n m e
  | _ => .zero

/-- rho2 of a slice (R368): differences along both directions, by axis. -/
def rhoSum (res : List Nat) (ds : List FVal) : FVal :=
  (List.zipWith (fun (d : FVal) (r : Nat) => f32r (FVal.mul d (.ofInt r))) ds res).foldl (fun acc g =>
    f32r (FVal.add false acc (f32r (FVal.mul g g)))) .zero

/-- The level of detail before clamping. -/
def lodOf (res : List Nat) (dx dy : List FVal) (bias : FVal) : FVal :=
  let rho2 := FVal.max (rhoSum res dx) (rhoSum res dy)
  f32r (FVal.add false (f32r (FVal.mul (.fin false 1 (-1)) (f32r (FVal.log2 rho2)))) bias)

/-- lam clamped to 0 and the highest level; NaN is 0. -/
def clampLod (levels : Nat) (x : FVal) : FVal :=
  if x.isNan then .zero else FVal.min (FVal.max x .zero) (.ofInt ((levels : Int) - 1))

/-- The levels a sample uses, with the numerator of wm out of 256 for the second. -/
def Header.levelsOf (h : Header) (lam : FVal) : List Nat × Nat :=
  let one := (f32r (FVal.add false lam (.fin false 1 (-1)))).floor.toNat
  if h.mip && !h.neural then
    let lo := lam.floor.toNat
    ([lo, min (lo + 1) (h.levels - 1)], (FVal.toInt RCtx.plain (FVal.mul lam.frac (.ofInt 256))).toNat)
  else ([min one (h.levels - 1)], 0)

/-- A tap index under ADDR (R369). -/
def mapIndex (addr : Nat) (r : Nat) (i : Int) : Nat :=
  if addr = 0 then (i % r).toNat
  else if addr = 1 then (min (max i 0) ((r : Int) - 1)).toNat
  else let j := (i % (2 * r : Nat)).toNat; if j < r then j else 2 * r - 1 - j

/-- The lower and upper tap of an axis with the weights' numerators out of 256. A position beyond f32 has no stated tap: its
lower tap is free (log entry 5). -/
def axisTaps (h : Header) (free : Nat) (k l : Nat) (u : FVal) : List (Nat × Nat) :=
  let r := h.resAt k l
  let p := f32r (FVal.add false (f32r (FVal.mul u (.ofInt r))) (.fin true 1 (-1)))
  match p with
  | .fin _ _ _ =>
    if h.linear then
      let i0 := p.floor
      let w1 := (FVal.toInt RCtx.plain (FVal.mul (.ofInt 256) (FVal.sub false p (.ofInt i0)))).toNat
      [(mapIndex h.addr r i0, 256 - w1), (mapIndex h.addr r (i0 + 1), w1)]
    else [(mapIndex h.addr r (FVal.add false p (.fin false 1 (-1))).floor, 256)]
  | _ => [(Config.freeCount free % r, 256)]

/-- The taps of a level: the point's address and the weight's numerator out of 256^DIMS, in ascending tap number. Bit k of
the number takes the upper tap on axis k. -/
def Header.taps (h : Header) (free l : Nat) (us : List FVal) : List (Nat × Nat) :=
  let axes := (List.range h.dims).map (fun k => axisTaps h free k l (us.getD k .zero))
  let combos := axes.zipIdx.foldr (fun (ax : List (Nat × Nat) × Nat) rest =>
    rest.flatMap (fun c => ax.1.map (fun t => (t.1 :: c.1, t.2 * c.2)))) [([], 1)]
  combos.map (fun c =>
    let x := c.1.getD 0 0
    let y := c.1.getD 1 0
    let z := c.1.getD 2 0
    (h.base + h.levelOff l + h.point * (x + h.resAt 0 l * (y + h.resAt 1 l * z)), c.2))

end Sys2Proof.Machine
end

