-- ==== Sys2Proof/Machine/Ring.lean ====
section
/-!
DEFINITION. The stop ring (R316, R323): fault codes, records and their writing at system scope, and interrupt vectors
(R407).
-/
namespace Sys2Proof.Machine
open Sys2Proof

/-- The 6-bit code of a fault (R316). -/
def FCode.code : FCode → Nat
  | .illegalOpcode => 0x01 | .illegalClause => 0x02 | .illegalOperand => 0x03 | .modeField => 0x04 | .format => 0x05
  | .regBounds => 0x06 | .uniform => 0x07 | .align => 0x08 | .translation => 0x09 | .permission => 0x0A | .rangeLock => 0x0B
  | .deferCycle => 0x0C | .deferPoison => 0x0D | .deferBusy => 0x0E | .stack => 0x0F | .futureInvalid => 0x10
  | .jointTimeout => 0x11 | .successorFit => 0x12 | .launchRecord => 0x13 | .breakpoint => 0x14 | .softwareTrap => 0x15
  | .lockupBreach => 0x16 | .eccUncorrectable => 0x17 | .preemptTimeout => 0x18 | .galley => 0x19 | .deferTimeout => 0x1A
  | .accBounds => 0x1B | .barrier => 0x1C | .watchdog => 0x1D

/-- The fields of a stop record, its SEQ and CYCLE apart. -/
structure StopRec where
  flags : Nat
  kind : Nat
  unit : Nat
  fcode : Nat
  detail : Nat
  core : Nat
  slot : Nat
  gix : Nat
  tix : Nat
  launch : Nat
  pc : Nat
  mask : Nat
  addr : Nat
  deriving DecidableEq, Repr

def StopRec.blank : StopRec :=
  { flags := 0, kind := 0, unit := 0, fcode := 0, detail := 0, core := 0, slot := 0, gix := 0, tix := 0, launch := 0, pc := 0,
    mask := 0, addr := 0 }

/-- The 64 bytes of a record (R323). -/
def StopRec.bytes (r : StopRec) (seq cycle : Nat) : List Byte :=
  leBytes 4 0 ++ leBytes 1 r.flags ++ leBytes 1 r.kind ++ leBytes 1 r.unit ++ leBytes 1 r.fcode ++ leBytes 4 r.detail ++
  leBytes 4 seq ++ leBytes 2 0 ++ leBytes 2 r.core ++ leBytes 2 r.slot ++ leBytes 2 r.gix ++ leBytes 4 r.tix ++
  leBytes 4 r.launch ++ leBytes 8 r.pc ++ leBytes 8 r.mask ++ leBytes 8 r.addr ++ leBytes 8 cycle

/-- An interrupt vector is sent (R407). -/
def Dev.interrupt (d : Dev) (v : Nat) : Dev := { d with irqs := d.irqs ++ [v] }

/-- A record written to the partition's ring: the state after it. One that would overrun the tail is not written, and the
overflow is marked: the context is then killed (R323). -/
def State.putRecord (s : State) (q : Nat) (r : StopRec) : State :=
  let p := s.dev.part q
  match p.desc with
  | none => s
  | some desc =>
    if desc.ringLen ≤ (p.seq + 2 ^ 32 - p.ringTail) % 2 ^ 32 then
      s.onDev (fun d => d.modPart q (fun p => { p with overflow := true, halt := true }))
    else
      let core := if r.core = 0xFFFF then q * (144 / s.dev.nparts) else r.core
      let bs := r.bytes p.seq (s.dev.cycOf q core)
      (s.onSt (fun st => st.homeSet none (desc.ringBase + 64 * (p.seq % desc.ringLen)) bs)).onDev (fun d =>
        (d.modPart q (fun p => { p with seq := (p.seq + 1) % 2 ^ 32 })).interrupt (8 + 4 * q))

/-- SEQ of the next record: the park ticket of a park record (R317). -/
def State.nextSeq (s : State) (q : Nat) : Nat := (s.dev.part q).seq

/-- The record of a fault found (KIND 0) or of a park (KIND 1). -/
def FaultRec.record (r : FaultRec) (kind detail : Nat) : StopRec :=
  { flags := 0, kind := kind, unit := r.unit, fcode := r.code.code, detail := detail, core := r.core, slot := r.gslot, gix := r.gix,
    tix := r.tix, launch := r.launchId.toNat, pc := r.pc.toNat, mask := r.mask, addr := r.addr.toNat }

/-- A context record (KIND 4, R322, R326, R329). -/
def contextRecord (flags fcode : Nat) : StopRec :=
  { StopRec.blank with kind := 4, unit := 8, flags := flags, fcode := fcode, core := 0xFFFF }

/-! Command queues as the host reads them (R347, R407). -/

/-- STATE of a queue: 3 error, 2 blocked by a packet not started, a WAIT not completed or an absent page, 0 idle, 1 ready. -/
def Queue.stateNow (k : Queue) : Nat :=
  if k.state = 3 then 3 else if k.waiting || k.cur.isSome || k.parkSeq.isSome then 2
  else if k.head = k.tail ∧ k.indirect.isNone then 0 else 1

/-- HEAD, ERROFF, STATE and ERRCODE written to a queue's descriptor at system scope. -/
def State.postQueue (s : State) (q n : Nat) : State :=
  match (s.dev.part q).queues[n]? with
  | none => s
  | some k =>
    if k.size = 0 then s
    else
      let st := k.stateNow
      let s := s.onDev (fun d => d.modPart q (fun p => { p with queues := modAt p.queues n (fun k => { k with state := st }) }))
      s.onSt (fun m => (m.homeSet none (k.desc + 12) (leBytes 4 k.head)).homeSet none (k.desc + 22)
        (leBytes 1 st ++ leBytes 1 k.errCode ++ leBytes 4 k.errOff))

/-- A packet has completed; with a fault code its queue stops in error, a packet that it has read and not started is not started any
more, and the host is told (R349, R352, R407). -/
def Dev.packetDone (d : Dev) (q queue serial off fcode : Nat) : Dev :=
  let d := d.modPart q (fun p => { p with queues := modAt p.queues queue (fun k =>
    let k := { k with live := k.live.filter (· != serial) }
    if fcode = 0 then k else { k with state := 3, errCode := fcode, errOff := off, cur := none, waiting := false, indirect := none, units := [] }) })
  if fcode = 0 then d else d.interrupt (9 + 4 * q)

/-- A park record opened: its SEQ is the ticket (R317). -/
def State.openPark (s : State) (q : Nat) (r : StopRec) (what : Parked) : State :=
  let seq := s.nextSeq q
  let s := s.putRecord q { r with kind := 1, fcode := FCode.translation.code }
  if (s.dev.part q).overflow then s
  else s.onDev (fun d => d.modPart q (fun p => { p with parks := p.parks ++ [(seq, what)] }))

end Sys2Proof.Machine
end

