-- ==== Sys2Proof/Machine/Prim.lean ====
section
/-!
DEFINITION. Primitives, coverage, fragments and overprint: the prim family (R278-R280), coverage (R379), quads and fragment
groups (R380), tile frames (R377, R378), and blending (R381-R383).
-/
namespace Sys2Proof.Machine
open Sys2Proof

/-! The prim family (R278-R280). -/

/-- The payload and coordinates of a primitive, as a lane reads them. -/
def primRead (run : Nat) (d a : Opnd) (e : Env) (l : Lane) : Rd (Reg × List Nat) := (readMove e l d).and (readScalars e l .f32 a run) Prod.mk

/-- The primitives of the participating lanes in ascending LID; one with a NaN coordinate takes its index and is dropped. -/
def newPrims (e : Env) (draw kind run : Nat) (d a : Opnd) : List Prim :=
  e.passing.zipIdx.filterMap (fun x =>
    let r := (primRead run d a e x.1).val
    if r.2.any (fun w => (Fmt.f32.decode w).isNan) then none
    else some { key := { draw := draw, mesh := e.t.tix * e.t.nGroups + e.g.gix, prim := e.g.prims + x.2 }, kind := kind,
                payload := r.1.bits, coords := r.2.map (BitVec.ofNat 32) })

/-- The state after `tri`, `ell` or `pt`: the draw holds the new primitives. -/
def primNext (e : Env) (draw kind run : Nat) (d a : Opnd) : State :=
  (e.done (e.settleReads (e.readChks false (primRead run d a e)) e.s) id).onDev (fun dv =>
    (dv.modGroup e.g.gid (fun g => { g with prims := g.prims + e.passing.length })).modPart e.g.part (fun p =>
      p.modDraw draw (fun x => { x with prims := x.prims ++ newPrims e draw kind run d a })))

/-- The binning buffer is full: the spec gives neither its size nor how fast it empties, so that while the draw has emitted primitives
it may be full at any time (a free value, log entry 35). -/
def Dev.binFull (d : Dev) (q draw : Nat) : Bool := match (d.part q).draw? draw with
  | some x => !x.prims.isEmpty && Config.binningFull d.time
  | none => false

/-- `tri`, `ell` and `pt` (R278, R279): only in a mesh team, before its stream is closed; held while the binning buffer is full. -/
def primIssue (kind run : Nat) (d a : Opnd) (s : State) : Out :=
  withGang s (fun e =>
    e.gate (e.readChks false (primRead run d a e)) (fun _ =>
      if e.passing.isEmpty then .next (e.done (e.settleReads (e.readChks false (primRead run d a e)) e.s) id)
      else match e.s.dev.meshDraw e.t with
        | none => e.raise .permission (e.passing.map (·.lid)) 0
        | some i =>
          if e.g.primsClosed then e.raise .permission (e.passing.map (·.lid)) 0
          else if e.s.dev.binFull e.g.part i then .fault .blocked
          else .next (primNext e i kind run d a)))

/-- `prim.tri` (R279). -/
def execPrimTri (d a : Opnd) (s : State) : Out := primIssue 0 9 d a s
/-- `prim.ell` (R279). -/
def execPrimEll (d a : Opnd) (s : State) : Out := primIssue 1 6 d a s
/-- `prim.pt` (R279). -/
def execPrimPt (d a : Opnd) (s : State) : Out := primIssue 2 4 d a s

/-- The state after `prim.cut`: the group's stream is closed. -/
def cutNext (e : Env) : State := (e.done e.s id).onDev (fun d => d.closeStream e.g.gid)

/-- `prim.cut` (R279). -/
def execPrimCut (s : State) : Out :=
  withGang s (fun e =>
    if e.passing.isEmpty then .next (e.done e.s id)
    else if (e.s.dev.meshDraw e.t).isNone then e.raise .permission (e.passing.map (·.lid)) 0
    else .next (cutNext e))

/-- The participating lanes that stand for a fragment, helpers apart. -/
def Env.fragLanes (e : Env) : List (Lane × Frag) :=
  e.passing.filterMap (fun l => l.frag.bind (fun f => if f.helper then none else some (l, f)))

/-- The lanes for which `fout` and `kill` are PERMISSION: all outside a fragment group, else those that have decided (R278,
R280). -/
def fragBad (e : Env) : List Nat :=
  if e.passing.isEmpty then []
  else if e.t.kind ≠ .fragment then e.passing.map (·.lid)
  else (e.fragLanes.filter (fun x => x.2.decided)).map (·.1.lid)

def foutRead (a : Opnd) (e : Env) (l : Lane) : Rd (List Nat) := readScalars e l .f32 a 4

/-- The state after `prim.fout`: the fragments' colours are handed to the overprint unit, the gang held while some wait. -/
def foutNext (e : Env) (a : Opnd) : State :=
  let s := e.settleReads (e.readChks false (foutRead a e)) e.s
  let h := s.dev.handFouts e.g.part (e.t.draw.getD 0) e.g (e.fragLanes.map (fun x => (x.1.lid, (foutRead a e x.1).val.map (BitVec.ofNat 32))))
  let s := { s with dev := h.1 }
  if h.2.isEmpty then e.done s id else e.hold s (.fout h.2)

/-- `prim.fout` (R280, R383). -/
def execPrimFout (a : Opnd) (s : State) : Out :=
  withGang s (fun e => e.gate (e.readChks false (foutRead a e)) (fun _ =>
    if !(fragBad e).isEmpty then e.raise .permission (fragBad e) 0 else .next (foutNext e a)))

/-- The state after `prim.kill`: the participating lanes' fragments are resolved without colour. -/
def killNext (e : Env) : State :=
  e.fragLanes.foldl (fun s x => s.onDev (fun d =>
    (d.modGroup e.g.gid (fun g => g.decided x.1.lid)).resolveFrag e.g.part (e.t.draw.getD 0) x.2)) (e.done e.s id)

/-- `prim.kill` (R280). -/
def execPrimKill (s : State) : Out :=
  withGang s (fun e => if !(fragBad e).isEmpty then e.raise .permission (fragBad e) 0 else .next (killNext e))

/-! Coverage (R379). -/

/-- A vertex coordinate snapped to 1/256 pixel. -/
def snap (x : FVal) : Int := FVal.toInt RCtx.plain (FVal.mul x (.fin false 1 8))

def isFinite : FVal → Bool
  | .fin _ _ _ => true
  | _ => false

/-- The edge function of an edge at a point. -/
def edgeAt (a b p : Int × Int) : Int := (b.1 - a.1) * (p.2 - a.2) - (b.2 - a.2) * (p.1 - a.1)

/-- A point is on the inner side of an edge, or on an edge that owns its points. -/
def edgeIn (a b : Int × Int) (e : Int) : Bool :=
  let dx := b.1 - a.1
  let dy := b.2 - a.2
  decide (0 < e) || (e == 0 && (decide (dy < 0) || (dy == 0 && decide (0 < dx))))

def f32w (x : FVal) : Word := BitVec.ofNat 32 (Fmt.f32.round RCtx.plain false x)

/-- The centre of a pixel, exactly. -/
def centre (p : Nat) : FVal := .fin false (2 * p + 1) (-1)

/-- Coverage of a triangle at a pixel, with b1, b2 and depth; `none` if the triangle is dropped. -/
def triAt (c : List FVal) (px py : Nat) : Option (Bool × Word × Word × Word) :=
  let at_ := fun (i : Nat) => c.getD i .zero
  let v := fun (i : Nat) => (snap (at_ (3 * i)), snap (at_ (3 * i + 1)))
  let far := fun (x : Int) => decide ((2 ^ 23 : Int) < x) || decide (x < -(2 ^ 23 : Int))
  let area := edgeAt (v 0) (v 1) (v 2)
  if !c.all isFinite || (List.range 3).any (fun i => far (v i).1 || far (v i).2) || area == 0 then none
  else
    let p : Int × Int := (256 * px + 128, 256 * py + 128)
    let neg := decide (area < 0)
    let e := fun (i j : Nat) => let x := edgeAt (v i) (v j) p; if neg then -x else x
    let inside := fun (i j : Nat) => if neg then edgeIn (v j) (v i) (e i j) else edgeIn (v i) (v j) (e i j)
    let a := f32r (FVal.ofInt (if neg then -area else area))
    let b1 := f32r (FVal.div (f32r (FVal.ofInt (e 2 0))) a)
    let b2 := f32r (FVal.div (f32r (FVal.ofInt (e 0 1))) a)
    let dz := fun (i : Nat) => f32r (FVal.sub false (at_ (3 * i + 2)) (at_ 2))
    let z := f32r (FVal.fma false b2 (dz 2) (f32r (FVal.fma false b1 (dz 1) (at_ 2))))
    some (inside 0 1 && inside 1 2 && inside 2 0, f32w b1, f32w b2, f32w z)

/-- Coverage of an ellipse, with q and depth. -/
def ellAt (c : List FVal) (px py : Nat) : Option (Bool × Word × Word × Word) :=
  let at_ := fun (i : Nat) => c.getD i .zero
  let a := at_ 3
  let b := at_ 4
  let cc := at_ 5
  if !c.all isFinite || FVal.le a .zero || FVal.le (FVal.mul a cc) (FVal.mul b b) then none
  else
    let dx := f32r (FVal.sub false (centre px) (at_ 0))
    let dy := f32r (FVal.sub false (centre py) (at_ 1))
    let q := f32r (FVal.mul a (f32r (FVal.mul dx dx)))
    let q := f32r (FVal.fma false (FVal.mul (.fin false 1 1) b) (f32r (FVal.mul dx dy)) q)
    let q := f32r (FVal.fma false cc (f32r (FVal.mul dy dy)) q)
    some (FVal.le q (.ofInt 9), f32w q, 0, f32w (at_ 2))

/-- Coverage of a point, with depth. -/
def ptAt (c : List FVal) (px py : Nat) : Option (Bool × Word × Word × Word) :=
  let at_ := fun (i : Nat) => c.getD i .zero
  if !c.all isFinite || FVal.le (at_ 3) .zero then none
  else
    let half := FVal.mul (at_ 3) (.fin false 1 (-1))
    let within := fun (x : FVal) (p : Nat) =>
      FVal.le (FVal.sub false x half) (centre p) && FVal.lt (centre p) (FVal.add false x half)
    some (within (at_ 0) px && within (at_ 1) py, 0, 0, f32w (at_ 2))

/-- What a primitive gives at a pixel: covered, v4, v5 and depth. -/
def Prim.at_ (p : Prim) (px py : Nat) : Option (Bool × Word × Word × Word) :=
  let c := p.coords.map (fun w => Fmt.f32.decode w.toNat)
  if p.kind = 0 then triAt c px py else if p.kind = 1 then ellAt c px py else ptAt c px py

/-! Quads and fragment groups (R378, R380). -/

def Draw.tw (x : Draw) : Nat := ceilDiv x.width 32
def Draw.tiles (x : Draw) : Nat := x.tw * ceilDiv x.height 32
/-- The cluster that owns a tile. -/
def Dev.tileCluster (d : Dev) (q tile : Nat) : Nat := q * (36 / d.nparts) + tile % (36 / d.nparts)

/-- The quad of a primitive at even pixel coordinates, if it covers a pixel of the target. -/
def Draw.quadAt (x : Draw) (p : Prim) (qx qy : Nat) : Option Quad :=
  let ls := [(qx, qy), (qx + 1, qy), (qx, qy + 1), (qx + 1, qy + 1)].filterMap (fun c => (p.at_ c.1 c.2).map (fun r =>
    ({ px := c.1, py := c.2, covered := r.1 && decide (c.1 < x.width) && decide (c.2 < x.height), w4 := r.2.1, w5 := r.2.2.1,
       depth := r.2.2.2 } : QuadLane)))
  if ls.any (·.covered) then some { key := p.key, payload := p.payload, lanes := ls } else none

/-- The quads of a primitive in a tile, row by row. -/
def Draw.quadsOf (x : Draw) (tile : Nat) (p : Prim) : List Quad :=
  (List.range 16).flatMap (fun (j : Nat) => (List.range 16).filterMap (fun (i : Nat) =>
    x.quadAt p (32 * (tile % x.tw) + 2 * i) (32 * (tile / x.tw) + 2 * j)))

def insertPrim (p : Prim) : List Prim → List Prim
  | [] => [p]
  | y :: ys => if y.key.lt p.key then y :: insertPrim p ys else p :: y :: ys

/-- The primitives whose place in key order is fixed: every mesh group before theirs has closed its stream. -/
def Draw.settled (x : Draw) : List Prim :=
  (x.prims.filter (fun p => (x.closedGroups.filter (· < p.key.mesh)).length == p.key.mesh)).foldl (fun l p => insertPrim p l) []

def Draw.releasedOf (x : Draw) (tile : Nat) : Nat := (x.released.find? (fun r => r.1 == tile)).elim 0 (·.2)

/-- The quads of a tile that can be formed and have not been released, in ascending sequence key. -/
def Draw.ready (x : Draw) (tile : Nat) : List Quad := (x.settled.flatMap (x.quadsOf tile)).drop (x.releasedOf tile)

/-- Every mesh group of the draw has closed its stream. -/
def Draw.allClosed (x : Draw) : Bool := decide (x.mesh.teams * x.mesh.groups ≤ x.closedGroups.length)

def Draw.groupWidth (x : Draw) : Nat := widthCode x.fwidth

def Cluster.frame? (c : Cluster) (draw tile : Nat) : Option TileFrame := c.frames.find? (fun f => f.draw == draw && f.tile == tile)

/-- The state after a group of quads of a tile has been formed: its fragments are pending. -/
def releaseNext (s : State) (q : Nat) (x : Draw) (tile : Nat) (quads : List Quad) : State :=
  let first := 4 * x.releasedOf tile
  let new := quads.flatMap (fun k => (k.lanes.filter (·.covered)).map (fun l =>
    ({ key := k.key, tile := tile, px := l.px, py := l.py, st := .pending } : DrawFrag)))
  s.onDev (fun d => (d.modPart q (fun p => p.modDraw x.idx (fun x =>
      { x with released := (tile, x.releasedOf tile + quads.length) :: x.released.filter (fun r => r.1 != tile),
               frags := x.frags ++ new }))).modCluster (s.dev.tileCluster q tile) (fun k =>
    { k with frags := k.frags ++ [{ draw := x.idx, tile := tile, first := first, quads := quads }] }))

/-- `FRAGMENT_GROUP_RELEASE` (R380): a group of `count` quads of a tile that holds a frame. -/
def execFragmentGroupRelease (part draw tile count : Nat) (s : State) : Out :=
  match (s.dev.part part).draw? draw with
  | none => .fault .notEnabled
  | some x =>
    let c := s.dev.tileCluster part tile
    let quads := (x.ready tile).take count
    if !s.dev.working part || ((s.dev.cluster c).frame? draw tile).isNone || count == 0 || decide (x.groupWidth / 4 < count) ||
        decide (quads.length < count) then .fault .notEnabled
    else .next (releaseNext s part x tile quads)

def f32Reg (w : Word) : Reg := { bits := w, tag := .f32 }

/-- The lanes of a fragment group: those of its quads, then lanes that start exited. -/
def fragLanes (x : Draw) (f : FragGroup) : List Lane :=
  let ls := f.quads.flatMap (fun k => k.lanes.map (fun l => (k, l)))
  (List.range x.groupWidth).map (fun lid => match ls[lid]? with
    | some (k, l) =>
      let regs := n64Regs x.farg ++ [n32Reg (l.px + 65536 * l.py), { bits := k.payload, tag := .n32 }, f32Reg l.w4, f32Reg l.w5,
                                     f32Reg l.depth, n32Reg (if l.covered then 1 else 0)]
      let glid := BitVec.ofNat 64 (0xE000000000000000 + f.tile * 2 ^ 40 + (f.first + lid) % 2 ^ 40)
      { newLane lid x.fregs x.fentry glid (stackTop 0) 0 regs false with
        frag := some { key := k.key, tile := f.tile, px := l.px, py := l.py, helper := !l.covered, decided := false } }
    | none => newLane lid x.fregs x.fentry 0 (stackTop 0) 0 [] true)

/-- The core of a cluster with the fewest resident lanes among those on which a need fits, lowest among equals (R358). -/
def Dev.coreInCluster (d : Dev) (c : Nat) (n : CoreNeed) : Option Nat :=
  ((List.range 4).map (fun i => 4 * c + i)).foldl (fun best k =>
    if !d.coreFits k n then best
    else match best with
      | none => some k
      | some b => if d.lanesOn k < d.lanesOn b then some k else some b) none

/-- The state after a fragment group has been placed as a team of one group. -/
def fragNext (s : State) (q cluster core : Nat) (x : Draw) (f : FragGroup) (rest : List FragGroup) : State :=
  let s := s.carve core 0
  let d := s.dev
  let w := x.groupWidth
  let tid := d.nextTid
  let t := { newTeam tid .fragment q 0 0 (plainShape x.fentry x.farg w x.fregs 0) [core] 1 (d.cycOf q core) with draw := some f.draw }
  let g := newGroup d.nextGid tid q 0 w x.fregs 0 core ((d.plainFree core).headD 0) (d.slotFor core) (d.cycOf q core)
    (n64Regs x.farg ++ [n32Reg f.draw, n32Reg f.tile]) (fragLanes x f)
  { st := s.st.acquire core, dev := { ((d.modCluster cluster (fun c => { c with frags := rest })).addGroup g) with
    teams := d.teams ++ [t], nextTid := tid + 1, nextGid := d.nextGid + 1 } }

/-- `FRAGMENT_GROUP_PLACEMENT` (R380): the fragment group of a cluster formed first. -/
def execFragmentGroupPlacement (cluster : Nat) (s : State) : Out :=
  let q := s.dev.partOfCore (4 * cluster)
  match (s.dev.cluster cluster).frags with
  | [] => .fault .notEnabled
  | f :: rest => match (s.dev.part q).draw? f.draw with
    | none => .fault .notEnabled
    | some x =>
      let w := x.groupWidth
      match s.dev.coreInCluster cluster { groups := 1, lanes := w, regs := w * x.fregs, scratch := 0, acc := 0 } with
      | none => .fault .notEnabled
      | some core =>
        if !s.dev.working q then .fault .notEnabled else .next (fragNext s q cluster core x f rest)

/-! Tile frames (R377, R378). -/

/-- A tile of a draw that needs its frame no more or never will. -/
def Dev.tileOver (d : Dev) (q tile : Nat) (x : Draw) : Bool :=
  x.written.contains tile ||
  (x.allClosed && (x.ready tile).isEmpty && x.releasedOf tile == 0 && ((d.cluster (d.tileCluster q tile)).frame? x.idx tile).isNone)

/-- The rows of a tile that lie in the target: address and pixel count, with the row in the tile. -/
def Draw.tileRows (x : Draw) (tile : Nat) : List (Nat × Nat × Nat) :=
  let x0 := 32 * (tile % x.tw)
  let y0 := 32 * (tile / x.tw)
  (List.range (min 32 (x.height - y0))).map (fun r => (r, (x.target.toNat + 16 * ((y0 + r) * x.width + x0)) % 2 ^ 64, min 32 (x.width - x0)))

/-- A tile's frame operation stands parked. -/
def Part.frameParked (p : Part) (draw tile : Nat) : Bool := p.parks.any (fun k => k.2 == .frame draw tile)

/-- A frame operation that met a fault (R377): a park record of UNIT 8 for an absent page, else the halt line rises with a
fault record of UNIT 8. -/
def State.frameStop (s : State) (q draw tile : Nat) (st : EngStop) (va : Nat) : State :=
  match st with
  | .absent va => s.openPark q { StopRec.blank with unit := 8, core := 0xFFFF, addr := va } (.frame draw tile)
  | .fault c => s.onDev (fun d => d.raiseFault q
      { gid := none, code := c, pc := 0, mask := 0, addr := BitVec.ofNat 64 va, core := 0xFFFF, gslot := 0, gix := 0, tix := 0, launchId := 0,
        unit := 8, detail := 0, delivered := [], written := none, header := false, hword := none, trap := false, found := s.dev.time })
  | .ok => s

/-- Rows read one after another until one stops: the pixels' words by row. -/
def State.readRows (s : State) (a : Agent) : List (Nat × Nat × Nat) → State × List Word × EngStop × Nat
  | [] => (s, [], .ok, 0)
  | r :: rs => match s.engRead a r.2.1 (16 * r.2.2) with
    | (s, bs, .ok) =>
      let y := s.readRows a rs
      (y.1, wordsOf bs ++ List.replicate (128 - 4 * r.2.2) 0 ++ y.2.1, y.2.2)
    | (s, _, e) => (s, [], e, s.stopsAt a false r.2.1 (16 * r.2.2))

/-- A tile takes a frame of its cluster, with these pixels. -/
def State.takeFrame (s : State) (c draw tile : Nat) (ws : List Word) : State :=
  s.onDev (fun d => d.modCluster c (fun k =>
    { k with frames := k.frames ++ [{ draw := draw, tile := tile, pixels := (ws ++ List.replicate 4096 0).take 4096, closed := [] }] }))

/-- The state after a frame has been loaded: cleared, or read from the target unless a page of it stops the read. -/
def frameNext (s : State) (q : Nat) (x : Draw) (tile : Nat) : State :=
  let c := s.dev.tileCluster q tile
  if x.clear then s.takeFrame c x.idx tile ((List.range 1024).flatMap (fun _ => x.clearV))
  else
    let r := s.readRows (unitAgent s.dev q) (x.tileRows tile)
    match r.2.2.1 with
    | .ok => r.1.takeFrame c x.idx tile r.2.1
    | st => r.1.frameStop q x.idx tile st r.2.2.2

/-- `TILE_FRAME_LOAD` (R378): a tile takes one of the draw's four frames of its cluster at its first fragment, after every
earlier draw on the target has written the tile back. -/
def execTileFrameLoad (part draw tile : Nat) (s : State) : Out :=
  match (s.dev.part part).draw? draw with
  | none => .fault .notEnabled
  | some x =>
    let p := s.dev.part part
    let c := s.dev.tileCluster part tile
    let cl := s.dev.cluster c
    let before := p.draws.filter (fun y => decide (y.idx < x.idx) && y.target == x.target && y.width == x.width && y.height == x.height)
    if !s.dev.working part || decide (x.tiles ≤ tile) || (x.ready tile).isEmpty || x.written.contains tile ||
        (cl.frame? draw tile).isSome || decide (4 ≤ (cl.frames.filter (fun f => f.draw == draw)).length) ||
        p.frameParked draw tile || before.any (fun y => !s.dev.tileOver part tile y) then .fault .notEnabled
    else
      .next (frameNext s part x tile)

def State.writeRows (s : State) (a : Agent) (f : TileFrame) : List (Nat × Nat × Nat) → State × EngStop × Nat
  | [] => (s, .ok, 0)
  | r :: rs => match s.engWrite a r.2.1 (bytesOf ((f.pixels.drop (128 * r.1)).take (4 * r.2.2))) with
    | (s, .ok) => s.writeRows a f rs
    | (s, e) => (s, e, s.stopsAt a true r.2.1 (16 * r.2.2))

/-- A draw completes (R349) when its launch, its fragment groups and its overprint writes are over; its frame allocations are
released. -/
def Dev.finishDraw (d : Dev) (q draw : Nat) : Dev :=
  let p := d.part q
  match p.draw? draw with
  | none => d
  | some x =>
    let busy := p.launches.any (fun l => l.lno == x.launch) || !x.allClosed ||
      d.teams.any (fun t => t.part == q && t.draw == some draw) ||
      (d.clustersOf q).any (fun c => (d.cluster c).frags.any (fun f => f.draw == draw)) ||
      (!x.prims.isEmpty && (List.range x.tiles).any (fun tile => !d.tileOver q tile x))
    if busy then d
    else (d.modPart q (fun p => { p with draws := p.draws.filter (fun y => y.idx != draw), progress := 0 })).packetDone q x.queue x.serial 0 0

/-- A draw that completes has all its writes performed at partition scope (R349). -/
def State.finishDraw (s : State) (q draw : Nat) : State :=
  let t := s.onDev (fun d => d.finishDraw q draw)
  if ((t.dev.part q).draw? draw).isSome then t else t.onSt (fun st => (s.dev.coresOf q).foldl (fun st c => st.release c) st)

/-- The state after a tile has been written back: its frame is free and the draw may be complete. -/
def writeBackNext (s : State) (q : Nat) (x : Draw) (f : TileFrame) : State :=
  let r := s.writeRows (unitAgent s.dev q) f (x.tileRows f.tile)
  match r.2.1 with
  | .ok => ((r.1.onDev (fun d => (d.modCluster (s.dev.tileCluster q f.tile) (fun k =>
      { k with frames := k.frames.filter (fun g => !(g.draw == x.idx && g.tile == f.tile)) })).modPart q (fun p =>
      p.modDraw x.idx (fun y => { y with written := y.written ++ [f.tile] })))).finishDraw q x.idx).postQueue q x.queue
  | st => r.1.frameStop q x.idx f.tile st r.2.2

/-- `TILE_WRITE_BACK` (R378). -/
def execTileWriteBack (part draw tile : Nat) (s : State) : Out :=
  match (s.dev.part part).draw? draw with
  | none => .fault .notEnabled
  | some x =>
    let c := s.dev.tileCluster part tile
    match (s.dev.cluster c).frame? draw tile with
    | none => .fault .notEnabled
    | some f =>
      if !s.dev.working part || !x.allClosed || !(x.ready tile).isEmpty || (s.dev.part part).frameParked draw tile ||
          x.frags.any (fun k => k.tile == tile && !k.st.isResolved) then .fault .notEnabled
      else .next (writeBackNext s part x f)

/-! Blending (R381-R383). -/

/-- A source of a micro-op at a channel. -/
def blendSrc (thresh : Word) (col src tmp : List Word) (code c : Nat) : Word :=
  let at_ := fun (l : List Word) (i : Nat) => l.getD i 0
  if code = 0 then at_ col c else if code = 1 then at_ src c else if code = 2 then at_ tmp c else if code = 3 then 0
  else if code = 4 then 0x3F800000 else if code = 5 then thresh else if code = 6 then at_ col 3 else if code = 7 then at_ src 3
  else at_ tmp 3

def maskChannels (m : Nat) : List Nat :=
  if m = 0 then [0, 1, 2, 3] else if m = 1 then [0, 1, 2] else if m = 2 then [3] else if m = 3 then [0] else if m = 4 then [1]
  else if m = 5 then [2] else [0, 1]

/-- The new value of a channel; a NaN is the default NaN (R127). -/
def blendChannel (bop : Nat) (thresh a b dst : Word) : Word :=
  let v := fun (w : Word) => Fmt.f32.decode w.toNat
  if bop = 0 then f32w (FVal.mul (v a) (v b))
  else if bop = 1 then f32w (FVal.add false (v a) (v b))
  else if bop = 2 then f32w (FVal.sub false (v a) (v b))
  else if bop = 3 then f32w (FVal.fma false (v a) (f32r (FVal.sub false (v b) (v dst))) (v dst))
  else if bop = 4 then f32w (FVal.min (v a) (v b))
  else if bop = 5 then f32w (FVal.max (v a) (v b))
  else f32w (v (if FVal.le (v thresh) (v a) then b else dst))

/-- The blend program over tile colour and temporary; whether the pixel closes. -/
def blend (thresh : Word) (src : List Word) : List Word → List Word → List Word → List Word × Bool
  | [], col, _ => (col, false)
  | op :: ops, col, tmp =>
    let n := op.toNat
    let bop := fld n 13 3
    let a := fun (c : Nat) => blendSrc thresh col src tmp (fld n 4 4) c
    let b := fun (c : Nat) => blendSrc thresh col src tmp (fld n 0 4) c
    let v := fun (w : Word) => Fmt.f32.decode w.toNat
    if bop = 7 then (if FVal.lt (v (a 0)) (v (b 0)) then (col, true) else blend thresh src ops col tmp)
    else
      let cs := maskChannels (fld n 9 3)
      let upd := fun (l : List Word) => l.zipIdx.map (fun x => if cs.contains x.2 then blendChannel bop thresh (a x.2) (b x.2) x.1 else x.1)
      if bit n 12 then blend thresh src ops col (upd tmp) else blend thresh src ops (upd col) tmp

/-- The unresolved fragment of a pixel with the lowest key. -/
def Draw.lowest (x : Draw) (px py : Nat) : Option DrawFrag :=
  (x.frags.filter (fun k => k.px == px && k.py == py && !k.st.isResolved)).foldl (fun best k => match best with
    | none => some k
    | some b => if k.key.lt b.key then some k else some b) none

/-- The state after a fragment's program has run on its pixel: the fragment is resolved. A closed pixel keeps its colour. -/
def overprintNext (s : State) (q : Nat) (x : Draw) (f : TileFrame) (k : DrawFrag) (src : List Word) (px py : Nat) : State :=
  let at_ := 32 * (py % 32) + px % 32
  let r := if f.closed.contains at_ then ((f.pixels.drop (4 * at_)).take 4, true)
    else blend x.thresh src x.prog ((f.pixels.drop (4 * at_)).take 4) [0, 0, 0, 0]
  let upd := fun (f : TileFrame) => { f with pixels := setFrom f.pixels (4 * at_) r.1, closed := if r.2 then insertNew f.closed at_ else f.closed }
  s.onDev (fun d => (d.modCluster (d.tileCluster q k.tile) (fun c =>
    { c with frames := c.frames.map (fun g => if g.draw = x.idx ∧ g.tile = k.tile then upd g else g) })).resolveFrag q x.idx
      { key := k.key, tile := k.tile, px := px, py := py, helper := false, decided := true })

/-- `OVERPRINT_FRAGMENT` (R382, R383): the pixel's lowest unresolved fragment, once every mesh group of a smaller (draw,
mesh) index has closed its stream. -/
def execOverprintFragment (part draw px py : Nat) (s : State) : Out :=
  match (s.dev.part part).draw? draw with
  | none => .fault .notEnabled
  | some x => match x.lowest px py with
    | some k => match k.st, (s.dev.cluster (s.dev.tileCluster part k.tile)).frame? draw k.tile with
      | .fout src, some f =>
        let earlier := (s.dev.part part).draws.any (fun y => decide (y.idx < x.idx) && !y.allClosed)
        if !s.dev.working part || earlier || (x.closedGroups.filter (· < k.key.mesh)).length != k.key.mesh then .fault .notEnabled
        else .next (overprintNext s part x f k src px py)
      | _, _ => .fault .notEnabled
    | none => .fault .notEnabled

end Sys2Proof.Machine
end

