-- ==== Sys2Proof/Machine/Engines.lean ====
section
/-!
DEFINITION. Engine operations: descriptors and their checks (R269, R272-R277), issue, and the event that completes one
(R202, R237, R238, R270, R271, R308, R318).
-/
namespace Sys2Proof.Machine
open Sys2Proof

/-! Descriptor checks. -/

/-- A byte range in the space of the range locks; `none` outside the scratchpad in the local window (R179, R202). -/
def Agent.range (a : Agent) (va n : Nat) : Option (Nat × Nat) :=
  if va + n ≤ windowBase then some (va, n)
  else if va < windowBase then none
  else
    let off := va - windowBase
    if off + n ≤ a.scratch then some (2 ^ 64 + scrKey a.tid a.member off, n)
    else if a.pair ∧ 0x100000 ≤ off ∧ off - 0x100000 + n ≤ a.scratch then
      some (2 ^ 64 + scrKey a.tid (1 - a.member) (off - 0x100000), n)
    else none

/-- A local-window range (R273, R274, R276). -/
def Agent.offRange (a : Agent) (off n : Nat) : Option (Nat × Nat) := a.range (windowBase + off) n

def disjoint (a b : Nat × Nat) : Bool := !overlaps a b

/-- The bounding range of strided rows (R272). -/
def spanOf (base n s1 c1 s2 c2 : Int) : Nat × Nat :=
  let lo := min 0 ((c1 - 1) * s1) + min 0 ((c2 - 1) * s2)
  let hi := max 0 ((c1 - 1) * s1) + max 0 ((c2 - 1) * s2) + n
  (wrapVa (base + lo), (hi - lo).toNat)

/-- The parts of a range in the space of the range locks: outside the local window, in the own half of the scratchpad, and in
the other half of a paired team's; the rest of the window has none (R179, R202). Addresses are modulo 2^64. -/
def Agent.parts (a : Agent) (r : Nat × Nat) : List (Nat × Nat) :=
  let cut := fun (lo hi key : Nat) =>
    let x := max r.1 lo
    let y := min (r.1 + r.2) hi
    if x < y then [(key + (x - lo), y - x)] else []
  let other := windowBase + 0x100000
  cut 0 windowBase 0 ++ cut (2 ^ 64) (2 ^ 64 + windowBase) 0 ++
  cut windowBase (windowBase + a.scratch) (2 ^ 64 + scrKey a.tid a.member 0) ++
  (if a.pair then cut other (other + a.scratch) (2 ^ 64 + scrKey a.tid (1 - a.member) 0) else [])

/-- Whether every address of a range lies outside the local window or in the team's scratchpad. -/
def Agent.reaches (a : Agent) (r : Nat × Nat) : Bool := ((a.parts r).map (·.2)).sum == r.2

/-- Whether two ranges of addresses modulo 2^64 overlap. -/
def meetRanges (x y : Nat × Nat) : Bool := overlaps x y || overlaps (x.1 + 2 ^ 64, x.2) y || overlaps x (y.1 + 2 ^ 64, y.2)

/-- Source and destination ranges of a copy, if its descriptor is not refused (R272). The addresses of its rows are asked, not
the gaps between them; the range locks hold the bounding ranges. -/
def Agent.copyRanges (a : Agent) (bs : List Byte) : Option (List (Nat × Nat) × List (Nat × Nat)) :=
  let c0 := field bs 32 4
  let c1 := field bs 36 4
  let c2 := field bs 40 4
  let src := spanOf (field bs 0 8) c0 (sfield bs 16) c1 (sfield bs 20) c2
  let dst := spanOf (field bs 8 8) c0 (sfield bs 24) c1 (sfield bs 28) c2
  if !zeroAt bs 44 20 ∨ c0 < 1 ∨ 2 ^ 24 < c0 ∨ c1 < 1 ∨ 65536 < c1 ∨ c2 < 1 ∨ 65536 < c2 then none
  else if meetRanges src dst ∨ !(copyRows bs).all (fun r => a.reaches (r.1, c0) && a.reaches (r.2, c0)) then none
  else some (a.parts src, a.parts dst)

/-- The arrays of a sort (R273): key bytes, value bytes (0 with NOVAL), and the ranges of KEYS, VALS and TMP. -/
def collBytes (bs : List Byte) : Nat × Nat :=
  let fl := field bs 18 1
  (if bit fl 0 then 8 else 4, if bit fl 2 then 0 else if field bs 19 1 = 1 then 8 else 4)

def Agent.collRanges (a : Agent) (bs : List Byte) : Option (List (Nat × Nat) × List (Nat × Nat)) :=
  let kv := collBytes bs
  let n := field bs 12 4
  let lo := field bs 16 1
  let hi := field bs 17 1
  let offs := [(field bs 0 4, n * kv.1)] ++ (if kv.2 = 0 then [] else [(field bs 4 4, n * kv.2)]) ++
    [(field bs 8 4, n * (kv.1 + kv.2))]
  let rs := offs.filterMap (fun o => a.offRange o.1 o.2)
  let ok := zeroAt bs 20 12 && decide (field bs 19 1 ≤ 1) && decide (field bs 18 1 < 16) && decide (lo ≤ hi) &&
    decide (hi < 8 * kv.1) && decide (1 ≤ n ∧ n ≤ 65536) && offs.all (fun o => o.1 % 8 == 0) && rs.length == offs.length &&
    (List.range rs.length).all (fun i => (rs.drop (i + 1)).all (fun y => match rs[i]? with | some x => disjoint x y | none => true))
  if ok then some ([], rs) else none

/-- The index array and destination rows of a gather (R274). -/
def Agent.gathRanges (a : Agent) (bs : List Byte) : Option (List (Nat × Nat) × List (Nat × Nat)) :=
  let n := field bs 16 4
  let rowB := field bs 20 4
  let ok := zeroAt bs 28 4 && decide (field bs 24 4 % 16 = 0) && decide (rowB % 16 = 0 ∧ 16 ≤ rowB ∧ rowB ≤ 65536) &&
    decide (1 ≤ n ∧ n ≤ 65536) && decide (field bs 12 4 % 16 = 0) && decide (field bs 8 4 % 4 = 0) && decide (field bs 0 8 % 16 = 0)
  match a.offRange (field bs 8 4) (4 * n), a.offRange (field bs 12 4) (n * rowB) with
  | some x, some y => if ok then some ([x], [y]) else none
  | _, _ => none

/-- The local range of a transfer (R275). -/
def Agent.xferRanges (a : Agent) (bs : List Byte) : Option (List (Nat × Nat) × List (Nat × Nat)) :=
  let fl := field bs 27 1
  let port := field bs 26 1
  let n := field bs 16 8
  let ok := zeroAt bs 40 24 && zeroAt bs 28 4 && decide (fl < 4) && (decide (port ≤ 11) || port == 0xFF) &&
    decide (field bs 24 2 ≤ 4095) && decide (1 ≤ n ∧ n ≤ 2 ^ 40) && (!bit fl 1 || decide (field bs 32 8 % 8 = 0))
  match a.range (field bs 0 8) n with
  | some x => if ok then some (if bit fl 0 then ([], [x]) else ([x], [])) else none
  | none => none

/-- A, B and C of a sampler-matrix operation (R276). -/
def Agent.smmaRanges (a : Agent) (fm : List Word) (bs : List Byte) : Option (List (Nat × Nat) × List (Nat × Nat)) :=
  let m := field bs 12 2
  let n := field bs 14 2
  let k := field bs 16 2
  let fa := fm.getD (fld (field bs 18 1) 0 3) 0
  let fb := fm.getD (fld (field bs 18 1) 4 3) 0
  let w := if contOf fa = 1 then 4 else 8
  let ok := zeroAt bs 20 12 && decide (field bs 19 1 ≤ 1) && decide (fld (field bs 18 1) 3 1 = 0) && decide (field bs 18 1 < 128) &&
    contOf fa == contOf fb && blkOf fa == 0 && blkOf fb == 0 && decide (1 ≤ m ∧ m ≤ 4096) &&
    decide (8 ≤ n ∧ n ≤ 4096 ∧ n % 8 = 0) && decide (1 ≤ k ∧ k ≤ 32768 ∧ k % (128 / w) = 0) && decide (field bs 8 4 % 16 = 0)
  match a.offRange (field bs 0 4) (m * k * w / 8), a.offRange (field bs 4 4) (k * n * w / 8), a.offRange (field bs 8 4) (m * n * 4) with
  | some x, some y, some z => if ok then some ([x, y], [z]) else none
  | _, _, _ => none

def EngKind.descLen : EngKind → Nat
  | .copy | .xfer => 64
  | _ => 32

/-- The ranges an operation locks, if its descriptor is not refused. -/
def Agent.descRanges (a : Agent) (fm : List Word) (kind : EngKind) (bs : List Byte) : Option (List (Nat × Nat) × List (Nat × Nat)) :=
  match kind with
  | .copy => a.copyRanges bs
  | .coll => a.collRanges bs
  | .gath => a.gathRanges bs
  | .xfer => a.xferRanges bs
  | .smma => a.smmaRanges fm bs
  | .wpin | .winv => some ([], [])

/-! Issue (R269). -/

/-- The state as the operations of the participating lanes start; the gang is held until all of them have. -/
def engStart (e : Env) (s : State) (reqs : List EngReq) : State :=
  if reqs.isEmpty then e.done s id
  else
    let r := s.dev.startEngs e.g e.m.scope e.g.fm reqs
    let s := { s with dev := { r.1 with nextOp := r.1.nextOp + 1 } }
    let due := if s.dev.lockup e.g.part then some ((s.dev.part e.g.part).cyc + 208) else none
    if r.2.isEmpty then e.done s id else e.hold s (.eng r.1.nextOp due r.2 e.m.scope e.g.fm)

/-- The lanes that write the handle of a lane's operation, with their destinations. -/
def engWriters (e : Env) (u : Bool) (d : Opnd) (ls : List Lane) : List (Nat × Dst) := ls.map (fun l => (l.lid, (dest e l u d 1 false).val))

/-- The checks of an engine instruction: what it reads, and its destination. -/
def engChks {α : Type} (e : Env) (u : Bool) (d : Opnd) (rd : Env → Lane → Rd α) : List (Nat × Chk) :=
  e.readChks u (rd e) ++ e.lanes.map (fun l => (l.lid, (dest e l u d 1 false).chk))

/-- The descriptor reads of an engine instruction. -/
def engReqs (e : Env) (u : Bool) (d a : Opnd) : List Req :=
  (e.accessLanes u).map (fun x => { lane := x.1, va := (targetRead a e x.1).val, data := [], writers := engWriters e u d x.2 })

/-- The descriptors as read, and the state after reading them. -/
def engDescs (e : Env) (u : Bool) (d a : Opnd) (n : Nat) (ps : List (Req × Place)) : State × List (Req × List Byte) :=
  ps.foldl (fun (acc : State × List (Req × List Byte)) p =>
    let x := e.readNow n p acc.1
    (x.1, acc.2 ++ [(p.1, x.2)])) (e.touchAll false ps (e.settleReads (engChks e u d (targetRead a)) e.s), [])

/-- Each descriptor with the ranges its operation locks; none where the descriptor is refused. -/
def engMade (e : Env) (kind : EngKind) (ds : List (Req × List Byte)) : List (Req × List Byte × Option (List (Nat × Nat) × List (Nat × Nat))) :=
  ds.map (fun x => (x.1, x.2, (e.agent x.1.lane).descRanges e.g.fm kind x.2))
def engRefused (e : Env) (kind : EngKind) (ds : List (Req × List Byte)) : List Nat :=
  ((engMade e kind ds).filter (fun x => x.2.2.isNone)).map (·.1.lane.lid)

/-- The places that a copy's source or destination leads to, line by line (R272). -/
def Agent.copyPlaces (a : Agent) (st : Store) (src : Bool) (bs : List Byte) : List Place :=
  (copyRows bs).flatMap (fun r => (piecesOf (if src then r.1 else r.2) (field bs 32 4)).filterMap (fun p =>
    match a.resolve st p.1 .none with | .ok pl => some pl | _ => none))

/-- A copy has a deadline in lockup mode unless it reaches a place that has none (R391). -/
def Agent.copyTimed (a : Agent) (st : Store) (bs : List Byte) : Bool :=
  !((a.copyPlaces st true bs ++ a.copyPlaces st false bs).any (·.untimed))

/-- The state after an engine instruction. -/
def engNext (e : Env) (kind : EngKind) (r : State × List (Req × List Byte)) : State :=
  engStart e r.1 ((engMade e kind r.2).map (fun x =>
    let locks := x.2.2.getD ([], [])
    { kind := kind, lid := x.1.lane.lid, writers := x.1.writers, desc := x.2.1, hdrVa := 0, lockSrc := locks.1,
      lockDst := locks.2, pc := e.sel.pc, all := e.passing.map (·.lid), issued := (e.s.dev.part e.g.part).cyc,
      timed := e.s.dev.lockup e.g.part && kind == .copy && (e.agent x.1.lane).copyTimed r.1.st x.2.1 }))

/-- `eng.copy`, `coll`, `gath`, `xfer` and `smma` at issue. -/
def engIssue (kind : EngKind) (u : Bool) (d a : Opnd) (s : State) : Out :=
  withGang s (fun e =>
    let n := kind.descLen
    e.gate (engChks e u d (targetRead a)) (fun _ =>
      match e.checkAddrs n n .read false true (engReqs e u d a) with
      | .stop o => o
      | .ok ps =>
        if e.orderStops n ps then .fault .blocked
        else e.readGate n ps (fun _ =>
          let r := engDescs e u d a n ps
          if !(engRefused e kind r.2).isEmpty then e.raise .illegalOperand (engRefused e kind r.2) 0
          else .next (engNext e kind r))))

/-- `eng.copy` (R272). -/
def execEngCopy (u : Bool) (d a : Opnd) (s : State) : Out := engIssue .copy u d a s
/-- `eng.coll` (R273). -/
def execEngColl (u : Bool) (d a : Opnd) (s : State) : Out := engIssue .coll u d a s
/-- `eng.gath` (R274). -/
def execEngGath (u : Bool) (d a : Opnd) (s : State) : Out := engIssue .gath u d a s
/-- `eng.xfer` (R275). -/
def execEngXfer (u : Bool) (d a : Opnd) (s : State) : Out := engIssue .xfer u d a s
/-- `eng.smma` (R276). -/
def execEngSmma (u : Bool) (d a : Opnd) (s : State) : Out := engIssue .smma u d a s

/-- The address of a header by its index in the heap (R364), and the lanes whose index lies beyond the heap. -/
def headerVa (e : Env) (i : Nat) : Nat := (e.desc.heap.toNat + 64 * i) % 2 ^ 64
def overHeap (e : Env) (rs : List (Lane × Nat)) : List (Lane × Nat) := rs.filter (fun r => decide (e.desc.heapN ≤ r.2))
def headerReqs (e : Env) (rs : List (Lane × Nat)) : List Req :=
  rs.map (fun r => { lane := r.1, va := headerVa e r.2, data := [], writers := [] })

/-- Headers read through the texel cache of each lane's sampler: the state after, and each lane with its header. -/
def readHeaders (e : Env) (ps : List (Req × Place)) : State × List (Lane × DWord × List Byte) :=
  ps.foldl (fun (acc : State × List (Lane × DWord × List Byte)) p =>
    let x := (acc.1.correctAt (texelSites e.g.core (p.1.lane.lid / 4 % 4) p.2)).texRead e.g.core (p.1.lane.lid / 4 % 4) p.2 64
    (x.1, acc.2 ++ [(p.1.lane, BitVec.ofNat 64 p.1.va, x.2)])) (e.touchAll false ps e.s, [])

/-- An earlier access of a lane that the header is read for must be performed first (R182, R185): one header alone is read for every
lane that takes part. -/
def Env.headerStops (e : Env) (ps : List (Req × Place)) : Bool :=
  ps.any (fun p => (if ps.length = 1 then e.passing else [p.1.lane]).any (fun l => e.s.dev.laneBlocked e.g.gid l.lid p.2 64))

/-- The headers whose copies in the texel caches hold an uncorrectable error (R282). -/
def Env.headersHurt (e : Env) (ps : List (Req × Place)) : List (Req × Place) :=
  ps.filter (fun p => (texelSites e.g.core (p.1.lane.lid / 4 % 4) p.2).any e.flawed)

/-- The headers that lanes name by index, read at issue (R266, R364). -/
def Env.headers (e : Env) (rs : List (Lane × Nat)) (k : State → List (Lane × DWord × List Byte) → Out) : Out :=
  if !(overHeap e rs).isEmpty then
    e.raise .permission ((overHeap e rs).map (·.1.lid)) (match overHeap e rs with | r :: _ => BitVec.ofNat 64 (headerVa e r.2) | [] => 0)
  else match e.checkPlaces 64 .read (headerReqs e rs) with
    | .stop o => o
    | .ok ps =>
      if e.headerStops ps then .fault .blocked
      else if !(e.headersHurt ps).isEmpty then e.raise .eccUncorrectable ((e.headersHurt ps).map (·.1.lane.lid)) 0
      else e.readGate 64 ps (fun _ => k (readHeaders e ps).1 (readHeaders e ps).2)

/-- The header index a lane of `eng.wpin` or `eng.winv` reads, and the lanes with theirs. -/
def weightRead (a : Opnd) (e : Env) (l : Lane) : Rd Nat := (read32 e l a).map (fun x => x.1.toNat)
def weightActs (e : Env) (u : Bool) (a : Opnd) : List (Lane × Nat) := (e.accessLanes u).map (fun x => (x.1, (weightRead a e x.1).val))
/-- The lanes whose header is not a neural one (R277). -/
def notNeural (hs : List (Lane × DWord × List Byte)) : List Nat :=
  (hs.filter (fun h => !headerOk h.2.2 || field h.2.2 0 1 != 1)).map (·.1.lid)

/-- The state after `eng.wpin` or `eng.winv`. -/
def weightNext (e : Env) (kind : EngKind) (u : Bool) (d a : Opnd) (r : State × List (Lane × DWord × List Byte)) : State :=
  engStart e (e.settleReads (engChks e u d (weightRead a)) r.1) (r.2.map (fun h =>
    let who := match (e.accessLanes u).find? (fun x => x.1.lid == h.1.lid) with | some x => x.2 | none => []
    { kind := kind, lid := h.1.lid, writers := engWriters e u d who, desc := h.2.2, hdrVa := h.2.1, lockSrc := [],
      lockDst := [], pc := e.sel.pc, all := e.passing.map (·.lid), issued := (e.s.dev.part e.g.part).cyc, timed := false }))

/-- `eng.wpin` and `eng.winv` at issue (R277): the header must be neural. -/
def weightIssue (kind : EngKind) (u : Bool) (d a : Opnd) (s : State) : Out :=
  withGang s (fun e =>
    e.gate (engChks e u d (weightRead a)) (fun _ =>
      e.headers (weightActs e u a) (fun s hs =>
        if !(notNeural hs).isEmpty then e.raise .format (notNeural hs) 0 else .next (weightNext e kind u d a (s, hs)))))

/-- `eng.wpin` (R277). -/
def execEngWpin (u : Bool) (d a : Opnd) (s : State) : Out := weightIssue .wpin u d a s
/-- `eng.winv` (R277). -/
def execEngWinv (u : Bool) (d a : Opnd) (s : State) : Out := weightIssue .winv u d a s

/-! What the engines do. -/

/-- How an operation's run ends: it is over with STATE and FCODE, or stops at an absent page with the units done. -/
inductive EngEnd where
  | over (state fcode : Nat)
  | parked (progress : Nat) (va : Nat)
  deriving DecidableEq, Repr

/-- Who an operation acts as: its team on its core, or the partition's front end. -/
def Dev.engAgent (d : Dev) (e : Eng) : Agent :=
  match e.packet, d.team? e.tid with
  | none, some t =>
    let desc := (d.part e.part).desc.getD Desc.none
    { part := e.part, nparts := d.nparts, root := desc.root, core := e.core, tid := e.tid,
      member := if t.shape.quad then t.cores.idxOf e.core else if t.shape.pair then e.core % 2 else 0,
      scratch := t.shape.scratchPer, pair := t.shape.pair, frame := 0, stack := 0, sys := decide (4 ≤ e.scope), bare := false }
  | _, _ => frontAgent d e.part

/-- Units run from where the operation stands; a cancelled one stops after any number of them (R271, log entry 5). -/
def Eng.runUnits {α : Type} (e : Eng) (f : State → α → State × EngStop) (all : List α) (s : State) : State × EngEnd :=
  let rest := all.drop e.progress
  let rest := if e.cancelled then rest.take (Config.freeCount s.dev.freeCtr % (rest.length + 1)) else rest
  match Machine.runUnits f rest s e.progress with
  | (s, _, .ok) => (s, .over (if e.cancelled then 1 else 0) 0)
  | (s, _, .fault c) => (s, .over 2 c.code)
  | (s, n, .absent va) => (s, .parked n va)

/-- The beats of `eng.copy` (R272), each with its source, destination and length; and one beat. -/
def Eng.beats (e : Eng) : List (Nat × Nat × Nat) :=
  (copyRows e.desc).flatMap (fun r => (piecesOf r.2 (field e.desc 32 4)).map (fun p =>
    ((r.1 + (p.1 + 2 ^ 64 - r.2) % 2 ^ 64) % 2 ^ 64, p.1, p.2)))
def Eng.beat (a : Agent) (s : State) (b : Nat × Nat × Nat) : State × EngStop := s.engMove a b.1 b.2.1 b.2.2

/-- `eng.copy` (R272): its beats. -/
def Eng.copy (e : Eng) (a : Agent) (s : State) : State × EngEnd := e.runUnits (Eng.beat a) e.beats s

/-- A pair inserted behind every pair that is not above it: the sort is stable. -/
def insertPair (le : Nat → Nat → Bool) (x : Nat × List Byte × List Byte) :
    List (Nat × List Byte × List Byte) → List (Nat × List Byte × List Byte)
  | [] => [x]
  | y :: ys => if le y.1 x.1 then y :: insertPair le x ys else x :: y :: ys

/-- The sort key of key bits (R273), as a number that rises with it. -/
def sortKey (lo hi : Nat) (signed : Bool) (k : Nat) : Nat :=
  let w := hi - lo + 1
  let x := fld k lo w
  if signed then (x + 2 ^ (w - 1)) % 2 ^ w else x

/-- Bytes the spec leaves unspecified, from a number of their own on. -/
def freeBytes (ctr n : Nat) : List Byte := (List.range n).map (fun i => Config.freeByte (ctr + i))

/-- The arrays of a sort: the keys, the values unless NOVAL, and the work area, each with its offset and length. -/
def Eng.collArrays (e : Eng) : List (Nat × Nat) :=
  let kv := collBytes e.desc
  let n := field e.desc 12 4
  (field e.desc 0 4, n * kv.1) :: ((if kv.2 = 0 then [] else [(field e.desc 4 4, n * kv.2)]) ++ [(field e.desc 8 4, n * (kv.1 + kv.2))])

/-- The passes of a sort: of 8 key bits each, and a copy pass where their number is odd (R273). -/
def Eng.passes (e : Eng) : Nat :=
  let k := ceilDiv (field e.desc 17 1 - field e.desc 16 1 + 1) 8
  k + k % 2

/-- Keys and values in the order of R273. -/
def Eng.sorted (e : Eng) (ks vs : List Byte) : List Byte × List Byte :=
  let kv := collBytes e.desc
  let fl := field e.desc 18 1
  let pairs := (List.range (field e.desc 12 4)).map (fun i =>
    let k := (ks.drop (i * kv.1)).take kv.1
    (sortKey (field e.desc 16 1) (field e.desc 17 1) (bit fl 3) (leNat k), k, (vs.drop (i * kv.2)).take kv.2))
  let le := fun (x y : Nat) => if bit fl 1 then decide (y ≤ x) else decide (x ≤ y)
  let out := pairs.foldl (fun l x => insertPair le x l) []
  (out.flatMap (fun p => p.2.1), out.flatMap (fun p => p.2.2))

/-- The keys and then the values of a sort: as they stand before its first pass, and from then on as the collator carries them. -/
def Eng.collData (e : Eng) (a : Agent) (s : State) : State × List Byte × EngStop :=
  if e.progress = 0 then s.engReads a ((e.collArrays.dropLast.flatMap (fun x => piecesOf (windowBase + x.1) x.2)))
  else match s.engReads a ((e.collArrays.flatMap (fun x => piecesOf (windowBase + x.1) x.2))) with
    | (s, _, x) => (s, e.held, x)

/-- Unspecified bytes in arrays of a sort (R271, R273). -/
def Eng.collFree (a : Agent) (s : State) (arrays : List (Nat × Nat)) : State :=
  arrays.foldl (fun s x => ((s.engWrite a (windowBase + x.1) (freeBytes s.dev.freeCtr x.2)).1).onDev (fun d => { d with freeCtr := d.freeCtr + x.2 })) s

/-- One pass of `eng.coll` that is not its last: the pairs go on in the collator, and the arrays hold bytes that it wrote. -/
def Eng.collPass (e : Eng) (a : Agent) (s : State) : State × EngStop :=
  match e.collData a s with
  | (s, bs, .ok) => ((Eng.collFree a s e.collArrays).onDev (fun d => d.modEng e.eid (fun k => { k with held := bs })), .ok)
  | (s, _, x) => (s, x)

/-- `eng.coll` (R273). One that is cancelled or stopped leaves unspecified bytes in its arrays (R271). -/
def Eng.coll (e : Eng) (a : Agent) (s : State) : State × EngEnd :=
  if e.cancelled then (Eng.collFree a s e.collArrays, .over 1 0)
  else match e.collData a s with
    | (s, bs, .ok) =>
      let kn := (e.collArrays.headD (0, 0)).2
      let r := e.sorted (bs.take kn) (bs.drop kn)
      let s := (List.zip e.collArrays.dropLast [r.1, r.2]).foldl (fun s x => (s.engWrite a (windowBase + x.1.1) x.2).1) s
      (Eng.collFree a s (e.collArrays.drop (e.collArrays.length - 1)), .over 0 0)
    | (s, _, .fault c) => (Eng.collFree a s e.collArrays, .over 2 c.code)
    | (s, _, .absent va) => (s, .parked e.progress va)

/-- A row of `eng.gath` (R274). -/
def Eng.row (e : Eng) (a : Agent) (s : State) (r : Nat) : State × EngStop :=
  let bs := e.desc
  let rowB := field bs 20 4
  match s.engRead a (windowBase + field bs 8 4 + 4 * r) 4 with
  | (s, ib, .ok) =>
    let x := leNat ib
    let dst := windowBase + field bs 12 4 + r * rowB
    if x = 0xFFFFFFFF then s.engWrite a dst (List.replicate rowB 0)
    else s.engMove a ((field bs 0 8 + x * field bs 24 4) % 2 ^ 64) dst rowB
  | (s, _, x) => (s, x)

/-- `eng.gath` (R274): its rows. -/
def Eng.gath (e : Eng) (a : Agent) (s : State) : State × EngEnd := e.runUnits (e.row a) (List.range (field e.desc 16 4)) s

/-- The peer of a transfer is reachable: by the port named, or by a working port of its mask (R410). -/
def Store.xferUp (st : Store) (peer port : Nat) : Bool := if port = 0xFF then st.peerUp peer else bit st.portsUp port

/-- The memory key of an address in the peer's space (R275). -/
def Eng.farKey (e : Eng) (pa : Nat) : Nat := (field e.desc 24 2 + 1) * 2 ^ 52 + pa % 2 ^ 52

/-- Bytes written at the peer by the ports of the transfer, which its caller has found to work (R275, R410). -/
def Eng.farSet (e : Eng) (pa : Nat) (bs : List Byte) (st : Store) : Store :=
  (cutAt 128 (e.farKey pa) bs (bs.length / 128 + 2)).foldl (fun st p =>
    (st.freeExact p.1 p.2.length).memLine (p.1 / 128) (offsets (p.1 % 128) p.2)) st

/-- One flit of `eng.xfer` (R275). -/
def Eng.flit (e : Eng) (a : Agent) (s : State) (p : Nat × Nat) : State × EngStop :=
  let bs := e.desc
  let far := field bs 8 8 + (p.1 + 2 ^ 64 - field bs 0 8) % 2 ^ 64
  if bit (field bs 27 1) 0 then
    (if s.st.hardHome (e.farKey far) then (s, .fault .eccUncorrectable)
     else (s.correctHome (e.farKey far)).engWrite a p.1 (s.st.homeGetN none (e.farKey far) p.2))
  else match s.engRead a p.1 p.2 with
    | (s, data, .ok) => (s.onSt (e.farSet far data), .ok)
    | (s, _, x) => (s, x)

/-- The flits of `eng.xfer`. -/
def Eng.flits (e : Eng) : List (Nat × Nat) := piecesOf (field e.desc 0 8) (field e.desc 16 8)

/-- `eng.xfer` (R275): its flits, then the notification. -/
def Eng.xfer (e : Eng) (a : Agent) (s : State) : State × EngEnd :=
  let bs := e.desc
  if !s.st.xferUp (field bs 24 2) (field bs 26 1) then (s, .over 3 0)
  else match e.runUnits (e.flit a) e.flits s with
    | (s, .over 0 _) =>
      let at_ := field bs 32 8
      (if bit (field bs 27 1) 1 then s.onSt (fun st =>
        e.farSet at_ (leBytes 8 (leNat (st.homeGetN none (e.farKey at_) 8) + 1)) st) else s, .over 0 0)
    | r => r

/-- An element of C after some more chunks of its reduction, `done` of them being in it (R276). -/
def smmaElem (fa fb : Word) (as bs : List Nat) (old : Nat) (accum : Bool) (done count : Nat) : Nat :=
  let n := if contOf fa = 1 then 32 else 16
  let ps := List.zipWith (fun x y => FVal.mul ((fmtOf fa).decode (x % 2 ^ (fmtOf fa).width)) ((fmtOf fb).decode (y % 2 ^ (fmtOf fb).width))) as bs
  (List.range' done count).foldl (fun acc i =>
    let ch := (ps.drop (i * n)).take n
    dotSum .f32 RCtx.plain (if i = 0 && !accum then ch else ch ++ [Fmt.f32.decode acc])) old

/-- The format of A and of B of `eng.smma`, and its chunks. -/
def Eng.smmaFms (e : Eng) : Word × Word := (e.fm.getD (fld (field e.desc 18 1) 0 3) 0, e.fm.getD (fld (field e.desc 18 1) 4 3) 0)
def Eng.chunks (e : Eng) : Nat := field e.desc 16 2 / (if contOf e.smmaFms.1 = 1 then 32 else 16)

/-- Some chunks of each element of C (R276); `count` says how many of an element. -/
def Eng.smmaRun (e : Eng) (a : Agent) (count : Nat → Nat) (s : State) : State × EngStop :=
  let bs := e.desc
  let m := field bs 12 2
  let n := field bs 14 2
  let k := field bs 16 2
  let w := if contOf e.smmaFms.1 = 1 then 4 else 8
  let al := m * k * w / 8
  let bl := k * n * w / 8
  match s.engReads a ([(field bs 0 4, al), (field bs 4 4, bl), (field bs 8 4, m * n * 4)].flatMap (fun x => piecesOf (windowBase + x.1) x.2)) with
  | (s, got, .ok) =>
    let aBits := leNat (got.take al)
    let bBits := leNat ((got.drop al).take bl)
    let cBits := leNat (got.drop (al + bl))
    let out := (List.range (m * n)).flatMap (fun ij =>
      leBytes 4 (smmaElem e.smmaFms.1 e.smmaFms.2 ((List.range k).map (fun t => elemAt w (ij / n * k + t) aBits))
        ((List.range k).map (fun t => elemAt w (t * n + ij % n) bBits)) (elemAt 32 ij cBits) (bit (field bs 19 1) 0) e.progress (count ij)))
    s.engWrite a (windowBase + field bs 8 4) out
  | (s, _, x) => (s, x)

/-- `eng.smma` (R276). A cancelled one leaves each element after some whole number of chunks (R271). -/
def Eng.smma (e : Eng) (a : Agent) (s : State) : State × EngEnd :=
  let ctr := s.dev.freeCtr
  let left := e.chunks - e.progress
  match e.smmaRun a (fun ij => if e.cancelled then Config.freeCount (ctr + ij) % (left + 1) else left) s with
  | (s, .ok) => (s.onDev (fun d => { d with freeCtr := ctr + field e.desc 12 2 * field e.desc 14 2 }), .over (if e.cancelled then 1 else 0) 0)
  | (s, .fault c) => (s, .over 2 c.code)
  | (s, .absent va) => (s, .parked e.progress va)

/-! Weight caches (R277, R373): 64 blocks of a sampler. -/

def WBlock.is (b : WBlock) (hdr : DWord) (ver blk : Nat) : Bool := b.hdrVa == hdr && b.wver == ver && b.block == blk
def Sampler.pins (p : Sampler) : Nat := (p.blocks.filter (·.pinned)).length

/-- The least recently used block that is not pinned makes room. -/
def Sampler.makeRoom (p : Sampler) : Sampler :=
  if p.blocks.length < 64 then p
  else match (p.blocks.filter (fun b => !b.pinned)).foldl (fun (best : Option WBlock) b => match best with
      | some x => if b.used < x.used then some b else some x
      | none => some b) none with
    | some v => { p with blocks := p.blocks.filter (fun b => !(b.is v.hdrVa v.wver v.block)) }
    | none => p

/-- A block cached, pinned if asked and up to 48 pins. -/
def Sampler.install (p : Sampler) (b : WBlock) (pin : Bool) : Sampler :=
  let old := p.blocks.find? (fun x => x.is b.hdrVa b.wver b.block)
  let p := { p with blocks := p.blocks.filter (fun x => !(x.is b.hdrVa b.wver b.block)) }
  let keep := match old with | some x => x.pinned | none => false
  let p := p.makeRoom
  { p with blocks := p.blocks ++ [{ b with pinned := keep || (pin && decide (p.pins < 48)), used := p.clock }], clock := p.clock + 1 }

/-- The image bytes of a block (R367, R373): never beyond the image. -/
def Header.blockLen (h : Header) (b : Nat) : Nat := min 1024 (h.imageLen - 1024 * b)
def Header.blocks (h : Header) : Nat := ceilDiv h.imageLen 1024

def Dev.sampler (d : Dev) (core p : Nat) : Sampler := (d.core core).samplers.getD p Sampler.reset
def Dev.modSampler (d : Dev) (core p : Nat) (f : Sampler → Sampler) : Dev :=
  d.modCore core (fun c => { c with samplers := modAt c.samplers p f })

/-- One block of one sampler filled, or only pinned where it is cached (R277). -/
def State.wpinUnit (s : State) (a : Agent) (core : Nat) (h : Header) (x : Nat × Nat) : State × EngStop :=
  let cached := (s.dev.sampler core x.1).blocks.find?
    (fun b => b.is h.va h.wver x.2)
  match cached with
  | some b => (s.onDev (fun d => d.modSampler core x.1 (fun p => p.install b true)), .ok)
  | none => match s.engRead a (h.wbase + 1024 * x.2) (h.blockLen x.2) with
    | (s, bs, .ok) =>
      let b : WBlock := { hdrVa := h.va, wver := h.wver, block := x.2, data := bs, pinned := false, used := 0 }
      (s.onDev (fun d => d.modSampler core x.1 (fun p =>
        { p.install b true with fills := p.fills.filter (fun f => !(f.hdrVa == h.va && f.wver == h.wver && f.block == x.2)) })), .ok)
    | (s, _, r) => (s, r)

/-- The blocks of an image at each of the four samplers, in the order in which `eng.wpin` fills them (R277). -/
def Header.pinUnits (h : Header) : List (Nat × Nat) := (List.range 4).flatMap (fun p => (List.range h.blocks).map (fun b => (p, b)))

/-- No block of a header stays pinned in a core's samplers. -/
def State.unpin (s : State) (core : Nat) (h : Header) : State :=
  s.onDev (fun d => d.modCore core (fun k => { k with samplers := k.samplers.map (fun p =>
    { p with blocks := p.blocks.map (fun b => if b.hdrVa = h.va ∧ b.wver = h.wver then { b with pinned := false } else b) }) }))

/-- `eng.wpin` (R277): a stopped one leaves no pin. -/
def Eng.wpin (e : Eng) (a : Agent) (s : State) : State × EngEnd :=
  let h := Header.ofBytes e.hdrVa e.desc
  match e.runUnits (fun s x => s.wpinUnit a e.core h x) h.pinUnits s with
  | (s, .over 0 c) => (s, .over 0 c)
  | (s, .over st c) => (s.unpin e.core h, .over st c)
  | r => r

/-- The unit that an operation stands before, if it has one to do ahead of its completion (R271, R320): the state after it. -/
def Eng.unit1 (e : Eng) (a : Agent) (s : State) : Option (State × EngStop) :=
  match e.kind with
  | .copy => (e.beats.drop e.progress).head?.map (Eng.beat a s)
  | .coll => if e.progress + 1 < e.passes then some (e.collPass a s) else none
  | .gath => if e.progress < field e.desc 16 4 then some (e.row a s e.progress) else none
  | .xfer => if s.st.xferUp (field e.desc 24 2) (field e.desc 26 1) then (e.flits.drop e.progress).head?.map (e.flit a s) else none
  | .smma => if e.progress < e.chunks then some (e.smmaRun a (fun _ => 1) s) else none
  | .wpin =>
    let h := Header.ofBytes e.hdrVa e.desc
    ((h.pinUnits).drop e.progress).head?.map (s.wpinUnit a e.core h)
  | .winv => none

/-! Completion (R202, R237, R238, R270). -/

def statusWord (state fcode : Nat) : Word := BitVec.ofNat 32 (state + 256 * fcode)

/-- The operation is over: its range lock is removed, then its future is DONE; gangs that wait on it issue again, and held
gangs go on. -/
def Dev.endEng (d : Dev) (e : Eng) (w : Word) (fcode : Nat) : Dev :=
  let d := (d.dropEng e.eid).modCore e.core (fun c => { c with locks := c.locks.filter (fun k => k.eid != e.eid) })
  let d := d.modPart e.part (fun p => { p with progress := 0, parks := p.parks.filter (fun k => k.2 != .engine e.eid) })
  match e.packet with
  | some (k, serial) => d.packetDone e.part k serial e.hdrVa.toNat fcode
  | none =>
    let d := d.modTeam e.tid (fun t => { t with futs := modAt t.futs e.fut (fun f =>
      if f.gen = e.gen then { f with st := if f.orphan then .free else .done, kept := some w } else f) })
    let d := { d with groups := d.groups.map (fun (g : Group) => if g.tid = e.tid ∧ g.wait = some GWait.futWait then g.rewait else g) }
    d.pumpEngs

/-- The unit code of an engine in stop records (R323). -/
def EngKind.unit : EngKind → Nat
  | .copy => 2 | .coll => 3 | .gath => 4 | .xfer => 5 | .smma | .wpin | .winv => 6

/-- How far an operation has come, in the units of its stop record: bytes of a copy or a transfer, rows of a gather, passes, chunks (R323). -/
def Eng.pieceLens (e : Eng) : List Nat :=
  match e.kind with
  | .copy => e.beats.map (·.2.2)
  | .xfer => e.flits.map (·.2)
  | _ => []
def Eng.resumePoint (e : Eng) : Nat :=
  if e.progress = 0 ∨ (e.kind ≠ .copy ∧ e.kind ≠ .xfer) then e.progress else (e.pieceLens.take e.progress).foldl (· + ·) 0

/-- The record of an engine operation. -/
def Eng.record (d : Dev) (e : Eng) : StopRec :=
  let g := d.group? e.gid
  let launch := match d.team? e.tid with | some t => (launchIdOf t).toNat | none => 0
  { StopRec.blank with unit := e.kind.unit, detail := e.fut + 64 * e.gen, core := if e.kind = .xfer then 0xFFFF else e.core,
                       slot := match g with | some g => g.gslot | none => 0, gix := match g with | some g => g.gix | none => 0,
                       tix := e.tix, launch := launch, pc := e.resumePoint }

/-- The operations of one unit run one at a time in issue order: an earlier one of the unit is still to complete. -/
def Dev.engBehind (d : Dev) (e : Eng) : Bool :=
  d.engs.any (fun k => decide (k.eid < e.eid) && k.kind == e.kind && k.part == e.part && k.packet.isSome == e.packet.isSome &&
    (match e.kind with
    | .copy | .gath | .smma => k.core == e.core
    | .coll => k.core / 4 == e.core / 4
    | .wpin => k.core == e.core && k.hdrVa == e.hdrVa
    | .xfer | .winv => false))

/-- An observation of a header that a sampler of the core still holds back. -/
def Dev.winvPending (d : Dev) (core : Nat) (hdr : DWord) : Bool :=
  (d.core core).samplers.any (fun p => p.order.any (fun i => match i with | .observe _ h _ => h == hdr | _ => false))

/-- A line of a range is in no L2: an access to it reaches a memory tier. -/
def State.reachesTier (s : State) (a : Agent) (pls : List Place) : Bool := pls.any (fun pl => match pl with
  | .pa k _ _ _ => (s.st.l2At (s.st.own a.core pl.direct) (k / 128)).isNone
  | .scr _ => false)

/-- A copy whose source reaches a memory tier where row 24 requires an L2 hit will be a breach (R391): it is not over in its deadline
cycle. -/
def State.engTardy (s : State) (e : Eng) : Bool :=
  let a := s.dev.engAgent e
  e.deadline.isSome && s.dev.lockup e.part && s.reachesTier a (a.copyPlaces s.st true e.desc)

/-- An engine operation over with STATE and FCODE: a breach where it ends late and unreported, then its completion. -/
def State.engOver (s : State) (e : Eng) (st c : Nat) (late : Bool) : State :=
  let s := s.onDev (fun d => if e.kind = .winv ∧ st = 1 then d.modCore e.core (fun k => { k with samplers := k.samplers.map (fun p =>
    { p with order := p.order.filter (fun i => match i with | .observe id _ _ => id != e.eid | _ => true) }) }) else d)
  let s := s.onDev (fun d => (if late then d.breach e.tid e.gid e.core e.pc e.lids else d).endEng e (statusWord st c) c)
  match e.packet with | some k => s.postQueue e.part k.1 | none => s

/-- What an operation of `eng.wpin` or a sort leaves where it stops for good before its end (R271). -/
def Eng.stopped (e : Eng) (a : Agent) (s : State) : State := match e.kind with
  | .coll => Eng.collFree a s e.collArrays
  | .wpin => s.unpin e.core (Header.ofBytes e.hdrVa e.desc)
  | _ => s

/-- Firmware declares a page unmappable for which an engine operation parked (R318): its future completes with STATE 2 and FCODE 0x09. -/
def State.unmappable (s : State) (q seq : Nat) : State :=
  match (s.dev.part q).parks.find? (fun k => k.1 == seq) with
  | some (_, .engine eid) => match s.dev.eng? eid with
    | some e => (e.stopped (s.dev.engAgent e) s).engOver e 2 FCode.translation.code false
    | none => s
  | _ => s

/-- An engine operation run to its end or to where it parks (R270, R318). One that ends after its deadline unreported is a breach
(R390). -/
def State.runEng (s : State) (e : Eng) : State :=
  let a := s.dev.engAgent e
  let late := s.dev.lockup e.part && pastDue (s.dev.part e.part).cyc e.deadline
  let r : State × EngEnd := match e.kind with
    | .copy => e.copy a s
    | .coll => e.coll a s
    | .gath => e.gath a s
    | .xfer => e.xfer a s
    | .smma => e.smma a s
    | .wpin => e.wpin a s
    | .winv => (s, .over (if e.cancelled && e.halfDone.length < 4 then 1 else 0) 0)
  match r with
  | (s, .over st c) => (s.onDev (fun d => { d with freeCtr := d.freeCtr + 1 })).engOver e st c late
  | (s, .parked n va) =>
    let e := { e with progress := n }
    let seq := s.nextSeq e.part
    let s := s.openPark e.part { e.record s.dev with addr := va } (.engine e.eid)
    s.onDev (fun d => d.modEng e.eid (fun k => { k with progress := n, parkSeq := some seq }))

/-- An operation writes a tile that is still to be read (R253). -/
def Dev.engHeld (d : Dev) (e : Eng) : Bool :=
  (d.core e.core).locks.any (fun k => k.eid == e.eid && k.dst.any (fun r =>
    decide (2 ^ 64 ≤ r.1) && d.tileHolds e.core (.scr (r.1 - 2 ^ 64)) r.2))

/-- An operation may go on: its context works, and no earlier one of its unit is to complete before it. -/
def State.engGoes (s : State) (e : Eng) : Bool :=
  s.dev.working e.part && e.parkSeq.isNone && !s.dev.engBehind e && !s.dev.engHeld e && !(e.kind == .wpin && s.dev.winvPending e.core e.hdrVa)

/-- An engine performs the next unit of an operation, unless the unit stops it: that is its completion's to find. -/
def State.engUnit (s : State) (eng : Nat) : State :=
  match s.dev.eng? eng with
  | none => s
  | some e =>
    if e.cancelled || !s.engGoes e then s
    else match e.unit1 (s.dev.engAgent e) s with
      | some (t, .ok) => t.onDev (fun d => d.modEng eng (fun k => { k with progress := k.progress + 1 }))
      | _ => s

/-- `ENGINE_COMPLETION` (R270). -/
def execEngineCompletion (eng : Nat) (s : State) : Out :=
  match s.dev.eng? eng with
  | none => .fault .notEnabled
  | some e =>
    if !s.engGoes e ∨ s.engTardy e then .fault .notEnabled
    else if e.kind = .winv ∧ e.halfDone.length < 4 ∧ !(e.cancelled && e.halfDone.isEmpty) then .fault .notEnabled
    else
      .next (s.runEng e)

end Sys2Proof.Machine
end

