-- ==== Sys2Proof/Machine/Sampling.lean ====
section
/-!
DEFINITION. Sampling: `smp` (R265-R268), the pipeline of texel and neural samples (R368-R371), and the samplers' events
(R372-R374).
-/
namespace Sys2Proof.Machine
open Sys2Proof

/-! What a tap carries: its level (0 or 1), the weight's numerator, the numerator of wm, the lane's coordinates and bias, and
the header index (R324). -/

def tapData (level weight wm : Nat) (us : List Word) (idx : Nat) : List Byte :=
  leBytes 1 level ++ leBytes 4 weight ++ leBytes 2 wm ++ ((us ++ List.replicate 4 0).take 4).flatMap (fun (w : Word) => leBytes 4 w.toNat) ++
  leBytes 4 idx
def Acc.tapLevel (x : Acc) : Nat := field x.data 0 1
def Acc.tapWeight (x : Acc) : Nat := field x.data 1 4
def Acc.tapWm (x : Acc) : Nat := field x.data 5 2

/-! Decoding and filtering (R370). -/

/-- The channels or features of a tap. -/
def Header.decodeTap (h : Header) (bs : List Byte) : List FVal :=
  if h.neural then
    (List.range h.feats).map (fun f =>
      let code := if h.packed then elemAt 4 f (leNat bs) else field bs f 1
      h.lfmt.decode (code % 2 ^ h.lfmt.width))
  else if h.tfmt = 0 then (List.range 4).map (fun c => f32r (FVal.div (.ofInt (field bs c 1)) (.ofInt 255)))
  else if h.tfmt = 3 then [Fmt.f32.decode (field bs 0 4)]
  else (List.range (if h.tfmt = 1 then 4 else 2)).map (fun c => Fmt.f16.decode (field bs (2 * c) 2))

/-- The value of one level from its taps, in ascending order: weights and decoded values. -/
def Header.levelValue (h : Header) (taps : List (Nat × List FVal)) : List FVal := match taps with
  | [] => []
  | t :: _ =>
    if h.stoch then t.2
    else (List.range t.2.length).map (fun c => taps.foldl (fun acc x =>
      f32r (FVal.fma false (.fin false x.1 (-(8 * (h.dims : Int)))) (x.2.getD c .zero) acc)) .zero)

def f16r (x : FVal) : FVal := Fmt.f16.decode (Fmt.f16.round RCtx.plain false x)

/-- An activation (R371). -/
def activate (a : Nat) (y : FVal) : FVal :=
  if a = 0 then y
  else if a = 1 then FVal.max y .zero
  else if a = 2 then FVal.min (FVal.max y .zero) (.fin false 1 0)
  else f16r y.sinp

/-- One layer of the network (R371): offset, inputs and outputs of its section of the image. -/
def Header.layer (h : Header) (img : List Byte) (sec : Nat × Nat × Nat) (act : Nat) (xs : List FVal) : List FVal :=
  let fmt := if h.e2m1 then Fmt.e2m1 else Fmt.e4m3
  let w := if h.e2m1 then 4 else 8
  let m := sec.2.2
  (List.range m).map (fun j =>
    let row := field img (sec.1 + j * h.rowBytes) h.rowBytes
    let sc := scaleVal 0 (field img (sec.1 + m * h.rowBytes + j) 1)
    let terms := (List.range sec.2.1).map (fun t => FVal.mul (FVal.mul (fmt.decode (elemAt w t row)) (xs.getD t .zero)) sc)
    let bias := Fmt.f16.decode (field img (sec.1 + m * h.rowBytes + pad 16 m + 2 * j) 2)
    activate act (Fmt.f16.decode (dotSum .f16 RCtx.plain (terms ++ [bias]))))

/-- The outputs of a network. -/
def Header.network (h : Header) (img : List Byte) (value : List FVal) : List FVal :=
  (h.layers.zip h.acts).foldl (fun xs l => h.layer img l.1 l.2 xs) (value.map f16r)

/-- The outputs of a sample (R370, R371) from its taps as read. -/
def Header.sample (h : Header) (img : List Byte) (accs : List Acc) : List FVal :=
  let level := fun (n : Nat) => h.levelValue ((accs.filter (fun x => x.tapLevel == n)).map (fun x =>
    (x.tapWeight, h.decodeTap (x.got.getD []))))
  if h.neural then h.network img (level 0)
  else
    let lo := level 0
    if h.mip then
      let hi := level 1
      let wm : FVal := .fin false (match accs with | x :: _ => x.tapWm | [] => 0) (-8)
      (List.range lo.length).map (fun c =>
        f32r (FVal.fma false wm (f32r (FVal.sub false (hi.getD c .zero) (lo.getD c .zero))) (lo.getD c .zero)))
    else lo

/-- The two registers of a sample (R267): element o of output o, the others +0. -/
def sampleRegs (outs : List FVal) : List Reg :=
  let code := fun (i : Nat) => match outs[i]? with | some x => Fmt.f16.round RCtx.plain false x | none => 0
  [{ bits := BitVec.ofNat 32 (code 0 + 2 ^ 16 * code 1), tag := .f16p },
   { bits := BitVec.ofNat 32 (code 2 + 2 ^ 16 * code 3), tag := .f16p }]

/-! Issue. -/

/-- A lane's coordinate registers as their bits stand (R267). -/
def rawCoords (e : Env) (a : Opnd) (n : Nat) (l : Lane) : List Word :=
  let at_ := fun (b : Nat) => (List.range n).map (fun i => (l.reg (b + i)).bits)
  match a with
  | .v b => at_ b.val
  | .vx k => let x := l.x.getD k.val { off := 0, limit := 0, base := 0 }; at_ (x.base.toNat + x.off.toNat)
  | .s b => (List.range n).map (fun i => (e.g.sreg (b.val + i)).bits)
  | _ => (readScalars e l .f32 a n).val.map (BitVec.ofNat 32)

/-- The differences of a slice along one direction, by axis: 0 where a lane has exited. -/
def sliceDiff (dims : Nat) (p q : Option (Bool × List Word)) : List FVal :=
  (List.range dims).map (fun k => match p, q with
    | some (false, xs), some (false, ys) => f32r (FVal.sub false (coord (xs.getD k 0)) (coord (ys.getD k 0)))
    | _, _ => .zero)

/-- The taps of one sample: level, address and weight, and the numerator of wm. -/
def Header.lanePlan (h : Header) (free word : Nat) (dx dy : List FVal) (us : List Word) : List (Nat × Nat × Nat) × Nat :=
  let lam := clampLod h.levels (lodOf h.res dx dy (coord (us.getD h.dims 0)))
  let ls := h.levelsOf lam
  let ps := us.map coord
  let all := ls.1.zipIdx.flatMap (fun l => (h.taps free l.1 ps).map (fun t => (l.2, t.1, t.2)))
  if h.stoch then
    let v := word / 2 ^ (32 - 8 * h.dims)
    let pick := all.foldl (fun (acc : Nat × Option (Nat × Nat × Nat)) t =>
      match acc.2 with
      | some x => (acc.1, some x)
      | none => if v < acc.1 + t.2.2 then (acc.1, some t) else (acc.1 + t.2.2, none)) (0, none)
    (match pick.2 with | some t => [t] | none => [], ls.2)
  else (all, ls.2)

/-- The start of a quad in lockup mode, and the figure of its row (R388, R389). -/
def Header.quadStep (h : Header) : Nat := if h.neural then 8 * h.widths.length else 4
def Header.quadRow (h : Header) : Nat := if h.neural then 96 + 24 * h.widths.length else 80

/-- The quads of an operation join their samplers; the last deadline in lockup mode. -/
def Dev.queueQuads (d : Dev) (q core opid : Nat) (h : Header) (slices : List Nat) : Dev × Option Nat :=
  slices.foldl (fun (acc : Dev × Option Nat) k =>
    let d := acc.1
    let p := d.sampler core (k % 4)
    let lock := d.lockup q
    let c := (d.part q).cyc + 8
    let st := match p.lastStart with | some b => max c (b + h.quadStep) | none => c
    (d.modSampler core (k % 4) (fun p => { p with order := p.order ++ [.quad opid k], lastStart := if lock then some st else p.lastStart }),
     if lock then some (max (acc.2.getD 0) (st + h.quadRow)) else none)) (d, none)

/-- The operation of an `smp` entered: destinations PENDING, its flag counted, its quads queued, cells that are not VALUE
attempted at once. `free`: it reads a place whose accesses have no deadline (R391). -/
def Env.enterSmp (e : Env) (h : Header) (bytes : List Byte) (ps : List (Req × Place)) (free : Bool) (s : State) : State :=
  let id := s.dev.nextOp
  let slices := (List.range 16).filter (fun k => ps.any (fun (p : Req × Place) => p.1.lane.lid / 4 == k))
  let qs := s.dev.queueQuads e.g.part e.g.core id h slices
  let o : Op := { e.holdOp .smp h.point [.f16p, .f16p] ps with
    opid := id, flag := e.flag, fmv := e.fmSel, started := false, deadline := if free then none else qs.2, hdrVa := h.va, hdr := bytes }
  let s := { s with dev := (qs.1.modGroup e.g.gid (fun g =>
      (g.addFlag o.flag).setPending (ps.flatMap (fun (p : Req × Place) => p.1.writers)) 2)).addOp o }
  State.afterAttempt id (s.attempt id true)

/-- The header index `smp` reads from the s register B (R265), and the checks before the header is known: of the run A, its first
coordinate and the register after it, which every header has typed F32, are read by the participating lanes (R97, R267). -/
def smpIndex (e : Env) (b : BitVec 5) : Rd Nat := (regAt e e.leader .resolve (.s b.toNat) 0).next (fun r => typedRegs e [[.i32], [.n32]] [r])
/-- The checks of `smp`; a wrong tag of B names the leader alone (DESIGN CHOICE, log entry 48). -/
def smpChks (e : Env) (d a : Opnd) (b : BitVec 5) : List (Nat × Chk) :=
  (e.leader.lid, (smpIndex e b).chk) :: (e.lanes.map (fun l => (l.lid, (dest e l false d 2 true).chk)) ++
    e.lanes.map (fun l => (l.lid, (locate e l a 2 false).chk)) ++ e.passing.map (fun l => (l.lid, (readScalars e l .f32 a 2).chk)))
/-- The coordinates, and the checks once the header gives their count. -/
def smpRead (a : Opnd) (h : Header) (e : Env) (l : Lane) : Rd (List Nat) := readScalars e l .f32 a (h.dims + 1)
def smpChks2 (e : Env) (d a : Opnd) (b : BitVec 5) (h : Header) : List (Nat × Chk) :=
  smpChks e d a b ++ (e.lanes.map (fun l => (l.lid, (locate e l a (h.dims + 1) false).chk)) ++ e.passing.map (fun l => (l.lid, (smpRead a h e l).chk)))

/-- The coordinates a lane gives its slice: as read if it participates, else as its registers stand. -/
def smpCoords (e : Env) (a : Opnd) (h : Header) (l : Lane) : List Word :=
  if (e.passing.map (·.lid)).contains l.lid then (smpRead a h e (e.source false l)).val.map (BitVec.ofNat 32)
  else rawCoords e a (h.dims + 1) l
def smpAt (e : Env) (a : Opnd) (h : Header) (i : Nat) : Option (Bool × List Word) :=
  (e.g.lanes.find? (fun l => l.lid == i)).map (fun l => (l.exited, smpCoords e a h l))

/-- The stream word a lane's stochastic choice takes (R369), and its taps. -/
def smpWord (e : Env) (h : Header) (l : Lane) : Nat := if h.stoch then e.stream l 0 else 0
def smpPlan (e : Env) (a : Opnd) (h : Header) (l : Lane) : List (Nat × Nat × Nat) × Nat :=
  let k := l.lid / 4 * 4
  h.lanePlan (e.s.dev.freeCtr + 8 * l.lid) (smpWord e h l) (sliceDiff h.dims (smpAt e a h (k + 1)) (smpAt e a h k))
    (sliceDiff h.dims (smpAt e a h (k + 2)) (smpAt e a h k)) (smpCoords e a h l)

/-- The taps' reads of the participating lanes, each of a texel or a latent record (R178; log entry 16), and the 16-byte units of a
neural header's image. -/
def smpReqs (e : Env) (d a : Opnd) (b : BitVec 5) (h : Header) : List Req :=
  e.passing.flatMap (fun l =>
    let x := smpPlan e a h l
    x.1.map (fun t => { lane := l, va := t.2.1, data := tapData t.1 t.2.2 x.2 (smpCoords e a h l) (smpIndex e b).val,
                        writers := [(l.lid, (dest e l false d 2 true).val)] }))
def smpImage (e : Env) (h : Header) : List Req :=
  if e.passing.isEmpty ∨ h.imageLen = 0 then [] else (List.range (ceilDiv (h.wbase % 16 + h.imageLen) 16)).map (fun i =>
    { lane := e.leader, va := (h.wbase / 16 + i) * 16, data := [], writers := [] })

/-- The state after `smp`, its header read in `s`. -/
def smpNext (e : Env) (d a : Opnd) (b : BitVec 5) (h : Header) (bytes : List Byte) (s : State) (ps : List (Req × Place)) : State :=
  let n := (smpReqs e d a b h).length
  let s := e.touchAll false ps (e.settleReads (smpChks2 e d a b h) s)
  let s := s.onDev (fun dv => { dv with freeCtr := dv.freeCtr + 512 })
  let s := e.done s (fun l => if h.stoch && e.m.passes l then { l with rctr := l.rctr + 1 } else l)
  if n = 0 then s else e.enterSmp h bytes (ps.take n) (ps.any (fun p => p.2.untimed)) s

/-- `smp` with its header at hand. -/
def smpGo (e : Env) (d a : Opnd) (b : BitVec 5) (s : State) (hd : Lane × DWord × List Byte) : Out :=
  let lids := e.passing.map (·.lid)
  if !headerOk hd.2.2 then e.raise .format (if lids.isEmpty then e.lids else lids) 0
  else
    let h := Header.ofBytes hd.2.1 hd.2.2
    e.gate (smpChks2 e d a b h) (fun _ =>
      if e.g.flagFull e.flag then .fault .blocked
      else match e.checkPlaces h.point .read (smpReqs e d a b h ++ smpImage e h) with
        | .stop o => o
        | .ok ps => if e.orderStops h.point ps || e.s.dev.laneHas e.g.gid e.leader.lid (· == .lda) then .fault .blocked
                    else e.readGate 16 (ps.drop (smpReqs e d a b h).length) (fun _ => .next (smpNext e d a b h hd.2.2 s ps)))

/-- `smp` (R265-R267). A heap index too large names the leader, a refused header the participating lanes, and both are raised where no
lane participates (DESIGN CHOICE, log entry 48). -/
def execSmp (d a : Opnd) (b : BitVec 5) (s : State) : Out :=
  withGang s (fun e => e.gate (smpChks e d a b) (fun _ =>
    e.headers [(e.leader, (smpIndex e b).val)] (fun s hs => match hs with
      | [] => .fault .blocked
      | hd :: _ => smpGo e d a b s hd)))

/-! The samplers' events. -/

/-- The header of a quad's operation with the version it is bound to. -/
def Dev.boundTo (d : Dev) (opid : Nat) : List (DWord × Nat) := match d.op? opid with
  | some o => [(o.hdrVa, field o.hdr 45 1)]
  | none => []

/-- The blocks that the observations made leave (R374): of an observed header those that a quad before the observation still needs.
`before` are the headers and versions of the quads passed. -/
def Dev.observed (d : Dev) : List (DWord × Nat) → List SampItem → List WBlock → List WBlock
  | _, [], bs => bs
  | before, .quad opid _ :: rest, bs => d.observed (before ++ d.boundTo opid) rest bs
  | before, .observe _ h true :: rest, bs => d.observed before rest (bs.filter (fun b => b.hdrVa != h || before.contains (h, b.wver)))
  | before, .observe _ _ false :: rest, bs => d.observed before rest bs

/-- Observations that have been made and that no quad stands before. -/
def popObserved : List SampItem → List SampItem
  | .observe _ _ true :: rest => popObserved rest
  | items => items

/-- A sampler's blocks and order after its quads or observations have gone on. -/
def Dev.settle (d : Dev) (p : Sampler) : Sampler := { p with blocks := d.observed [] p.order p.blocks, order := popObserved p.order }

/-- The blocks of a bound header that a sampler does not hold (R373). -/
def Sampler.missing (p : Sampler) (h : Header) : List Nat :=
  (List.range h.blocks).filter (fun b => !p.blocks.any (fun x => x.is h.va h.wver b))

/-- The image as the cached blocks hold it. -/
def Sampler.image (p : Sampler) (h : Header) : List Byte :=
  (List.range h.blocks).flatMap (fun b => match p.blocks.find? (fun x => x.is h.va h.wver b) with | some x => x.data | none => [])

/-- A quad leaves its sampler. -/
def Dev.leaveQuad (d : Dev) (core p : Nat) : Dev :=
  d.modSampler core p (fun k => d.settle { k with order := k.order.drop 1 })

/-- Quads of an operation still stand in a sampler. -/
def Dev.quadsLeft (d : Dev) (o : Op) : Bool := (d.core o.core).samplers.any (fun p => p.order.any (fun i => match i with
  | .quad id _ => id == o.opid
  | .observe _ _ _ => false))

/-- The results that the quads of an operation have computed, three words a lane: its LID and two registers. -/
def smpResults : List Word → List (Nat × List Reg)
  | l :: x :: y :: rest => (l.toNat, [{ bits := x, tag := .f16p }, { bits := y, tag := .f16p }]) :: smpResults rest
  | _ => []

/-- Those results written to their lanes, or dropped if the group's generation has moved on (R80, R325). -/
def Dev.putSmp (d : Dev) (o : Op) : Dev :=
  if d.fresh o then d.modGroup o.gid (fun g => (smpResults o.words).foldl (fun g r =>
      g.put (match o.accs.find? (fun x => x.lid == r.1) with | some x => x.writers | none => []) r.2) g)
  else d.modPart o.part (fun p => { p with dropped := min 0xFFFFFFFF (p.dropped + 1) })

/-- The quad at the head has read its taps: the results of the slice's lanes are computed and its blocks are the latest used (R373), in
block order. No destination is written before the last quad, since an operation that meets a delivered fault writes none (R181). -/
def State.finishQuad (s : State) (core p : Nat) (o : Op) (slice : Nat) (h : Header) : State :=
  let mine := o.accs.filter (fun x => x.lid / 4 == slice)
  let img := (s.dev.sampler core p).image h
  let lids := (mine.map (·.lid)).eraseDups
  let outs := lids.flatMap (fun l => BitVec.ofNat 32 l :: (sampleRegs (h.sample img (mine.filter (fun x => x.lid == l)))).map (·.bits))
  let s := s.onDev (fun d => ((d.modSampler core p (fun k => { k with clock := k.clock + h.blocks, blocks := k.blocks.map (fun b =>
    if b.hdrVa = h.va ∧ b.wver = h.wver then { b with used := k.clock + b.block } else b) })).leaveQuad core p).modOp o.opid (fun k =>
      { k with words := k.words ++ outs }))
  match s.dev.op? o.opid with
  | some k =>
    if s.dev.quadsLeft k then s
    else (s.onDev (fun d => (((d.lateEnd k).putSmp k).countDown k).dropOp k.opid)).wakeHeld k.gid
  | none => s

/-- An operation that has been captured leaves the samplers. -/
def Dev.purgeQuads (d : Dev) : Dev :=
  { d with cores := d.cores.map (fun c => { c with samplers := c.samplers.map (fun p =>
      d.settle { p with order := p.order.filter (fun i => match i with
          | .quad id _ => d.ops.any (fun o => o.opid == id)
          | .observe _ _ _ => true) }) }) }

/-- The weight blocks of a bound header, as places of errors (R282). -/
def Header.blockSites (h : Header) (core p : Nat) : List ErrSite :=
  if h.neural then (List.range h.blocks).map (fun b => .block core p h.va h.wver b) else []

/-- A weight block that a quad reads holds an uncorrectable error: its lanes are delivered the fault (R181, R282). -/
def blockFault (s : State) (o : Op) (slice : Nat) : State :=
  (s.deliver o ((((o.accs.filter (fun x => x.lid / 4 == slice)).map (·.lid)).eraseDups).map (fun l => (l, FCode.eccUncorrectable))) 0).onDev
    Dev.purgeQuads

/-- `SAMPLER_QUAD` (R372): the quad at the head of a sampler's order; a missing weight block starts its fill (R373). -/
def execSamplerQuad (core sampler : Nat) (s : State) : Out :=
  let p := s.dev.sampler core sampler
  match p.order with
  | .quad opid slice :: _ => match s.dev.op? opid with
    | none => .fault .notEnabled
    | some o =>
      if !s.dev.working o.part then .fault .notEnabled
      else
        let h := Header.ofBytes o.hdrVa o.hdr
        let missing := if h.neural then p.missing h else []
        let starts := missing.filter (fun b => !p.fills.any (fun f => f.hdrVa == h.va && f.wver == h.wver && f.block == b))
        let mine := o.accs.filter (fun x => x.lid / 4 == slice)
        let far := starts.any (fun b => let a := { unitAgent s.dev o.part with core := core }
          s.reachesTier a ((piecesOf (h.wbase + 1024 * b) (h.blockLen b)).filterMap (fun x => match a.resolve s.st x.1 .none with
            | .ok pl => some pl
            | _ => none)))
        if !starts.isEmpty then
          .next ((if s.dev.lockup o.part && far then s.onDev (fun d => d.missed core opid) else s).onDev (fun d => d.modSampler core sampler (fun p => { p with fills := p.fills ++ starts.map (fun b =>
            { hdrVa := h.va, wver := h.wver, block := b, pin := h.pin, wbase := BitVec.ofNat 64 h.wbase, imageLen := h.imageLen,
              eng := none }) })))
        else if !missing.isEmpty ∨ (o.tardy && mine.all (fun x => x.got.isSome)) ∨ (mine.any (fun x => x.got.isNone) && mine.all (fun x => x.got.isSome || x.cell.isSome)) then
          .fault .notEnabled
        else
          let s := State.afterAttempt opid (s.attemptOn opid false (fun x => x.lid / 4 == slice))
          match s.dev.op? opid with
          | none => .next (s.onDev Dev.purgeQuads)
          | some o =>
            if (o.accs.filter (fun x => x.lid / 4 == slice)).all (fun x => x.got.isSome) && !o.tardy then
              (if (h.blockSites core sampler).any (fun y => s.st.errAt y == some true) then .next (blockFault s o slice)
               else .next ((s.correctAt (h.blockSites core sampler)).finishQuad core sampler o slice h))
            else .next s
  | _ => .fault .notEnabled

/-- The sample at a sampler's head that waits for a fill, with its slice. -/
def State.fillSample (s : State) (core sampler : Nat) (f : Fill) : Option (Op × Nat) :=
  match (s.dev.sampler core sampler).order with
  | .quad opid slice :: _ => (s.dev.op? opid).bind (fun o => if o.hdrVa = f.hdrVa ∧ field o.hdr 45 1 = f.wver then some (o, slice) else none)
  | _ => none

/-- The state after a fill: the block is in the weight cache. -/
def fillNext (s : State) (core sampler : Nat) (f : Fill) (bs : List Byte) : State :=
  let b : WBlock := { hdrVa := f.hdrVa, wver := f.wver, block := f.block, data := bs, pinned := false, used := 0 }
  (s.onSt (fun st => { st with errs := st.errs.filter (fun y => y.1 != .block core sampler f.hdrVa f.wver f.block) })).onDev (fun d =>
    d.modSampler core sampler (fun p => { p.install b f.pin with fills := p.fills.drop 1 }))

/-- The state after a fill that has met a fault: the sample at the sampler's head that waits for the block is delivered it, as a load of
its lanes (R181, R268; log entry 17). -/
def fillFault (s : State) (core sampler : Nat) (f : Fill) (c : FCode) : State :=
  let s := s.onDev (fun d => d.modSampler core sampler (fun p => { p with fills := p.fills.drop 1 }))
  match s.fillSample core sampler f with
  | some (o, slice) =>
    (s.deliver o ((((o.accs.filter (fun x => x.lid / 4 == slice)).map (·.lid)).eraseDups).map (fun l => (l, c)))
      (if c = .eccUncorrectable then 0 else f.wbase + BitVec.ofNat 64 (1024 * f.block))).onDev Dev.purgeQuads
  | none => s

/-- The deferred cells of a fill's block that hold no value yet: a fill meets them as a load of the sample that waits for it (R268,
R335). -/
def State.fillCells (s : State) (a : Agent) (f : Fill) : List (Nat × Place) :=
  (piecesOf ((f.wbase.toNat + 1024 * f.block) % 2 ^ 64) (min 1024 (f.imageLen - 1024 * f.block))).flatMap (fun p =>
    match a.resolve s.st p.1 .read with
    | .ok (.pa k c sc true) => (List.range ((k + p.2 - 1) / 16 - k / 16 + 1)).filterMap (fun i =>
        let tag := s.st.cellTag (k / 16 + i)
        if tag = 1 ∨ tag = 2 then some (p.1 / 16 * 16 + 16 * i, Place.pa ((k / 16 + i) * 16) c sc true) else none)
    | _ => [])

/-- The read of those cells: an operation of the sample's lanes that the fill waits for; `words` names the sample. -/
def fillLook (s : State) (o : Op) (slice : Nat) (cells : List (Nat × Place)) : Op :=
  let lid := match o.accs.find? (fun x => x.lid / 4 == slice) with | some x => x.lid | none => 4 * slice
  { o with opid := s.dev.nextOp, kind := .look, size := 16, flag := none, tags := [], words := [BitVec.ofNat 32 o.opid], deadline := none,
           accs := cells.map (fun c => { lid := lid, va := BitVec.ofNat 64 c.1, place := c.2, data := [], writers := [], got := none,
                                         cell := none, joined := 0 }) }

/-- `WEIGHT_FILL` (R373): the oldest fill of a sampler. An entry that has become absent parks the fill (log entry 17). -/
def execWeightFill (core sampler : Nat) (s : State) : Out :=
  let q := s.dev.partOfCore core
  match (s.dev.sampler core sampler).fills with
  | [] => .fault .notEnabled
  | f :: _ =>
    if !s.dev.working q ∨ (s.dev.part q).parks.any (fun k => k.2 == .fill core sampler) then .fault .notEnabled
    else
      let a := { unitAgent s.dev q with core := core }
      match s.fillCells a f, s.fillSample core sampler f with
      | c :: cs, some (o, slice) =>
        if s.dev.ops.any (fun k => k.kind == .look && k.words.head? == some (BitVec.ofNat 32 o.opid)) then .fault .notEnabled
        else .next (s.runHold (fillLook s o slice (c :: cs)))
      | _, _ => match s.engRead a ((f.wbase.toNat + 1024 * f.block) % 2 ^ 64) (min 1024 (f.imageLen - 1024 * f.block)) with
      | (s, bs, .ok) =>
        .next (fillNext s core sampler f bs)
      | (s, _, .fault c) => .next (fillFault s core sampler f c)
      | (s, _, .absent va) =>
        .next (s.openPark q { StopRec.blank with unit := 6, core := core, addr := va } (.fill core sampler))

/-- The first observation of a sampler that has not been made, with the quads before it. -/
def firstObserve : List SampItem → List SampItem → Option (List SampItem × Nat × DWord × List SampItem)
  | _, [] => none
  | before, .observe id h false :: rest => some (before, id, h, rest)
  | before, x :: rest => firstObserve (before ++ [x]) rest

/-- The state after a sampler has observed a `winv`: the header's blocks are unpinned and dropped, but for those that quads before it
need, which go with the last of these (R374). -/
def observeNext (s : State) (core sampler : Nat) (before : List SampItem) (id : Nat) (h : DWord) (rest : List SampItem) : State :=
  s.onDev (fun d =>
    let d := d.modSampler core sampler (fun p => d.settle { p with order := before ++ [.observe id h true] ++ rest })
    d.modEng id (fun e => { e with halfDone := insertNew e.halfDone sampler }))

/-- `WINV_OBSERVE` (R374). -/
def execWinvObserve (core sampler : Nat) (s : State) : Out :=
  match firstObserve [] (s.dev.sampler core sampler).order with
  | none => .fault .notEnabled
  | some (before, id, h, rest) =>
    if !s.dev.working (s.dev.partOfCore core) then .fault .notEnabled else .next (observeNext s core sampler before id h rest)

end Sys2Proof.Machine
end

