-- ==== Sys2Proof/Machine/Galley.lean ====
section
/-!
DEFINITION. Galleys (R230-R236): each lane's operation on a descriptor and its records is one step.
-/
namespace Sys2Proof.Machine
open Sys2Proof

/-- Why a lane's step on a galley cannot be made. -/
inductive GErr where
  | align | fatal | absent | perm | lock | ecc | busy | galley
  /-- a record's header lies in a deferred cell that holds no value: the step's read meets it as a load (R198). -/
  | cell
  /-- an earlier access of the lane to the same bytes, or an `lda` of it, is outstanding (R182, R185). -/
  | wait
  deriving DecidableEq, Repr

def GErr.code : GErr → FCode
  | .align => .align | .fatal => .translation | .absent => .translation | .perm => .permission | .lock => .rangeLock | .ecc => .eccUncorrectable
  | .busy => .deferBusy | .galley | .cell | .wait => .galley

/-- The lanes that a lane's access stands for: with U = 1 every lane that passes the guard (R81). -/
def Env.standsFor (e : Env) (l : Lane) : List Nat := if bit e.word.toNat 24 then e.passing.map (·.lid) else [l.lid]

/-- Bytes an access of a lane may use, read and written (R178, R180, R182, R236, R253). -/
def Env.galPlace (e : Env) (l : Lane) (va n : Nat) : Except (GErr × Nat) Place :=
  if va % n ≠ 0 then .error (.align, 0)
  else match (e.agent l).resolve e.s.st va .both with
  | .ok pl =>
    if e.s.dev.locked e.g.core true (lockAt va pl, n) then .error (.lock, va)
    else if e.s.st.placeUp pl = false then .error (.ecc, va)
    else if e.s.st.hardAt e.g.core pl then .error (.ecc, 0)
    else if (e.standsFor l).any (fun i => e.s.dev.laneBlocked e.g.gid i pl n) || e.s.dev.tileHolds e.g.core pl n then .error (.wait, va)
    else .ok pl
  | .fatal => .error (.fatal, va)
  | .absent => .error (.absent, va)
  | .perm => .error (.perm, va)

/-- A galley as a lane's step finds it: place of the descriptor and its fields (R230). -/
structure Galley where
  place : Place
  base : Nat
  size : Nat
  resv : Nat
  comm : Nat
  take : Nat
  free : Nat

def recBytes (len : Nat) : Nat := 8 + 8 * ceilDiv len 8

def Env.openGalley (e : Env) (l : Lane) (st : Store) (va : Nat) : Except (GErr × Nat) (Store × Galley) :=
  match e.galPlace l va 64 with
  | .error x => .error x
  | .ok pl =>
    if pl.deferred then .error (.galley, 0)
    else
      let r := ((e.agent l).touch st va true).read e.g.core .home pl 64
      let bs := r.2
      let g : Galley := { place := pl, base := field bs 0 8, size := field bs 8 4, resv := field bs 16 8, comm := field bs 24 8,
                          take := field bs 32 8, free := field bs 40 8 }
      if zeroAt bs 48 16 && zeroAt bs 12 4 && decide (g.size % 8 = 0 ∧ 16 ≤ g.size ∧ g.size ≤ 2 ^ 30 ∧ g.base % 8 = 0) &&
          decide (g.free ≤ g.take ∧ g.take ≤ g.comm ∧ g.comm ≤ g.resv ∧ g.resv ≤ g.free + g.size) then .ok (r.1, g)
      else .error (.galley, 0)

/-- The address of the header at an offset, and its kind and length (R231). -/
def Galley.addr (g : Galley) (off : Nat) : Nat := (g.base + off % g.size) % 2 ^ 64

/-- A header's bytes before the step reads or writes them: the cell that holds them, if any, is met as by a load or a store (R198). -/
def galCell (st : Store) (pl : Place) (wr : Bool) : Option GErr := match pl with
  | .pa k _ _ true =>
    if wr then (if st.cellTag (cellOf k) = 2 then some .busy else none)
    else if st.cellTag (cellOf k) = 0 then none else some .cell
  | _ => none

def Env.galHeader (e : Env) (l : Lane) (st : Store) (g : Galley) (off : Nat) : Except (GErr × Nat) (Store × Nat × Nat) :=
  match e.galPlace l (g.addr off) 8 with
  | .error x => .error x
  | .ok pl => match galCell st pl false with
    | some x => .error (x, g.addr off)
    | none =>
      let r := ((e.agent l).touch st (g.addr off) false).read e.g.core .home pl 4
      .ok (if pl.deferred then r.1.acquire e.g.core else r.1, leNat r.2 / 2 ^ 30, leNat r.2 % 2 ^ 30)

def Env.galPut (e : Env) (l : Lane) (st : Store) (g : Galley) (off kind len : Nat) : Except (GErr × Nat) Store :=
  match e.galPlace l (g.addr off) 8 with
  | .error x => .error x
  | .ok pl => match galCell st pl true with
    | some x => .error (x, 0)
    | none => .ok (((e.agent l).touch st (g.addr off) true).writePlace e.g.core .home pl (leBytes 4 (kind * 2 ^ 30 + len) ++ leBytes 4 0))

/-- Records of two kinds passed from an offset on, below a bound. -/
def Env.galPass (e : Env) (l : Lane) (st : Store) (g : Galley) (k1 k2 stop : Nat) : Nat → Nat → Except (GErr × Nat) (Store × Nat)
  | 0, off => .ok (st, off)
  | fuel + 1, off =>
    if stop ≤ off then .ok (st, off)
    else match e.galHeader l st g off with
      | .error x => .error x
      | .ok (st, kind, len) => if kind = k1 ∨ kind = k2 then e.galPass l st g k1 k2 stop fuel (off + recBytes len) else .ok (st, off)

/-- COMM and FREE advanced, and the offsets written back (R236). -/
def Env.galClose (e : Env) (l : Lane) (st : Store) (g : Galley) : Except (GErr × Nat) Store :=
  match e.galPass l st g 0 1 g.resv ((g.resv - g.comm) / 8 + 1) g.comm with
  | .error x => .error x
  | .ok (st, comm) => match e.galPass l st g 1 2 g.take ((g.take - g.free) / 8 + 1) g.free with
    | .error x => .error x
    | .ok (st, free) =>
      let off := match g.place with | .pa k c sc df => Place.pa (k + 16) c sc df | .scr k => .scr (k + 16)
      .ok (st.write e.g.core .home off (leBytes 8 g.resv ++ leBytes 8 comm ++ leBytes 8 g.take ++ leBytes 8 free))

/-- `gal.res` (R232): the payload address, or 0 for no room. -/
def Env.galRes (e : Env) (l : Lane) (st : Store) (desc len : Nat) : Except (GErr × Nat) (Store × List Nat) :=
  match e.openGalley l st desc with
  | .error x => .error x
  | .ok (st, g) =>
    let need := recBytes len
    if len = 0 ∨ g.size < need then .error (.galley, 0)
    else
      let pos := g.resv % g.size
      let pad := if need ≤ g.size - pos then 0 else g.size - pos
      if g.size < g.resv + pad + need - g.free then
        match e.galClose l st g with
        | .error x => .error x
        | .ok st => .ok (st, [0])
      else
        match (if pad = 0 then .ok st else e.galPut l st g g.resv 1 (pad - 8)) with
        | .error x => .error x
        | .ok st => match e.galPut l st g (g.resv + pad) 3 len with
          | .error x => .error x
          | .ok st => match e.galClose l st { g with resv := g.resv + pad + need } with
            | .error x => .error x
            | .ok st => .ok (st, [g.addr (g.resv + pad) + 8])

/-- The offset between FREE and RESV of a payload address (R236). -/
def Galley.offsetOf (g : Galley) (payload : Nat) : Option Nat :=
  if payload < g.base + 8 ∨ g.base + g.size < payload ∨ payload % 8 ≠ 0 then none
  else
    let pos := payload - 8 - g.base
    some (g.free + (pos + g.size - g.free % g.size) % g.size)

/-- `gal.com` and `gal.free` (R233, R235): the header in a range, of one kind, becomes another kind. -/
def Env.galTurn (e : Env) (l : Lane) (st : Store) (desc payload : Nat) (lo hi : Galley → Nat) (from_ to_ : Nat) :
    Except (GErr × Nat) (Store × List Nat) :=
  match e.openGalley l st desc with
  | .error x => .error x
  | .ok (st, g) => match g.offsetOf payload with
    | none => .error (.galley, 0)
    | some off =>
      if off < lo g ∨ hi g ≤ off then .error (.galley, 0)
      else match e.galHeader l st g off with
        | .error x => .error x
        | .ok (st, kind, len) =>
          if kind ≠ from_ then .error (.galley, 0)
          else match e.galPut l st g off to_ len with
            | .error x => .error x
            | .ok st => match e.galClose l st g with
              | .error x => .error x
              | .ok st => .ok (st, [])

/-- `gal.take` (R234): payload address and length, or zeros. -/
def Env.galTake (e : Env) (l : Lane) (st : Store) (desc : Nat) : Except (GErr × Nat) (Store × List Nat) :=
  match e.openGalley l st desc with
  | .error x => .error x
  | .ok (st, g) => match e.galPass l st g 1 1 g.comm ((g.comm - g.take) / 8 + 1) g.take with
    | .error x => .error x
    | .ok (st, take) =>
      if g.comm ≤ take then
        match e.galClose l st { g with take := take } with
        | .error x => .error x
        | .ok st => .ok (st, [0, 0])
      else match e.galHeader l st g take with
        | .error x => .error x
        | .ok (st, _, len) => match e.galClose l st { g with take := take + recBytes len } with
          | .error x => .error x
          | .ok st => .ok (st, [g.addr take + 8, len])

/-- The lanes' steps in ascending LID, with the answers and the lanes that cannot make theirs. -/
def galRun {α : Type} (f : Lane → Store → α → Except (GErr × Nat) (Store × List Nat)) :
    Store → List (Lane × α) → Store × List (Nat × List Nat) × List (Nat × GErr × Nat)
  | st, [] => (st, [], [])
  | st, x :: xs => match f x.1 st x.2 with
    | .ok (st1, r) => let y := galRun f st1 xs; (y.1, (x.1.lid, r) :: y.2.1, y.2.2)
    | .error err => let y := galRun f st xs; (y.1, y.2.1, (x.1.lid, err.1, err.2) :: y.2.2)

/-- What sets one galley instruction apart (R230-R236): the run of registers it writes, what a lane reads, its step, the
registers its answer fills, whether it is a release, and for which answers it is an acquire. -/
structure GalOp where
  run : Nat
  read : Env → Lane → Rd (Nat × Nat)
  step : Env → Lane → Store → Nat × Nat → Except (GErr × Nat) (Store × List Nat)
  regs : List Nat → List Reg
  rel : Bool
  acq : List Nat → Bool

def galDest (e : Env) (u : Bool) (d : Opnd) (k : GalOp) (l : Lane) : Rd Dst :=
  if k.run = 0 then Rd.pure Dst.none else dest e l u d k.run true
def galChks (e : Env) (u : Bool) (d : Opnd) (k : GalOp) : List (Nat × Chk) :=
  e.readChks u (k.read e) ++ e.lanes.map (fun l => (l.lid, (galDest e u d k l).chk))
/-- The lanes that act, with what they read. -/
def galActs (e : Env) (u : Bool) (k : GalOp) : List (Lane × Nat × Nat) := (e.accessLanes u).map (fun x => (x.1, (k.read e x.1).val))
/-- Some descriptor lies outside the local window. -/
def galFar (acts : List (Lane × Nat × Nat)) : Bool := acts.any (fun x => decide (x.2.1 < windowBase))
/-- The lanes' steps made: the store after them, their answers, and the errors. -/
def galResult (e : Env) (u : Bool) (k : GalOp) : Store × List (Nat × List Nat) × List (Nat × GErr × Nat) :=
  galRun (k.step e) (if k.rel && galFar (galActs e u k) then e.s.st.release e.g.core else e.s.st) (galActs e u k)

/-- The deferred cells that steps met without a value, each with the lane's read. -/
def Env.galCells (e : Env) (errs : List (Nat × GErr × Nat)) : List (Req × Place) :=
  errs.filterMap (fun x => match e.lanes.find? (fun l => l.lid == x.1) with
    | some l => match (e.agent l).resolve e.s.st x.2.2 .both with
      | .ok pl => some ({ lane := l, va := x.2.2, data := [], writers := [] }, pl)
      | _ => none
    | none => none)

/-- The faults of the steps (R97, R180, R236): an absent page parks where nothing before it faults; a step that must wait, or that meets
a cell without a value, holds the instruction back where nothing faults. -/
def galFault (e : Env) (errs : List (Nat × GErr × Nat)) : Option Out :=
  let of := fun (k : GErr) => errs.filter (fun x => x.2.1 == k)
  let lids := fun (k : GErr) => (of k).map (·.1)
  let addr := fun (k : GErr) => match of k with | x :: _ => BitVec.ofNat 64 x.2.2 | [] => 0
  if !(of .absent).isEmpty && (of .align).isEmpty && (of .fatal).isEmpty then some (e.park (lids .absent) (addr .absent))
  else match [GErr.align, .fatal, .perm, .lock, .ecc, .busy, .galley].find? (fun k => !(of k).isEmpty) with
    | some k => some (e.raise k.code (lids k) (addr k))
    | none =>
      if !(of .cell).isEmpty then some (e.cellGate (e.galCells (of .cell)) (fun _ => .fault .blocked))
      else if (of .wait).isEmpty then none else some (.fault .blocked)

/-- The descriptors' lines reach the L2 (R287). -/
def galHome (e : Env) (acts : List (Lane × Nat × Nat)) (s : State) : State :=
  acts.foldl (fun s x => match (e.agent x.1).resolve s.st x.2.1 .both with
    | .ok pl => (s.noteHome e.g.core pl 0).correct e.g.core pl
    | _ => s) s

/-- The state after a galley instruction: the lanes' registers hold their answers. -/
def galNext (e : Env) (u : Bool) (d : Opnd) (k : GalOp) : State :=
  let acts := galActs e u k
  let r := galResult e u k
  let st := if galFar acts && r.2.1.any (fun x => k.acq x.2) then r.1.acquire e.g.core else r.1
  let s := galHome e acts (e.settleReads (galChks e u d k) { e.s with st := st })
  let out := fun (l : Lane) => if u then r.2.1.head? else r.2.1.find? (fun x => x.1 == l.lid)
  let s := e.done s (fun l =>
    if e.m.passes l then match out l with
      | some x => l.write (galDest e u d k (e.source false l)).val (k.regs x.2)
      | none => l
    else l)
  match r.2.1 with
  | x :: _ => s.onDev (fun dv => dv.modGroup e.g.gid (fun g => g.writeS (galDest e u d k e.leader).val (k.regs x.2)))
  | [] => s

/-- A galley instruction (R230-R236). -/
def galIssue (s : State) (u : Bool) (d : Opnd) (k : GalOp) : Out :=
  withGang s (fun e =>
    e.gate (galChks e u d k) (fun _ =>
      if e.lanes.any (fun l => e.s.dev.laneHas e.g.gid l.lid (fun _ => k.rel)) then .fault .blocked
      else match galFault e (galResult e u k).2.2 with
        | some o => o
        | none => .next (galNext e u d k)))

/-- The pair and the length of `gal.res` (R232): an even run of three. -/
def readPairWord (e : Env) (l : Lane) (a : Opnd) : Rd (Nat × Nat) :=
  (locate e l a 3 true).next (fun loc => match loc with
    | .lit k => Rd.pure ((e.lit k).toNat + 2 ^ 32 * (e.lit (k + 1)).toNat, (e.lit (k + 2)).toNat)
    | .const _ | .special _ | .none => Rd.bad .illegalOperand (0, 0)
    | loc => ((Rd.seq ((List.range 2).map (regAt e l .resolve loc))).next (typedRegs e [n64Tags, i64Tags])).and
        ((regAt e l .resolve loc 2).next (fun r => typedRegs e [[.i32], [.n32]] [r])) Prod.mk)

/-- `gal.res` (R232). -/
def galResOp (a : Opnd) : GalOp :=
  { run := 2, read := fun e l => readPairWord e l a, step := fun e l st x => e.galRes l st x.1 x.2,
    regs := fun r => regsOf n64Tags (r.headD 0), rel := false, acq := fun _ => false }
/-- `gal.com` (R233). -/
def galComOp (d a : Opnd) : GalOp :=
  { run := 0, read := fun e l => (readAddr e l a).and (readAddr e l d) Prod.mk,
    step := fun e l st x => e.galTurn l st x.1 x.2 (·.comm) (·.resv) 3 0, regs := fun _ => [], rel := true, acq := fun _ => false }
/-- `gal.take` (R234). -/
def galTakeOp (a : Opnd) : GalOp :=
  { run := 3, read := fun e l => (readAddr e l a).map (fun x => (x, 0)), step := fun e l st x => e.galTake l st x.1,
    regs := fun r => regsOf n64Tags (r.headD 0) ++ [n32Reg (r.getD 1 0)], rel := false, acq := fun r => decide (r.headD 0 ≠ 0) }
/-- `gal.free` (R235). -/
def galFreeOp (d a : Opnd) : GalOp :=
  { run := 0, read := fun e l => (readAddr e l a).and (readAddr e l d) Prod.mk,
    step := fun e l st x => e.galTurn l st x.1 x.2 (·.free) (·.take) 0 2, regs := fun _ => [], rel := false, acq := fun _ => false }

/-- `gal.res` (R232). -/
def execGalRes (u : Bool) (d a : Opnd) (s : State) : Out := galIssue s u d (galResOp a)
/-- `gal.com` (R233). -/
def execGalCom (u : Bool) (d a : Opnd) (s : State) : Out := galIssue s u d (galComOp d a)
/-- `gal.take` (R234). -/
def execGalTake (u : Bool) (d a : Opnd) (s : State) : Out := galIssue s u d (galTakeOp a)
/-- `gal.free` (R235). -/
def execGalFree (u : Bool) (d a : Opnd) (s : State) : Out := galIssue s u d (galFreeOp d a)

end Sys2Proof.Machine
end

