-- ==== Sys2Proof/Machine/Tasks.lean ====
section
/-!
DEFINITION. Lane tasks, launches, feed records, futures, timing and system instructions (R36, R220-R222, R228, R239-R246).
-/
namespace Sys2Proof.Machine
open Sys2Proof

/-! Lane tasks (R36, R220, R221, R362). -/

/-- The tasks of open waves of a cluster: a task unit holds at most 1,024. -/
def Cluster.ungathered (c : Cluster) : Nat := (c.waves.map (fun w => w.tasks.length)).foldl (· + ·) 0

def Wave.sameKey (w : Wave) (t : Task) : Bool := w.entry == t.entry && w.regs == t.regs && w.stack == t.stack

/-- One task gathered (R36, R362): it joins the open wave of its key, or opens one, the oldest released first if 64 are
open. A wave of 32 tasks is released. The issuing core of its wave (R38) is that of the spawn that opened it, where its tasks come from
several cores of the cluster (DESIGN CHOICE, log entry 47). -/
def Cluster.gather (c : Cluster) (core n now : Nat) (t : Task) : Cluster :=
  if c.waves.any (fun w => w.sameKey t) then
    let ws := c.waves.map (fun w => if w.sameKey t then { w with tasks := w.tasks ++ [(n, t.arg)] } else w)
    { c with waves := ws.filter (fun w => decide (w.tasks.length < 32)),
             released := c.released ++ ws.filter (fun w => decide (32 ≤ w.tasks.length)) }
  else
    let w : Wave := { wno := c.nextWave, entry := t.entry, regs := t.regs, stack := t.stack, tasks := [(n, t.arg)], core := core,
                      first := now }
    let full := decide (64 ≤ c.waves.length)
    { c with waves := (if full then c.waves.drop 1 else c.waves) ++ [w],
             released := c.released ++ (if full then c.waves.take 1 else []), nextWave := c.nextWave + 1 }

/-- A task numbered and gathered at its task unit. -/
def Dev.gatherTask (d : Dev) (q core : Nat) (t : Task) : Dev :=
  let n := (d.part q).tasks
  (d.modPart q (fun p => { p with tasks := p.tasks + 1 })).modCluster (core / 4) (fun c => c.gather core n (d.cycOf q core) t)

/-- As a cycle ends, the tasks that have arrived in it are numbered and gathered: in ascending cluster number, at one cluster in the
order of their arrival (R15). -/
def Dev.gatherArrivals (d : Dev) : Dev :=
  (List.range 4).foldl (fun d q =>
    let xs := (d.part q).arrivals
    if xs.isEmpty then d
    else
      let d := d.modPart q (fun p => { p with arrivals := [] })
      (d.clustersOf q).foldl (fun d c => (xs.filter (fun x => x.1 / 4 == c)).foldl (fun d x => d.gatherTask q x.1 x.2) d) d) d

/-- The tasks that a cluster's unit holds: gathered in open waves or just arrived. -/
def Dev.unitTasks (d : Dev) (q cluster : Nat) : Nat :=
  (d.cluster cluster).ungathered + ((d.part q).arrivals.filter (fun x => x.1 / 4 == cluster)).length

/-- Tasks handed to the unit of a core's cluster while there is room, each with its lane; those left. -/
def Dev.handTasks (d : Dev) (q core : Nat) : List (Nat × Task) → Dev × List (Nat × Task)
  | [] => (d, [])
  | t :: ts =>
    if d.unitTasks q (core / 4) < 1024 then
      (d.modPart q (fun p => { p with arrivals := p.arrivals ++ [(core, t.2)] })).handTasks q core ts
    else (d, t :: ts)

/-- A group's team is swapped out. -/
def Dev.isOut (d : Dev) (g : Group) : Bool := match d.team? g.tid with | some t => t.out | none => true

/-- Held `spawn`s of a cluster go on as room appears, in the order of their groups (R220). -/
def Dev.pumpSpawns (d : Dev) (cluster : Nat) : Dev :=
  d.groups.foldl (fun d g0 =>
    if g0.core / 4 ≠ cluster || d.isOut g0 then d
    else g0.lanes.foldl (fun d l => match l.hold with
      | some (.spawn rest) =>
        let r := d.handTasks g0.part g0.core rest
        r.1.modGroup g0.gid (fun g =>
          if r.2.isEmpty then g.endHold l.lid id
          else { g with lanes := g.lanes.map (fun k => if k.lid = l.lid then { k with hold := some (.spawn r.2) } else k) })
      | _ => d) d) d

/-- The four registers of `spawn` (R220): the entry pair and the argument. -/
def readSpawn (e : Env) (l : Lane) (a : Opnd) : Rd (Nat × Nat) :=
  (locate e l a 4 true).next (fun loc => match loc with
    | .lit k => Rd.pure ((e.lit k).toNat + 2 ^ 32 * (e.lit (k + 1)).toNat, (e.lit (k + 2)).toNat + 2 ^ 32 * (e.lit (k + 3)).toNat)
    | .const _ | .special _ | .none => Rd.bad .illegalOperand (0, 0)
    | loc => ((Rd.seq ((List.range 2).map (regAt e l .resolve loc))).next (typedRegs e [n64Tags, i64Tags])).and
        ((Rd.seq ((List.range 2).map (fun i => regAt e l .free loc (i + 2)))).map (fun rs =>
          (rs.headD rawReg).bits.toNat + 2 ^ 32 * (rs.getD 1 rawReg).bits.toNat)) Prod.mk)

/-- The lanes that hand over a task or a record: those that act and have not handed theirs over before a save or swap-out (R247). -/
def Env.handers (e : Env) (u : Bool) : List Lane := ((e.accessLanes u).map (·.1)).filter (fun l => !l.skip)

/-- The reads of `spawn`, and the lanes that act with their entry and argument (R81, R220). -/
def spawnRead (r : BitVec 5) (a : Opnd) (e : Env) (l : Lane) : Rd (Nat × Nat) :=
  (readSpawn e l a).check (decide (1 ≤ r.toNat ∧ r.toNat ≤ 24)) .illegalOperand
def spawnActs (e : Env) (u : Bool) (r : BitVec 5) (a : Opnd) : List (Lane × Nat × Nat) :=
  (e.handers u).map (fun l => (l, (spawnRead r a e l).val))
def spawnTasks (e : Env) (u : Bool) (r : BitVec 5) (a : Opnd) (n : BitVec 8) : List (Nat × Task) :=
  (spawnActs e u r a).map (fun x =>
    (x.1.lid, { entry := BitVec.ofNat 64 x.2.1, regs := r.toNat * 8, stack := n.toNat * 256, arg := BitVec.ofNat 64 x.2.2 }))
/-- An entry address that is no code address faults ALIGN. -/
def spawnOdd (e : Env) (u : Bool) (r : BitVec 5) (a : Opnd) : List Nat :=
  ((spawnActs e u r a).filter (fun x => x.2.1 % 4 != 0)).map (·.1.lid)

/-- The state after `spawn`: a release at cluster scope, and the tasks handed over; the gang is held while some are left. -/
def spawnNext (e : Env) (u : Bool) (r : BitVec 5) (a : Opnd) (n : BitVec 8) : State :=
  let tasks := spawnTasks e u r a n
  let s := e.settleReads (e.readChks u (spawnRead r a e)) (if tasks.isEmpty then e.s else e.s.onSt (fun st => st.release e.g.core))
  let h := s.dev.handTasks e.g.part e.g.core tasks
  let s := { s with dev := h.1 }
  if h.2.isEmpty then (e.done s id).onDev (fun d => d.pumpSpawns (e.g.core / 4)) else e.hold s (.spawn h.2)

/-- `spawn` (R220, R221). -/
def execSpawn (u : Bool) (r : BitVec 5) (a : Opnd) (n : BitVec 8) (s : State) : Out :=
  withGang s (fun e =>
    e.gate (e.readChks u (spawnRead r a e)) (fun _ =>
      if !(spawnOdd e u r a).isEmpty then e.raise .align (spawnOdd e u r a) 0
      else if e.lanes.any (fun l => e.s.dev.laneHas e.g.gid l.lid (fun _ => true)) then .fault .blocked
      else .next (spawnNext e u r a n)))

/-- `TASK_WAVE_TIMEOUT` (R36): GATHER_WAIT cycles have passed since a wave's first task. -/
def execTaskWaveTimeout (cluster wave : Nat) (s : State) : Out :=
  let c := s.dev.cluster cluster
  match c.waves.find? (fun w => w.wno == wave) with
  | none => .fault .notEnabled
  | some w =>
    let q := s.dev.partOfCore (cluster * 4)
    let wait := ((s.dev.part q).desc.getD Desc.none).gatherWait
    if !s.dev.working q ∨ s.dev.cycOf q (cluster * 4) < w.first + wait then .fault .notEnabled
    else .next (s.onDev (fun d => (d.modCluster cluster (fun c =>
      { c with waves := c.waves.filter (fun x => x.wno != wave), released := c.released ++ [w] })).pumpSpawns cluster))

/-! Launches (R222, R359). -/

/-- Records copied into a team's pending queue of 4 while there is room, each with its lane; those left. -/
def Dev.queueLaunches (d : Dev) (tid : Nat) : List (Nat × List Byte) → Dev × List (Nat × List Byte)
  | [] => (d, [])
  | r :: rs =>
    match d.team? tid with
    | some t => if t.pending.length < 4 then
        Dev.queueLaunches { (d.modTeam tid (fun t => { t with pending := t.pending ++ [(d.nextStamp, r.2)] })) with
          nextStamp := d.nextStamp + 1 } tid rs
      else (d, r :: rs)
    | none => (d, r :: rs)

/-- Held `launch`es of a team go on as room appears, unless it is swapped out (R360). -/
def Dev.pumpLaunches (d : Dev) (tid : Nat) : Dev :=
  ((d.teamGroups tid).filter (fun g => !d.isOut g)).foldl (fun d g0 => g0.lanes.foldl (fun d l => match l.hold with
    | some (.launch rest) =>
      let r := d.queueLaunches tid rest
      r.1.modGroup g0.gid (fun g =>
        if r.2.isEmpty then g.endHold l.lid id
        else { g with lanes := g.lanes.map (fun k => if k.lid = l.lid then { k with hold := some (.launch r.2) } else k) })
    | _ => d) d) d

/-- The records a `launch` names, and those not aligned (R222). -/
def launchActs (e : Env) (u : Bool) (a : Opnd) : List (Lane × Nat) := (e.handers u).map (fun l => (l, (targetRead a e l).val))
def launchOdd (e : Env) (u : Bool) (a : Opnd) : List Nat := ((launchActs e u a).filter (fun x => x.2 % 128 != 0)).map (·.1.lid)

/-- The state as the records are read, after an acquire; and the records. -/
def launchState (e : Env) (u : Bool) (a : Opnd) (ps : List (Req × Place)) : State :=
  e.touchAll false ps ((e.settleReads (e.readChks u (targetRead a e)) e.s).onSt (fun st => st.acquire e.g.core))
def launchRecs (s : State) (e : Env) (ps : List (Req × Place)) : List (Nat × List Byte) :=
  ps.map (fun p => (p.1.lane.lid, s.st.fetchBytes e.g.core p.2 128))
def badRecs (s : State) (e : Env) (recs : List (Nat × List Byte)) : List Nat :=
  (recs.filter (fun r => !recordOk s.dev s.st e.g.part e.g.core false r.2)).map (·.1)

/-- The state after `launch`: the records join the team's pending queue; the gang is held while some are left. -/
def launchNext (e : Env) (s : State) (recs : List (Nat × List Byte)) : State :=
  let h := s.dev.queueLaunches e.t.tid recs
  let s := { s with dev := h.1 }
  if h.2.isEmpty then e.done s id else e.hold s (.launch h.2)

/-- `launch` (R222). In a team of a task wave or an evaluator LAUNCH_RECORD comes after ALIGN and before the faults of the records' reads
(DESIGN CHOICE, log entry 48). -/
def execLaunch (u : Bool) (a : Opnd) (s : State) : Out :=
  withGang s (fun e =>
    e.gate (e.readChks u (targetRead a e)) (fun _ =>
      let act := launchActs e u a
      if act.isEmpty then .next (e.done (e.settleReads (e.readChks u (targetRead a e)) e.s) id)
      else if !(launchOdd e u a).isEmpty then e.raise .align (launchOdd e u a) 0
      else if e.t.kind = .task ∨ e.t.kind = .evaluator then e.raise .launchRecord (act.map (·.1.lid)) 0
      else match e.checkReads 128 128 act with
        | .stop o => o
        | .ok ps => e.readGate 128 ps (fun _ =>
          let s := launchState e u a ps
          if e.lanes.any (fun l => e.s.dev.laneHas e.g.gid l.lid (fun _ => true)) then .fault .blocked
          else if !(badRecs s e (launchRecs s e ps)).isEmpty then e.raise .launchRecord (badRecs s e (launchRecs s e ps)) 0
          else .next (launchNext e s (launchRecs s e ps)))))

/-- A launch enters a partition's launch table (R356). -/
def Dev.enterLaunch (d : Dev) (q : Nat) (r : LaunchRec) (origin : LaunchOrigin) : Dev :=
  let l : Launch := { lno := d.nextLno, part := q, shape := r, origin := origin, nextTix := 0, retired := 0, lastPlaced := none,
                      inTable := true }
  { (d.modPart q (fun p => { p with launches := p.launches ++ [l] })) with nextLno := d.nextLno + 1 }

/-- The entries of a partition's launch table. -/
def Part.tableSize (p : Part) : Nat := (p.launches.filter (·.inTable)).length

/-- A LAUNCH or DRAW packet that the front end has read and that nothing but the table holds back, read before a moment of the arrival
order (R349, R356). -/
def Queue.launchBefore (k : Queue) (stamp : Nat) : Bool := match k.cur with
  | some (w :: _) => (fld w.toNat 0 8 == 1 || fld w.toNat 0 8 == 5) && k.parkSeq.isNone && !(bit w.toNat 31 && !k.live.isEmpty) &&
      decide (k.stamp < stamp)
  | _ => false

/-- A launch that arrived before a moment waits for a partition's table: a packet's, or a record copied by a team (R356, R359; log
entry 46). -/
def Dev.olderLaunch (d : Dev) (q stamp : Nat) : Bool :=
  d.teams.any (fun k => k.part == q && k.pending.any (fun y => decide (y.1 < stamp))) ||
  (d.part q).queues.any (fun k => k.launchBefore stamp)

/-- The table of a partition can accept the launch that arrived at a moment. -/
def Dev.tableTakes (d : Dev) (q stamp : Nat) : Bool := decide ((d.part q).tableSize < 16) && !d.olderLaunch q stamp

/-- The state after a pending record has entered the table. -/
def acceptNext (s : State) (t : Team) (r : List Byte) (rest : List (Nat × List Byte)) : State :=
  s.onDev (fun d =>
    ((d.modTeam t.tid (fun t => { t with pending := rest })).enterLaunch t.part (LaunchRec.ofBytes r) .device).pumpLaunches t.tid)

/-- `PENDING_LAUNCH_ACCEPT` (R356, R359): the record copied first among the partition's pending queues enters the table, in its turn
among the packets' launches. -/
def execPendingLaunchAccept (tid : Nat) (s : State) : Out :=
  match s.dev.team? tid with
  | some t => match t.pending with
    | x :: rest =>
      if !s.dev.working t.part ∨ !s.dev.tableTakes t.part x.1 then .fault .notEnabled
      else .next (acceptNext s t x.2 rest)
    | [] => .fault .notEnabled
  | none => .fault .notEnabled

/-! Feed records (R228). -/

/-- The registers of a work record. -/
def feedRegs (bs : List Byte) : List Reg := (wordsOf bs).map (fun w => { bits := w, tag := .n32 })

/-- The reads and checks of `fpop`, and the feed queue it names: the leader's A. -/
def fpopRead (a : Opnd) (p : BitVec 6) (e : Env) (l : Lane) : Rd Reg := (readAny e l a).check (predOk p.toNat) .illegalOperand
def fpopChks (e : Env) (u : Bool) (d a : Opnd) (p : BitVec 6) : List (Nat × Chk) :=
  e.readChks u (fpopRead a p e) ++ e.lanes.map (fun l => (l.lid, (dest e l u d 16 true).chk))
def fpopQueue (e : Env) (a : Opnd) (p : BitVec 6) : Nat := (fpopRead a p e e.leader).val.bits.toNat % 64
def fpopFeed (e : Env) (a : Opnd) (p : BitVec 6) : Feed := (e.part.feeds)[fpopQueue e a p]?.getD { records := [], closed := false }

/-- The lanes that get a record, each with its record, in ascending LID. -/
def fpopTakers (e : Env) (u : Bool) (a : Opnd) (p : BitVec 6) : List (List Nat × List Byte) :=
  (e.accessLanes u).zipIdx.filterMap (fun x => match (fpopFeed e a p).records[x.2]? with
    | some r => some (x.1.2.map (·.lid), r)
    | none => none)

/-- A lane after `fpop`: the record's words in its registers and 1 in its predicate, or 0 there. -/
def fpopLane (e : Env) (u : Bool) (d a : Opnd) (p : BitVec 6) (l : Lane) : Lane :=
  if e.m.passes l then
    match (fpopTakers e u a p).find? (fun t => t.1.contains l.lid) with
    | some t => (l.write (dest e (e.source false l) u d 16 true).val (feedRegs t.2)).setP p.toNat true
    | none => l.setP p.toNat false
  else l

/-- The state after `fpop`: the records leave the queue, an acquire if any did. -/
def fpopNext (e : Env) (u : Bool) (d a : Opnd) (p : BitVec 6) : State :=
  let ts := fpopTakers e u a p
  let s := e.settleReads (fpopChks e u d a p) e.s
  let s := s.onDev (fun dv => dv.modPart e.g.part (fun pt => { pt with feeds := modAt pt.feeds (fpopQueue e a p) (fun f =>
    { f with records := f.records.drop ts.length }) }))
  let s := if ts.isEmpty then s else s.onSt (fun st => st.acquire e.g.core)
  let s := e.done s (fpopLane e u d a p)
  match ts with
  | t :: _ => s.onDev (fun dv => dv.modGroup e.g.gid (fun g => g.writeS (dest e e.leader u d 16 true).val (feedRegs t.2)))
  | [] => s

/-- `fpop` (R228): the group waits while its queue is empty and open. -/
def execFpop (u : Bool) (d a : Opnd) (p : BitVec 6) (s : State) : Out :=
  withGang s (fun e =>
    e.gate (fpopChks e u d a p) (fun _ =>
      if (fpopFeed e a p).records.isEmpty && !(fpopFeed e a p).closed then
        .next (e.waitFor (e.settleReads (fpopChks e u d a p) e.s) (.fpop (fpopQueue e a p)))
      else .next (fpopNext e u d a p)))

/-! Futures (R237-R241). -/

/-- A handle in a register, with the place of the register (R239). -/
def readHandle (e : Env) (l : Lane) (a : Opnd) : Rd (Dst × Reg) :=
  (locate e l a 1 false).next (fun loc => (regAt e l .free loc 0).map (fun r =>
    (match loc with | .v n => .v n | .s n => .s n | _ => .none, r)))

def readFuture (e : Env) (l : Lane) (a : Opnd) : Rd (Dst × Reg) :=
  let r := readHandle e l a
  r.check (r.val.2.tag == .future) .format

/-- A participating lane with its handle: the lane that reads it, the lanes it stands for, its register, its value and what
the future table says of it. -/
structure Held where
  lane : Lane
  lids : List Nat
  reg : Dst
  handle : Word
  view : FutView
  deriving DecidableEq, Repr

def Held.busy (h : Held) : Bool := h.view == .busy

/-- The participating lanes with their handles. -/
def handles (e : Env) (u : Bool) (rd : Env → Lane → Rd (Dst × Reg)) : List Held :=
  (e.accessLanes u).map (fun x =>
    let r := (rd e x.1).val
    { lane := x.1, lids := x.2.map (·.lid), reg := r.1, handle := r.2.bits, view := futView e.t r.2.bits })

/-- A stale handle faults FUTURE_INVALID (R237). -/
def staleLids (hs : List Held) : List Nat := (hs.filter (fun h => !h.view.live)).map (·.lane.lid)

def futRead (a : Opnd) (e : Env) (l : Lane) : Rd (Dst × Reg) := readFuture e l a
def adoptRead (a : Opnd) (e : Env) (l : Lane) : Rd (Dst × Reg) := readHandle e l a

/-- The checks of an instruction on handles with a destination, and of one without. -/
def futChks (e : Env) (u : Bool) (d : Opnd) (rd : Env → Lane → Rd (Dst × Reg)) : List (Nat × Chk) :=
  e.readChks u (rd e) ++ e.lanes.map (fun l => (l.lid, (dest e l u d 1 false).chk))

/-- What a handle gives D (R239): the status of an operation that is over, or all ones while it runs. -/
def Held.result (h : Held) : Reg := match h.view with
  | .status w => { bits := w, tag := .n32 }
  | _ => { bits := 0xFFFFFFFF, tag := .n32 }

/-- A lane that receives it: in D, and over the handle where the operation is over. -/
def statusLane (e : Env) (u : Bool) (d : Opnd) (hs : List Held) (l : Lane) : Lane :=
  match hs.find? (fun h => h.lids.contains l.lid) with
  | some h =>
    let k := l.write (dest e (e.source false l) u d 1 false).val [h.result]
    if h.busy then k else k.write h.reg [h.result]
  | none => l

/-- The s registers that receive it, and the entry that becomes FREE (R237, R239). -/
def Env.settleHandle (e : Env) (u : Bool) (d : Opnd) (h : Held) (dv : Dev) : Dev :=
  let dst := (dest e e.leader u d 1 false).val
  let dv := dv.modGroup e.g.gid (fun g => g.writeS dst [h.result])
  if h.busy then dv
  else ((dv.modGroup e.g.gid (fun g => g.writeS h.reg [h.result])).modTeam e.t.tid (fun t => t.freeFut h.handle)).pumpEngs

/-- The state after `fut.test`, and after a `fut.wait` none of whose operations runs: an acquire if some operation is over. -/
def futNext (e : Env) (u : Bool) (d a : Opnd) : State :=
  let hs := handles e u (futRead a)
  let s := if hs.any (fun h => !h.busy) then e.s.onSt (fun st => st.acquire e.g.core) else e.s
  hs.foldl (fun s h => s.onDev (e.settleHandle u d h)) (e.done s (statusLane e u d hs))

/-- `fut.wait` (R239): the group waits while some operation runs. -/
def execFutWait (u : Bool) (d a : Opnd) (s : State) : Out :=
  withGang s (fun e => e.gate (futChks e u d (futRead a)) (fun _ =>
    let hs := handles e u (futRead a)
    if !(staleLids hs).isEmpty then e.raise .futureInvalid (staleLids hs) 0
    else if hs.any Held.busy then .next (e.waitFor e.s .futWait)
    else .next (futNext e u d a)))
/-- `fut.test` (R239). -/
def execFutTest (u : Bool) (d a : Opnd) (s : State) : Out :=
  withGang s (fun e => e.gate (futChks e u d (futRead a)) (fun _ =>
    let hs := handles e u (futRead a)
    if !(staleLids hs).isEmpty then e.raise .futureInvalid (staleLids hs) 0
    else .next (futNext e u d a)))

/-- The state after `fut.cancel`: the operations of BUSY handles are asked to stop (R240). -/
def cancelNext (e : Env) (u : Bool) (a : Opnd) : State :=
  let busy := ((handles e u (futRead a)).filter Held.busy).map (fun h => h.handle.toNat)
  e.done (e.s.onDev (fun d => { d with engs := d.engs.map (fun g =>
    if g.tid = e.t.tid ∧ g.packet.isNone ∧ busy.any (fun h => h % 64 == g.fut && fld h 6 10 == g.gen) then
      { g with cancelled := true } else g) })) id

/-- `fut.cancel` (R240). A stale handle faults FUTURE_INVALID (DESIGN CHOICE, log entry 48). -/
def execFutCancel (u : Bool) (a : Opnd) (s : State) : Out :=
  withGang s (fun e => e.gate (e.readChks u (futRead a e)) (fun _ =>
    let hs := handles e u (futRead a)
    if !(staleLids hs).isEmpty then e.raise .futureInvalid (staleLids hs) 0
    else .next (cancelNext e u a)))

/-- The state after `fut.adopt`: D holds the handle, tagged FUTURE (R241). -/
def adoptNext (e : Env) (u : Bool) (d a : Opnd) : State :=
  let hs := handles e u (adoptRead a)
  let reg := fun (h : Held) => [({ bits := h.handle, tag := .future } : Reg)]
  let s := e.done e.s (fun l => match hs.find? (fun h => h.lids.contains l.lid) with
    | some h => l.write (dest e (e.source false l) u d 1 false).val (reg h)
    | none => l)
  match hs with
  | h :: _ => s.onDev (fun dv => dv.modGroup e.g.gid (fun g => g.writeS (dest e e.leader u d 1 false).val (reg h)))
  | [] => s

/-- `fut.adopt` (R241). -/
def execFutAdopt (u : Bool) (d a : Opnd) (s : State) : Out :=
  withGang s (fun e => e.gate (futChks e u d (adoptRead a)) (fun _ =>
    let hs := handles e u (adoptRead a)
    if !(staleLids hs).isEmpty then e.raise .futureInvalid (staleLids hs) 0
    else .next (adoptNext e u d a)))

/-! Timing (R242-R244). -/

def cycVal (e : Env) (_ : Lane) : Rd Res := Rd.pure { regs := regsOf n64Tags (e.s.dev.cycOf e.g.part e.g.core), words := 0 }
/-- `tim.cyc` (R242). -/
def execTimCyc (u : Bool) (d : Opnd) (s : State) : Out := valueIssue s u d pairOf cycVal

/-- The largest target of the participating lanes. -/
def wcycTarget (e : Env) (u : Bool) (a : Opnd) : Nat := ((launchActs e u a).map (·.2)).foldl Nat.max 0

/-- In lockup mode a target already past is a breach (R392): counted, and trapped where the launch asks for it. -/
def wcycBreach (e : Env) (s : State) : State :=
  let s := (e.done s id).onDev (fun d => d.modGroup e.g.gid (fun g => { g with breach := min 0xFFFFFFFF (g.breach + 1) }))
  if e.t.shape.breachTrap then
    s.onDev (fun d => d.raiseFault e.g.part (faultOf d e.g e.t .lockupBreach e.sel.pc (e.passing.map (·.lid)) 0))
  else s

/-- The state after `tim.wcyc` (R242, R390, R392): the gang is held until the largest target. -/
def wcycNext (e : Env) (u : Bool) (a : Opnd) : State :=
  let s := e.settleReads (e.readChks u (targetRead a e)) e.s
  let now := e.s.dev.cycOf e.g.part e.g.core
  if (launchActs e u a).isEmpty then e.done s id
  else if e.s.dev.lockup e.g.part ∧ wcycTarget e u a < now then wcycBreach e s
  else if wcycTarget e u a ≤ now then e.done s id
  else e.hold s (.wcyc (wcycTarget e u a))

/-- `tim.wcyc` (R242, R390, R392). -/
def execTimWcyc (u : Bool) (a : Opnd) (s : State) : Out :=
  withGang s (fun e => e.gate (e.readChks u (targetRead a e)) (fun _ => .next (wcycNext e u a)))

/-- A lane's gang is held by `tim.wcyc` for a cycle that has come. -/
def Lane.wcycDue (l : Lane) (now : Nat) : Bool :=
  match l.hold with | some (.wcyc t) => decide (t ≤ now) | _ => false

/-- `TIM_WCYC_RELEASE` (R242, R392): the count has reached the target of a held gang. -/
def execTimWcycRelease (gid : Nat) (s : State) : Out :=
  match s.dev.group? gid with
  | some g =>
    let now := s.dev.cycOf g.part g.core
    let due := g.lanes.filter (·.wcycDue now)
    if due.isEmpty ∨ !s.dev.working g.part then .fault .notEnabled
    else .next (s.onDev (fun d => d.modGroup gid (fun g => due.foldl (fun g l => g.endHold l.lid id) g)))
  | none => .fault .notEnabled

def wordRead (a : Opnd) (e : Env) (l : Lane) : Rd Reg := readAny e l a

/-- The state after `tim.pclass`: the team requests the leader's class (R243). A task wave, an evaluator or a fragment group makes no request
(R395): there the instruction only goes on (DESIGN CHOICE, log entry 48). -/
def pclassNext (e : Env) (u : Bool) (a : Opnd) : State :=
  let s := e.settleReads (e.readChks u (wordRead a e)) e.s
  e.done (if e.passing.isEmpty ∨ e.t.pclass.isNone then s
    else s.onDev (fun d => d.modTeam e.t.tid (fun t => { t with pclass := some ((wordRead a e e.leader).val.bits.toNat % 4) }))) id

/-- `tim.pclass` (R243). -/
def execTimPclass (u : Bool) (a : Opnd) (s : State) : Out :=
  withGang s (fun e => e.gate (e.readChks u (wordRead a e)) (fun _ => .next (pclassNext e u a)))

/-- The state after `tim.yield`: the gang is yielded (R26, R243). -/
def yieldNext (e : Env) : State := e.done e.s (fun l => if e.passing.isEmpty then l else { l with yielded := true })

/-- `tim.yield` (R243). -/
def execTimYield (_ : Bool) (s : State) : Out := withGang s (fun e => .next (yieldNext e))

/-- The constant terms of the lockup latency table (R388). -/
def lockupRows : List Nat :=
  [4, 1, 6, 10, 24, 48, 14, 36, 18, 10, 12, 2, 6, 24, 72, 32, 36, 200, 240, 16, 220, 16, 80, 96, 56, 8, 4, 208, 4, 80, 4, 4]

def Dev.lockupRow (d : Dev) (core n : Nat) : Nat :=
  if n = 0x30 then d.waveG core
  else if n = 0x31 then d.waveSp core
  else lockupRows.getD n 0xFFFFFFFF

/-- A row of R388, named by A with any tag (DESIGN CHOICE, log entry 48). -/
def lockqVal (a : Opnd) (e : Env) (l : Lane) : Rd Res :=
  (readAny e l a).map (fun r => Res.word (BitVec.ofNat 32 (e.s.dev.lockupRow e.g.core r.bits.toNat)) .n32)
/-- `tim.lockq` (R244, R388). -/
def execTimLockq (u : Bool) (d a : Opnd) (s : State) : Out := valueIssue s u d one (lockqVal a)

/-! System (R245, R246). -/

def trapRead (a : Opnd) (e : Env) (l : Lane) : Rd Reg := readMove e l a

/-- `sys.trap` and `sys.brk` (R245): the participating lanes take the exception; the leader's A goes into its record. -/
def trapIssue (code : FCode) (u : Bool) (a : Opnd) (s : State) : Out :=
  withGang s (fun e =>
    e.gate (e.readChks u (trapRead a e)) (fun _ =>
      if e.passing.isEmpty then .next (e.done e.s id)
      else e.raise code (e.passing.map (·.lid)) ((trapRead a e e.leader).val.bits.setWidth 64)))

/-- `sys.trap` (R245). -/
def execSysTrap (u : Bool) (a : Opnd) (s : State) : Out := trapIssue .softwareTrap u a s
/-- `sys.brk` (R245). -/
def execSysBrk (u : Bool) (a : Opnd) (s : State) : Out := trapIssue .breakpoint u a s

/-- The state after `sys.perf`: where tracing is enabled, the leader's A joins the trace with the cycle (R246). -/
def perfNext (e : Env) (u : Bool) (a : Opnd) : State :=
  let s := e.settleReads (e.readChks u (wordRead a e)) e.s
  e.done (if e.passing.isEmpty || !e.part.tracing then s
    else s.onDev (fun d => d.modPart e.g.part (fun p =>
      { p with trace := p.trace ++ [(e.s.dev.cycOf e.g.part e.g.core, (wordRead a e e.leader).val.bits)] }))) id

/-- `sys.perf` (R246). -/
def execSysPerf (u : Bool) (a : Opnd) (s : State) : Out :=
  withGang s (fun e => e.gate (e.readChks u (wordRead a e)) (fun _ => .next (perfNext e u a)))

end Sys2Proof.Machine
end

