-- ==== Sys2Proof/Machine/Context.lean ====
section
/-!
DEFINITION. Halts, saves, kills and their records (R247, R256, R293, R316-R330): the events `PARK`, `PARKED_SWITCH_OUT`,
`HALT`, `PREEMPT_SAVE`, `PREEMPT_TIMEOUT` and `WATCHDOG`, and what a context leaves when it ends.
-/
namespace Sys2Proof.Machine
open Sys2Proof

/-! Stopping the units (R320, R321). -/

/-- The operations of a partition of some kinds, oldest first. -/
def Dev.opsOf (d : Dev) (q : Nat) (f : OpKind → Bool) : List Op := d.ops.filter (fun o => o.part == q && f o.kind)

/-- An atomic in flight at a halt (R321): performed and its destinations written; lanes that wait on a deferred cell are
captured. -/
def State.settleAtomic (s : State) (opid : Nat) : State :=
  let s := State.afterAttempt opid (s.attempt opid false)
  match s.dev.op? opid with
  | none => s
  | some o =>
    if State.allGot o then s.completeOp o
    else
      let left := (o.accs.filter (fun x => x.got.isNone)).map (fun x => { x with cell := none })
      (s.onDev (fun d => d.deliverResults o)).capture { o with accs := left } 1 (left.map (·.lid)) 0

/-- The entries of the matrix queues of a partition, each with its core. -/
def Dev.queued (d : Dev) (q : Nat) : List (Nat × MxEntry) := (d.coresOf q).flatMap (fun c => (d.core c).mq.map (fun x => (c, x)))

/-- An operation in flight captured whole (R321, R324). The quads of an `smp` that are over have completed, and their lanes' results are
written (R320). A release store that still waits for earlier accesses of its lanes is captured with its addresses and data as CKIND 6,
one held for a tile (`held`) as CKIND 5. -/
def State.captureOp (s : State) (o : Op) (held : Bool) : State :=
  let ended := (smpResults o.words).map (·.1)
  let s := if o.kind = .smp ∧ !ended.isEmpty then s.onDev (fun d => d.putSmp o) else s
  let accs := (if o.kind = .smp then o.accs.filter (fun a => !ended.contains a.lid) else o.accs).map (fun a => { a with got := none, cell := none })
  s.capture { o with accs := accs, words := [] } (if held then 5 else o.kind.ckind (o.accs.any (fun a => a.cell.isSome)))
    (accs.flatMap (fun a => a.lid :: a.writers.map (·.1))).eraseDups 0

/-- The CKIND of a queued matrix operation at a halt: a multiply that has started is captured to go on at its next chunk, a transfer or
`acc.rd` is captured whole (R321, R324), and any other has not been executed (R256); 8 marks these. -/
def MxEntry.ckind (x : MxEntry) : Nat :=
  if x.kind = .ld ∨ x.kind = .st ∨ x.kind = .rd then 4 else if x.done = 0 then 8 else 3

/-- Long-latency instructions still in flight are captured in the order of their issue (R321, R324); queued matrix operations
that have not started are kept with them, in their order (R256). -/
def State.captureAll (s : State) (q : Nat) : State :=
  let ops := (s.dev.opsOf q (fun k => k.completes || k == .smp || k == .accLd || k == .accSt || k == .store || k == .plate || k == .strl)).map (·.opid)
  let ids := (ops ++ (s.dev.queued q).map (fun x => x.2.opid)).foldl (fun l x => insertNat x l) []
  let held := (s.dev.ops.filter (fun o => o.kind.isStore && s.dev.writeHeld o)).map (·.opid)
  ids.foldl (fun s id => match (s.dev.queued q).find? (fun x => x.2.opid == id) with
    | some (c, x) => s.captureMx c x x.ckind
    | none => match s.dev.op? id with
      | some o => s.captureOp o (held.contains id)
      | none => s) s

/-- A read that meets a delivered fault as the units stop (R320, R321): its fault record is written with the others. -/
def State.settleRead (s : State) (opid : Nat) : State :=
  match s.dev.op? opid with
  | none => s
  | some o =>
    let bads := (o.accs.filter (fun x => x.got.isNone && x.cell.isNone)).filterMap (fun x => match s.cellBar o x with
      | some (.bad c) => some (x.lid, c)
      | _ => none)
    if bads.isEmpty then s else s.deliver o bads 0

/-- The units of a partition stopped: atomics are performed, and release stores that no earlier access of their lanes holds back; reads
that meet POISON cells are faulted, `wpin` and `winv` complete, and everything else in flight is captured. -/
def State.stopUnits (s : State) (q : Nat) : State :=
  let s := (s.dev.opsOf q OpKind.isAtomic).foldl (fun s o => s.settleAtomic o.opid) s
  let s := (s.dev.opsOf q (· == .strl)).foldl (fun s o => if s.dev.writeReady o then s.finishWrite o else s) s
  let s := (s.dev.opsOf q (fun k => k.completes && !k.isAtomic)).foldl (fun s o => s.settleRead o.opid) s
  let s := (s.captureAll q).onDev Dev.purgeQuads
  let s := (s.dev.engs.filter (fun e => e.part == q && (e.kind == .winv || e.kind == .wpin))).foldl (fun s e =>
    let s := if e.kind = .winv then s.onDev (fun d => d.modCore e.core (fun c => { c with samplers := c.samplers.map (fun p =>
        if p.order.any (fun i => match i with | .observe id _ _ => id == e.eid | _ => false) then
          { p with order := p.order.filter (fun i => match i with | .observe id _ _ => id != e.eid | _ => true),
                   blocks := p.blocks.filter (fun b => b.hdrVa != e.hdrVa) }
        else p) })) else s
    if e.parkSeq.isSome then s else s.runEng (if e.kind = .winv then { e with cancelled := false } else e)) s
  s.onDev (fun d => (d.coresOf q).foldl (fun d c => d.modCore c (fun k =>
    { k with samplers := k.samplers.map (fun p => { p with fills := [] }) })) d)

/-- The unit stop record of a multiply that has started: its resume point is the chunks or k steps done (R320, R323). -/
def Dev.mxRecord (d : Dev) (core : Nat) (x : MxEntry) : StopRec :=
  let g := d.group? x.gid
  let t := d.team? x.tid
  { StopRec.blank with kind := 2, unit := 1, core := core, pc := x.done,
                       slot := match g with | some g => g.gslot | none => 0, gix := match g with | some g => g.gix | none => 0,
                       tix := match t with | some t => t.tix | none => 0, launch := match t with | some t => (launchIdOf t).toNat | none => 0 }

/-- The unit stop records: one for each multiply under way in a matrix unit and one for each engine operation under way (R320). -/
def Dev.unitRecords (d : Dev) (q : Nat) : List StopRec :=
  ((d.queued q).filter (fun x => x.2.done != 0)).map (fun x => d.mxRecord x.1 x.2) ++
  (d.engs.filter (fun e => e.part == q && e.kind != .wpin && e.kind != .winv && e.parkSeq.isNone && !d.engBehind e)).map (fun e =>
    { e.record d with kind := 2 })

/-! The save (R247, R293, R327, R328). -/

/-- Holds that a save drops: their instructions are saved as not executed. -/
def Hold.drops : Hold → Bool
  | .fence _ _ | .cmo _ _ _ | .ret _ | .wcyc _ | .eng _ _ _ _ _ | .spawn _ | .launch _ => true
  | .fout _ | .follow _ => false

/-- A group as a save leaves it (R50, R247): its waits are of instructions not executed, but for what their lanes have done of them. The
arrival of a barrier wait has counted. -/
def Group.saved (g : Group) : Group :=
  let g := match g.wait with
    | some (.barrier _ _) => { g.rewait with lanes := g.lanes.map (fun (l : Lane) => if g.waiting.contains l.lid then { l with skip := true } else l) }
    | none => g
    | some _ => g.rewait
  { g.dropHolds Hold.drops with parking := none, pace := [] }

/-- Groups of teams that are not swapped out. -/
def Dev.residents (d : Dev) (q : Nat) : List Group :=
  d.groups.filter (fun g => g.part == q && (match d.team? g.tid with | some t => !t.out | none => false))

/-- Pool entries of a partition written to the spill area (R293); one whose bucket is full stays in the pool (DESIGN CHOICE, log entry
49). -/
def Dev.spillAll (d : Dev) (q : Nat) : Nat → Store → Store
  | 0, st => st
  | n + 1, st =>
    match st.exact.find? (fun x => x.spill.isNone && inShare q d.nparts x.pa && decide (d.buckets q ≠ 0) &&
        !(d.bucketFree st q (d.bucketOf q x.pa)).isEmpty) with
    | none => st
    | some x =>
      let a := (d.bucketFree st q (d.bucketOf q x.pa)).headD 0
      d.spillAll q n (({ st with
        exact := st.exact.map (fun y => if y.pa = x.pa ∧ y.elem = x.elem then { y with spill := some a } else y) } : Store).homeSet none a x.bytes)

/-- The caches of a partition's cores and its TLBs emptied, dirty lines written back (R314). -/
def Dev.dropCaches (d : Dev) (q : Nat) (st : Store) : Store :=
  let st := (d.coresOf q).foldl (fun st c => st.acquire c) st
  { st with lines := st.lines.filter (fun l => d.partOfCore l.core != q), tlb := st.tlb.filter (fun t => t.part != q) }

/-- Bytes a save writes, as R327 counts them: those it gives exactly, and the most that the rows "up to" allow. -/
def Dev.saveBounds (d : Dev) (q : Nat) : Nat × Nat :=
  let gs := d.residents q
  let sum := fun (l : List Nat) => l.foldl (· + ·) 0
  let teams := d.teams.filter (fun t => t.part == q && !t.out)
  let low := sum (gs.map (fun g => g.width * (4 * g.budget + 64) + ceilDiv (5 * g.budget * g.width) 8)) +
    sum (teams.map (fun t => (if t.shape.quad then 4 else 1) * t.shape.scratch + 4096 * t.shape.acc * t.cores.length + 2048))
  let high := low + 8192 * gs.length + sum ((d.part q).replays.map (fun r => 64 + 32 * r.mask.length)) +
    49152 * (144 / d.nparts) + 262144
  (low, high)

/-- Whether the save passed the shadow ways (R328); between the two bounds the spec leaves it open (log entry 5). -/
def Dev.saveSpills (d : Dev) (q : Nat) : Bool :=
  let cap := ((d.part q).desc.getD Desc.none).shadowW * 262144 * d.slicesOf
  let b := d.saveBounds q
  if cap < b.1 then true else if b.2 ≤ cap then false else Config.freeCount d.freeCtr % 2 == 1

/-- The replay records of a partition in order of capture, as bytes. -/
def Dev.replayBytes (d : Dev) (q : Nat) : List Byte :=
  let rs := (d.part q).replays.filter (fun r => r.ckind != 8)
  rs.flatMap (fun r =>
    let slot := match d.group? r.gid with | some g => g.gslot | none => 0
    r.bytes slot (rs.filter (fun x => x.gid == r.gid && decide (x.seq < r.seq))).length)

/-- The replay records written to the save area (R324, R328). -/
def State.writeReplays (s : State) (q : Nat) : State :=
  s.writeSave q (s.dev.replayBytes q)

/-- The context's state saved: it stands switched out. Its state stays where it is in the model: the image but for the replay
records is private to the device and firmware (R328), and no other context takes the partition meanwhile (R408). -/
def State.save (s : State) (q : Nat) : State :=
  let s := s.writeReplays q
  let hold := (s.dev.residents q).map (·.gid)
  let s := (s.dev.ops.filter (fun o => hold.contains o.gid)).foldl (fun s o => s.leaveQueues q o.opid) s
  let s := s.onDev (fun d =>
    let d := { d with ops := d.ops.filter (fun o => !(hold.contains o.gid)),
                      groups := d.groups.map (fun (g : Group) => if hold.contains g.gid then g.saved else g),
                      teams := d.teams.map (fun (t : Team) => if t.part = q ∧ !t.out then
                        { t with barriers := t.barriers.map (fun (b : Barrier) => ({ b with leaving := [], after := [] } : Barrier)) } else t), freeCtr := d.freeCtr + 1 }
    d.modPart q (fun p => { p with run := .out, halt := false, haltAt := none, waiters := [], replaying := [], preemptAt := none }))
  s.onSt (fun st => s.dev.dropCaches q (s.dev.spillAll q st.exact.length st))

/-! Ends of contexts (R326, R329). -/

/-- The cells of a partition's evaluators and evaluator waves that have not published become POISON (R343). -/
def State.poisonAll (s : State) (q : Nat) : State :=
  let faults := (s.dev.part q).faults
  let code := fun (gid : Nat) => match faults.find? (fun r => r.gid == some gid) with | some r => r.code.code | none => 0
  let s := (s.dev.groups.filter (fun g => g.part == q)).foldl (fun s g =>
    (g.lanes.filter (fun l => l.live && decide (l.ticket ≠ 0) && !l.published)).foldl (fun s l =>
      s.poisonCell q l.cell l.ticket.toNat (code g.gid)) s) s
  (s.dev.part q).evals.foldl (fun s w => w.lanes.foldl (fun s l => s.poisonCell q l.cell l.ticket 0) s) s

/-- The partition holds no context: nothing of it stays but memory. The count of stop records stays readable. -/
def State.clearContext (s : State) (q : Nat) : State :=
  let tids := (s.dev.teams.filter (fun t => t.part == q)).map (·.tid)
  let s := s.onSt (fun st => tids.foldl (fun st t => st.freeTeam t) ((s.dev.dropCaches q
    { st with exact := st.exact.filter (fun x => !inShare q s.dev.nparts x.pa) }).unretain q))
  s.onDev (fun d =>
    let d := { d with groups := d.groups.filter (fun g => g.part != q), teams := d.teams.filter (fun t => t.part != q),
                      ops := d.ops.filter (fun o => o.part != q), engs := d.engs.filter (fun e => e.part != q) }
    let d := (d.coresOf q).foldl (fun d c => d.modCore c (fun k => { Core.reset with working := k.working, cw := k.cw })) d
    let d := (d.clustersOf q).foldl (fun d c => d.modCluster c (fun k => { k with waves := [], released := [], frames := [], frags := [] })) d
    d.modPart q (fun p => { Part.reset with seq := p.seq, ringTail := p.ringTail, cyc := p.cyc, overflow := p.overflow }))

/-- A context killed (R329): its units stop and write their records, its evaluators' cells are poisoned, a context record with FLAGS [1]
and CAUSE 4 is written, and nothing is saved. -/
def State.killContext (s : State) (q fcode : Nat) (addr : DWord) : State :=
  if (s.dev.part q).desc.isNone then s
  else
    let units := if (s.dev.part q).run == .out then [] else s.dev.unitRecords q
    let s := s.onDev (fun d => { d with ops := d.ops.filter (fun o => o.part != q) })
    let s := s.onDev (fun d => d.modPart q (fun p => { p with waiters := [], replaying := [] }))
    let s := s.poisonAll q
    let s := s.onSt (fun st => s.dev.dropCaches q st)
    let s := units.foldl (fun s r => s.putRecord q r) s
    let s := s.putRecord q { contextRecord (2 + 8 * 4) fcode with addr := addr.toNat }
    let s := if (s.dev.part q).overflow then s.onDev (fun d => d.interrupt (8 + 4 * q)) else s
    s.clearContext q

/-- A stop ring that overflowed kills the context (R323). -/
def State.checkRing (s : State) (q : Nat) : State := if (s.dev.part q).overflow then s.killContext q 0 0 else s

/-- DRAIN ends when every team has retired, with nothing saved (R326): no team, task wave or evaluator stands and no complete
launch waits for its decrement. -/
def State.endDrain (s : State) (q : Nat) : State :=
  let p := s.dev.part q
  let left := s.dev.teams.any (fun t => t.part == q) || !p.evals.isEmpty ||
    (s.dev.clustersOf q).any (fun c => !(s.dev.cluster c).waves.isEmpty || !(s.dev.cluster c).released.isEmpty || !(s.dev.cluster c).frags.isEmpty) ||
    p.launches.any (fun l => !l.inTable)
  if p.run != .draining || p.halt || left then s
  else
    let s := s.onSt (fun st => s.dev.dropCaches q (s.dev.spillAll q st.exact.length st))
    ((s.putRecord q (contextRecord (1 + 8 * 2) 0)).checkRing q).clearContext q

/-! Parking (R317, R319). -/

/-- `PARK` (R317): the park record of a group that met an absent page is written, and the group is parked on its ticket. -/
def execPark (gid : Nat) (s : State) : Out :=
  match s.dev.group? gid with
  | some g => match g.parking with
    | some r =>
      if !s.dev.working g.part then .fault .notEnabled
      else
        let seq := s.nextSeq g.part
        let s := s.openPark g.part (r.record 1 0) (.group gid)
        .next ((s.onDev (fun d => d.modGroup gid (fun g => { g with parking := none, parked := some seq }))).checkRing g.part)
    | none => .fault .notEnabled
  | none => .fault .notEnabled

/-- The records and the save of a pass, a context record last. -/
def closePass (s : State) (q cause : Nat) (units : List StopRec) : State :=
  let s := units.foldl (fun s r => s.putRecord q r) s
  let spills := s.dev.saveSpills q
  let s := s.save q
  (s.putRecord q (contextRecord (1 + (if spills then 4 else 0) + 8 * cause) 0)).checkRing q

/-! The halt line (R320-R322). -/

/-- Before or with: found earlier, and in one cycle on a lower core or there in a lower group slot (R322). -/
def FaultRec.first (a b : FaultRec) : Bool :=
  if a.found != b.found then decide (a.found < b.found) else if a.core != b.core then decide (a.core < b.core) else decide (a.gslot ≤ b.gslot)

def insertFault (r : FaultRec) : List FaultRec → List FaultRec
  | [] => [r]
  | x :: xs => if x.first r then x :: insertFault r xs else r :: x :: xs

/-- The fault records of a halt in the order in which the faults were found, ties by core and group slot, each with the count of its
group's replay records. -/
def State.faultRecords (s : State) (q : Nat) : State :=
  ((s.dev.part q).faults.foldl (fun l r => insertFault r l) []).foldl (fun s r =>
    let n := ((s.dev.part q).replays.filter (fun x => some x.gid == r.gid && x.ckind != 8)).length
    let seq := s.nextSeq q
    let s := s.putRecord q (r.record 0 (if r.gid.isSome then n else r.detail))
    s.onDev (fun d => d.modPart q (fun p => { p with faults := p.faults.map (fun k =>
      if k = r ∧ r.written.isNone then { k with written := some seq } else k) }))) s

/-- The state after a halt. -/
def haltNext (s : State) (q : Nat) : State := closePass ((s.stopUnits q).faultRecords q) q 0 (s.dev.unitRecords q)

/-- `HALT` (R320-R322): the units stop, the fault records, unit records and save follow, and a context record with LAST ends
the pass. A ring that has overflowed kills the context instead. -/
def execHalt (part : Nat) (s : State) : Out :=
  let p := s.dev.part part
  if !p.halt ∨ !(p.run == .running || p.run == .draining) then .fault .notEnabled
  else if p.overflow then .next (s.checkRing part)
  else .next (haltNext s part)

/-! Switch-outs: pre-emption, parked groups; the watchdog (R319, R326, R330). -/

/-- The records of a switch-out: a pre-emption record, the unit records, the save, a context record last (R319, R326). A fault found
while the units stop makes it a halt (R322). -/
def State.switchOut (s : State) (q cause : Nat) : State :=
  let s := s.putRecord q { StopRec.blank with kind := 3, unit := 8, core := 0xFFFF }
  let t := (s.stopUnits q).faultRecords q
  closePass t q (if (t.dev.part q).faults.isEmpty then cause else 0) (s.dev.unitRecords q)

/-- `PARKED_SWITCH_OUT` (R319). -/
def execParkedSwitchOut (part : Nat) (s : State) : Out :=
  let gs := s.dev.residents part
  let pk := (gs.filter (fun g => g.parked.isSome)).length
  let pct := ((s.dev.part part).desc.getD Desc.none).parkPct
  if !s.dev.working part ∨ gs.isEmpty ∨ 100 * pk < pct * gs.length then .fault .notEnabled
  else .next (s.switchOut part 3)

/-- Module time since a pre-emption was accepted, in units of 500 ps. -/
def Dev.sincePreempt (d : Dev) (q : Nat) : Option Nat := (d.part q).preemptAt.map (fun t => d.time - t)

/-- The state after the save of a pre-emption. -/
def saveNext (s : State) (q : Nat) : State := s.switchOut q 1

/-- `PREEMPT_SAVE` (R326): the save at DEADLINE_A. A fault found while the units stop turns it into a halt (R322). -/
def execPreemptSave (part : Nat) (s : State) : Out :=
  let desc := (s.dev.part part).desc.getD Desc.none
  match s.dev.sincePreempt part with
  | some t =>
    if (s.dev.part part).run != .draining || (s.dev.part part).halt || decide (t < desc.deadlineA * 2000) then .fault .notEnabled
    else .next (saveNext s part)
  | none => .fault .notEnabled

/-- `PREEMPT_TIMEOUT` (R326): the save has not been written by DEADLINE_B. -/
def execPreemptTimeout (part : Nat) (s : State) : Out :=
  let desc := (s.dev.part part).desc.getD Desc.none
  match s.dev.sincePreempt part with
  | some t =>
    if t < desc.deadlineB * 2000 then .fault .notEnabled
    else .next (s.killContext part FCode.preemptTimeout.code 0)
  | none => .fault .notEnabled

/-- A group that is neither parked nor waiting on a feed queue that the host has not closed (R330). -/
def Dev.mayStall (d : Dev) (g : Group) : Bool :=
  g.parked.isNone && g.parking.isNone && (match g.wait with
  | some (.fpop k) => ((d.part g.part).feeds[k]?.getD { records := [], closed := false }).closed
  | _ => true)

/-- A partition without progress counts as stalled, unless all that stands in it are groups that do not (R330). -/
def Dev.stallable (d : Dev) (q : Nat) : Bool :=
  (d.residents q).isEmpty || (d.residents q).any d.mayStall || d.engs.any (fun e => e.part == q && e.parkSeq.isNone) || !(d.part q).evals.isEmpty ||
  (d.clustersOf q).any (fun c => !(d.cluster c).released.isEmpty)

/-- `WATCHDOG` (R330): `progress` counts the reference cycles of module time since the partition last made progress. -/
def execWatchdog (part : Nat) (s : State) : Out :=
  let desc := (s.dev.part part).desc.getD Desc.none
  if !s.dev.working part ∨ desc.watchdog = 0 ∨ (s.dev.part part).progress < desc.watchdog * 2000 ∨ !s.dev.stallable part then
    .fault .notEnabled
  else .next (s.killContext part FCode.watchdog.code 0)

end Sys2Proof.Machine
end

