-- ==== Sys2Proof/Machine/Place.lean ====
section
/-!
DEFINITION. Placement and retirement events (R27, R31-R38, R41-R43, R226, R284, R285, R337, R338, R356-R362, R378, R397).
-/
namespace Sys2Proof.Machine
open Sys2Proof

/-! Retirement (R41-R43, R226). -/

/-- `GROUP_RETIRE` (R41): every lane has exited and every flag reads zero. -/
def execGroupRetire (gid : Nat) (s : State) : Out :=
  match s.dev.group? gid with
  | some g =>
    if g.lanes.any (·.live) ∨ g.flags.any (· ≠ 0) ∨ !s.dev.working g.part then .fault .notEnabled
    else .next ((s.onDev (fun d => d.closeStream gid)).retireGroup gid)
  | none => .fault .notEnabled

/-- Scratchpad bytes and accumulator slots that a successor keeps of its predecessor's (R42): the first of each, on the cores
that it takes over. -/
def Store.inherit (st : Store) (tid scratch acc : Nat) (half : Bool) : Store :=
  let keepS := fun (k : Nat) => decide (k % 2 ^ 20 < scratch) && (!half || k / 2 ^ 20 % 4 == 0)
  let keepA := fun (k : Nat) => decide (k / 4096 % 64 < acc) && (!half || k / 2 ^ 18 % 4 == 0)
  { st with scr := st.scr.filter (fun c => decide (c.1 / 2 ^ 22 ≠ tid) || keepS c.1),
            acc := st.acc.filter (fun c => decide (c.1 / 2 ^ 20 ≠ tid) || keepA c.1) }

/-- The successor of a team placed in its predecessor's place, with its TIX, scratchpad and slots (R42); the
predecessor's retirement is a release toward it (R303). -/
def State.succeed (s : State) (t : Team) (r : LaunchRec) (cores frames : List Nat) : State :=
  let mesh := (s.dev.meshDraw t).isSome
  let s := s.onSt (fun st => t.cores.foldl (fun st c => st.acquire c) st)
  let s := s.onDev (fun d => { d with teams := d.teams.filter (fun k => k.tid != t.tid) })
  let s := s.onSt (fun st => st.inherit t.tid r.scratchPer r.acc (t.shape.pair && !r.pair))
  let s := cores.zipIdx.foldl (fun s c => (s.carve c.1 (r.needOn c.2).scratch).onSt (fun st => st.acquire c.1)) s
  s.onDev (fun d =>
    let k := { newTeam t.tid .launch t.part t.launch t.tix r cores r.groups (d.cycOf t.part (cores.headD 0)) with
               hidden := (List.range r.groups).drop (d.waveG (cores.headD 0)), draw := t.draw, stamp := d.nextTid }
    let d := ({ d with teams := d.teams ++ [k], nextTid := d.nextTid + 1 } : Dev).placeGroups t.tid t.part t.tix r cores frames
    let d := d.useFrames t.part r.stack frames
    if mesh then { d with groups := d.groups.map (fun g => if g.tid = t.tid then { g with primsClosed := true } else g) } else d)

/-- A team is over: what it held is released, and it counts as retired for its launch; a fragment group and its successors are no
launch's. -/
def State.dropTeam (s : State) (t : Team) : State :=
  (s.onSt (fun st => st.freeTeam t.tid)).onDev (fun d =>
    let d := { d with teams := d.teams.filter (fun k => k.tid != t.tid) }
    d.modPart t.part (fun p =>
      let p := { p with progress := 0, out := p.out.filter (· != t.tid) }
      match t.kind, t.draw with
      | .launch, none => p.modLaunch t.launch (fun l => { l with retired := l.retired + 1 })
      | _, _ => p))

/-- What the end of a fragment group, or of its last successor, may end: its draw (R42). -/
def State.fragmentOver (s : State) (t : Team) : State :=
  match t.draw.bind (fun i => (s.dev.part t.part).draw? i) with
  | some x => (s.finishDraw t.part x.idx).postQueue t.part x.queue
  | none => s

/-- An access or a matrix operation of a team's lanes is still outstanding: what ends with a team is a release of every access
of its lanes (R42, R226, R300, R303; log entry 18). -/
def Dev.accessing (d : Dev) (tid : Nat) : Bool := d.ops.any (fun o => o.tid == tid) || d.cores.any (fun c => c.mq.any (fun x => x.tid == tid))

/-- `TEAM_RETIRE` (R41-R43, R359): its groups have retired, its pending queue is empty, its engine operations are complete and no
access of its lanes is outstanding. -/
def execTeamRetire (tid : Nat) (s : State) : Out :=
  match s.dev.team? tid with
  | none => .fault .notEnabled
  | some t =>
    if !(s.dev.teamGroups tid).isEmpty || !t.pending.isEmpty || s.dev.engs.any (fun e => e.tid == tid && e.packet.isNone) ||
        s.dev.accessing tid || !s.dev.working t.part then .fault .notEnabled
    else match t.succ with
      | none => .next (((s.dropTeam t).fragmentOver t).endDrain t.part)
      | some r =>
        let cores := if t.shape.pair && !r.pair then t.cores.take 1 else t.cores
        let d := { s.dev with teams := s.dev.teams.filter (fun k => k.tid != tid) }
        match d.framesFor t.part false r.stack (r.width * r.groups) with
        | some frames =>
          if (s.dev.part t.part).run != .running || !d.teamFits r cores then .fault .notEnabled
          else .next (s.succeed t r cores frames)
        | none => .fault .notEnabled

/-- A launch is over: it leaves the partition, and what started it hears of it. -/
def launchOver (s : State) (q : Nat) (l : Launch) : State :=
  let s := s.onDev (fun d => d.modPart q (fun p => { p with launches := p.launches.filter (fun k => k.lno != l.lno), progress := 0 }))
  let s := match l.origin with
    | .packet k serial => (s.onDev (fun d => d.packetDone q k serial 0 0)).postQueue q k
    | .draw i => match (s.dev.part q).draw? i with
      | some x => (s.finishDraw q i).postQueue q x.queue
      | none => s
    | .device => s
  s.endDrain q

/-- A release of the writes of a partition's cores. -/
def releaseAll (s : State) (q : Nat) : State := s.onSt (fun st => (s.dev.coresOf q).foldl (fun st c => st.release c) st)

/-- The counter of a launch decremented at its home. It is no thread's access, engine's or host's, and R335 names none of the device: in
a PRINTING cell it is dropped as an outside write is, and counted there (DESIGN CHOICE, log entry 46). -/
def counterDown (s : State) (q va k : Nat) (c sc df : Bool) : State :=
  let core := (unitAgent s.dev q).core
  let s := s.onSt (fun st => (unitAgent s.dev q).touch st va true)
  let s := ((s.drainAt (.pa k c sc df) 4).noteHome core (homePlace k sc df) 0).correctHome k
  let own := s.st.own core (homePlace k sc df).direct
  let new := leBytes 4 ((BitVec.ofNat 32 (leNat (s.st.homeGetN own k 4)) - 1#32).toNat)
  if s.isPrinting (homePlace k sc df) then s.onDev (fun d => { d with health := { d.health with cellDrop := d.health.cellDrop + 1 } })
  else s.onSt (fun st => if df then st.writeCells k new else st.homeSet own k new)

/-- `LAUNCH_COMPLETE` (R226): its counter is decremented at the home, as a release of its lanes' accesses; a counter that can no
longer be translated kills the context. -/
def execLaunchComplete (launch : Nat) (s : State) : Out :=
  match (List.range 4).findSome? (fun q => ((s.dev.part q).launch? launch).map (fun l => (q, l))) with
  | none => .fault .notEnabled
  | some (q, l) =>
    if l.inTable || decide (l.retired < l.shape.teams) || !s.dev.working q then .fault .notEnabled
    else
      let s := releaseAll s q
      if l.shape.counter = 0 then .next (launchOver s q l)
      else match (unitAgent s.dev q).resolve s.st l.shape.counter.toNat .write with
        | .ok (.pa k c sc df) => .next (launchOver (counterDown s q l.shape.counter.toNat k c sc df) q l)
        | _ => .next (s.killContext q FCode.translation.code l.shape.counter)

/-! Waves of placement (R397). -/

/-- The state after a wave of placement. -/
def waveNext (s : State) (t : Team) : State :=
  let core := t.cores.headD 0
  let now := s.dev.cycOf t.part core
  let go := t.hidden.take (s.dev.waveG core)
  s.onDev (fun d =>
    let d := d.modTeam t.tid (fun t => { t with hidden := t.hidden.drop (d.waveG core), placedAt := now })
    { d with groups := d.groups.map (fun g => if g.tid = t.tid ∧ go.contains g.gix then { g with selectable := true } else g) })

/-- `PLACEMENT_WAVE` (R397): WAVESP cycles after the last wave the next WAVEG groups become selectable. -/
def execPlacementWave (tid : Nat) (s : State) : Out :=
  match s.dev.team? tid with
  | none => .fault .notEnabled
  | some t =>
    let core := t.cores.headD 0
    let now := s.dev.cycOf t.part core
    if t.hidden.isEmpty ∨ t.out ∨ !s.dev.working t.part ∨ now < t.placedAt + s.dev.waveSp core then .fault .notEnabled
    else .next (waveNext s t)

/-! Task waves and evaluators (R37, R38, R285, R337, R338, R362). -/

/-- Free group slots of a core on which a wave's lanes and registers fit, the reserved ones included. -/
def Dev.printSlots (d : Dev) (core regs : Nat) : Nat :=
  if d.roomFor core { groups := 1, lanes := 32, regs := 32 * regs, scratch := 0, acc := 0 } then
    64 - ((d.usedSlots core).filter (· < 64)).length
  else 0

/-- The core with the most free slots, lowest among equals. -/
def Dev.mostSlots (d : Dev) (cores : List Nat) (regs : Nat) : Option Nat :=
  cores.foldl (fun best c =>
    if d.printSlots c regs = 0 then best
    else match best with
      | none => some c
      | some b => if d.printSlots b regs < d.printSlots c regs then some c else some b) none

/-- A wave of 32 lanes placed as a team of one group (R37); on a core with no allocation the carve-out becomes 0 (R283). -/
def State.placeWave (s : State) (q core slot : Nat) (kind : TeamKind) (entry : DWord) (regs stack : Nat) (frames : List Nat)
    (lane : Nat → Lane) : State :=
  let s := s.carve core 0
  let d := s.dev
  let tid := d.nextTid
  let t := newTeam tid kind q 0 0 (plainShape entry 0 32 regs stack) [core] 1 (d.cycOf q core)
  let g := newGroup d.nextGid tid q 0 32 regs 0 core slot (d.slotFor core) (d.cycOf q core) [] ((List.range 32).map (fun i =>
    { lane i with frame := d.framePa q (frames.getD i 0) }))
  { st := s.st.acquire core,
    dev := { (((d.useFrames q stack frames).modPart q (fun p => { p with progress := 0 })).addGroup g) with
      teams := d.teams ++ [t], nextTid := tid + 1, nextGid := d.nextGid + 1 } }

/-- Where a task wave fits on a core: its slot and frames; nowhere while an evaluator wave waits for a slot (R362). -/
def Dev.waveFit (d : Dev) (q core regs stack : Nat) (evals : Bool) : Option (Nat × List Nat) :=
  if d.printSlots core regs = 0 then none
  else (d.printSlot core).bind (fun slot =>
    if evals then none
    else (d.framesFor q (decide (62 ≤ slot ∧ stack ≤ 4096)) stack 32).map (fun fs => (slot, fs)))

/-- The state after a task wave has been placed (R37): its tasks' lanes, the rest exited. -/
def taskNext (s : State) (q cluster core slot : Nat) (frames : List Nat) (w : Wave) (rest : List Wave) : State :=
  let lane := fun (i : Nat) => match w.tasks[i]? with
    | some (n, arg) => newLane i w.regs w.entry (BitVec.ofNat 64 (2 ^ 63 + n % 2 ^ 62)) (stackTop w.stack) 0
        [n32Reg arg.toNat, n32Reg (arg.toNat / 2 ^ 32)] false
    | none => newLane i w.regs w.entry 0 (stackTop w.stack) 0 [] true
  (s.placeWave q core slot .task w.entry w.regs w.stack frames lane).onDev (fun d =>
    (d.modCluster cluster (fun k => { k with released := rest })).pumpSpawns cluster)

/-- The core that a task wave goes to, with its slot and frames (R38). -/
def taskSite (s : State) (q cluster : Nat) (w : Wave) : Option (Nat × Nat × List Nat) :=
  let fit := fun (c : Nat) => s.dev.waveFit q c w.regs w.stack (!(s.dev.part q).evals.isEmpty)
  let others := ((List.range 4).map (fun i => 4 * cluster + i)).filter (fun c => (fit c).isSome)
  let core := if (fit w.core).isSome then some w.core else s.dev.mostSlots others w.regs
  core.bind (fun c => (fit c).map (fun f => (c, f)))

/-- `TASK_WAVE_PLACEMENT` (R37, R38, R362): the cluster's oldest released wave, on its own core if it fits there. -/
def execTaskWavePlacement (cluster : Nat) (s : State) : Out :=
  let q := s.dev.partOfCore (4 * cluster)
  match (s.dev.cluster cluster).released with
  | [] => .fault .notEnabled
  | w :: rest =>
    match taskSite s q cluster w with
    | none => .fault .notEnabled
    | some (c, slot, frames) =>
      if !s.dev.working q then .fault .notEnabled else .next (taskNext s q cluster c slot frames w rest)

/-- Every unreserved slot of a core holds a group with a read waiting on a deferred cell (R338). -/
def Dev.allWaiting (d : Dev) (core : Nat) : Bool :=
  (List.range 62).all (fun i => (d.present core).any (fun g => g.gslot == i &&
    d.ops.any (fun o => o.gid == g.gid && o.accs.any (fun x => x.cell.isSome))))

/-- An evaluator wave placed on a core. -/
def State.placeEval (s : State) (q core : Nat) (w : EvalWave) (evals : List EvalWave) : Option State :=
  match s.dev.printSlot core, s.dev.framesFor q true 4096 32 with
  | some slot, some frames =>
    let lane := fun (i : Nat) => match w.lanes[i]? with
      | some e => { newLane i 64 w.entry (BitVec.ofNat 64 (0xC000000000000000 + e.trig % 2 ^ 61)) (stackTop 4096) 0
          ([n32Reg e.arg.toNat, n32Reg (e.arg.toNat / 2 ^ 32)] ++ n64Regs e.va) false with
          ticket := BitVec.ofNat 32 e.ticket, chain := e.chain, cell := e.cell, cellVa := e.va }
      | none => newLane i 64 w.entry 0 (stackTop 4096) 0 [] true
    some ((s.placeWave q core slot .evaluator w.entry 64 4096 frames lane).onDev (fun d => d.modPart q (fun p => { p with evals := evals })))
  | _, _ => none

/-- `EVALUATOR_PLACEMENT` (R338): the oldest wave that has not gone to the partition's queue is placed on its first loader's core
or in that cluster, or goes to the queue; otherwise the queue's first wave is placed. -/
def execEvaluatorPlacement (part : Nat) (s : State) : Out :=
  let p := s.dev.part part
  let put := fun (core : Option Nat) (w : EvalWave) (rest : List EvalWave) => core.bind (fun c => s.placeEval part c w rest)
  if !s.dev.working part then .fault .notEnabled
  else match p.evals.zipIdx.find? (fun w => !w.1.queued) with
    | some (w, i) =>
      let near := ((List.range 4).map (fun k => 4 * (w.core / 4) + k)).filter (fun c => !s.dev.allWaiting c)
      let core := if near.contains w.core && decide (s.dev.printSlots w.core 64 ≠ 0) then some w.core else s.dev.mostSlots near 64
      match put core w (p.evals.eraseIdx i) with
      | some s => .next s
      | none => .next (s.onDev (fun d => d.modPart part (fun p => { p with evals := modAt p.evals i (fun w => { w with queued := true }) })))
    | none => match p.evals with
      | w :: rest => (match put (s.dev.mostSlots (s.dev.coresOf part) 64) w rest with
        | some s => .next s
        | none => .fault .notEnabled)
      | [] => .fault .notEnabled

/-! The distributor (R356-R358, R360, R378). -/

/-- The cores, pairs or clusters that a shape may take, each as its list of cores. -/
def Dev.sites (d : Dev) (q : Nat) (r : LaunchRec) : List (List Nat) :=
  let cs := d.coresOf q
  if r.quad then (cs.filter (· % 4 == 0)).map (fun c => [c, c + 1, c + 2, c + 3])
  else if r.pair then (cs.filter (· % 2 == 0)).map (fun c => [c, c + 1])
  else cs.map (fun c => [c])

/-- The site with the fewest resident lanes among those on which the shape fits, lowest among equals (R358). -/
def Dev.chooseSite (d : Dev) (q : Nat) (r : LaunchRec) : Option (List Nat) :=
  let lanes := fun (cs : List Nat) => (cs.map (fun c => d.lanesOn c)).foldl (· + ·) 0
  (d.sites q r).foldl (fun best cs =>
    if !d.teamFits r cs then best
    else match best with
      | none => some cs
      | some b => if lanes cs < lanes b then some cs else some b) none

/-- A swapped-out team's condition (R360): every `waitv` word equals its value and every held `launch` finds room. -/
def State.outReady (s : State) (t : Team) : Bool :=
  (s.dev.teamGroups t.tid).all (fun g =>
    (match g.wait with
    | some (.waitv id _) => (match s.dev.op? id with
      | some o => o.accs.all (fun x => s.st.fetchBytes o.core x.place 4 == x.data)
      | none => true)
    | _ => true) &&
    g.lanes.all (fun l => match l.hold with | some (.launch _) => decide (t.pending.length < 4) | _ => true))

/-- What stands first in the order of R357. -/
inductive Head where
  | back (t : Team)
  | team (l : Launch)
  | frames (x : Draw)

/-- The first of the order of R357: swapped-out teams whose condition holds, then the launch table; a draw's frame allocations
come before its mesh teams (R378). In DRAIN no team of a launch starts. -/
def State.head (s : State) (q : Nat) : Option Head :=
  let p := s.dev.part q
  match p.out.findSome? (fun tid => (s.dev.team? tid).bind (fun t => if s.outReady t then some t else none)) with
  | some t => some (.back t)
  | none =>
    if p.run != .running then none
    else match p.launches.find? (·.inTable) with
      | none => none
      | some l => match l.origin with
        | .draw i => (match p.draw? i with
          | some x => if x.allocs.length < x.needs.length then some (.frames x) else some (.team l)
          | none => some (.team l))
        | _ => some (.team l)

/-- The core of a draw's next frame allocation: its cluster's lowest-numbered core with room (R378). -/
def Dev.frameCore (d : Dev) (x : Draw) : Option Nat :=
  (x.needs[x.allocs.length]?).bind (fun c => ((List.range 4).map (fun i => 4 * c + i)).find? (fun k =>
    d.roomFor k { groups := 0, lanes := 0, regs := 0, scratch := 65536, acc := 0 }))

/-- Whether the first of the order can be placed. -/
def Dev.headFits (d : Dev) (q : Nat) : Head → Bool
  | .back t => (d.chooseSite q t.shape).isSome
  | .team l => (d.chooseSite q l.shape).isSome && (d.framesFor q false l.shape.stack (l.shape.width * l.shape.groups)).isSome
  | .frames x => (d.frameCore x).isSome

/-- `DRAW_FRAME_ALLOCATION` (R378): 64 KiB of scratchpad in one cluster that owns a tile of the draw. -/
def execDrawFrameAllocation (part : Nat) (s : State) : Out :=
  match s.head part with
  | some (.frames x) => (match s.dev.frameCore x with
    | some core =>
      if !s.dev.working part then .fault .notEnabled
      else .next ((s.carve core 65536).onDev (fun d => d.modPart part (fun p => p.modDraw x.idx (fun y => { y with allocs := y.allocs ++ [core] }))))
    | none => .fault .notEnabled)
  | _ => .fault .notEnabled

/-- A swapped-out team resumed on new cores (R360): its groups are placed again, generations advance, and its waits are issued
again (R247). -/
def State.bringBack (s : State) (t : Team) (cores : List Nat) : State :=
  let gs := s.dev.teamGroups t.tid
  let s := cores.zipIdx.foldl (fun s c => (s.carve c.1 (t.shape.needOn c.2).scratch).onSt (fun st => st.acquire c.1)) s
  s.onDev (fun d =>
    let wave := d.waveG (cores.headD 0)
    let ids := gs.map (·.gid)
    let d := { d with groups := d.groups.filter (fun g => g.tid != t.tid), ops := d.ops.filter (fun o => !(ids.contains o.gid)) }
    let late := (gs.drop wave).map (·.gix)
    let now := d.cycOf t.part (cores.headD 0)
    let d := (d.modTeam t.tid (fun k => { k with out := false, cores := cores, placedAt := now, hidden := late, stamp := d.nextTid })).modPart t.part (fun p =>
        { p with out := p.out.filter (· != t.tid), progress := 0, waiters := p.waiters.filter (fun w => d.ops.any (fun o => o.opid == w.1)) })
    let d := gs.zipIdx.foldl (fun (acc : Dev) x =>
      let core := coreOfGix t.shape cores x.1.gix
      let g := { x.1.saved with core := core, gslot := (acc.plainFree core).headD 0, islot := acc.slotFor core,
                                gen := (x.1.gen + 1) % 4096, placed := acc.cycOf t.part core, since := none, selectable := decide (x.2 < wave) }
      acc.addGroup g) d
    { d with nextTid := d.nextTid + 1 })

/-- The state after a launch's next team has been placed. -/
def teamNext (s : State) (q : Nat) (l : Launch) (cores frames : List Nat) : State :=
  let now := (s.dev.part q).cyc
  let placed := fun (k : Launch) =>
    { k with nextTix := k.nextTix + 1, lastPlaced := some now, inTable := decide (k.nextTix + 1 < k.shape.teams) }
  (s.placeTeam q l.lno l.nextTix l.shape cores frames).onDev (fun d => d.modPart q (fun p =>
    { p.modLaunch l.lno placed with progress := 0 }))

/-- `TEAM_PLACEMENT` (R357, R358): the first of the order, if it fits; a launch's teams STAGGER reference cycles apart. -/
def execTeamPlacement (part : Nat) (s : State) : Out :=
  let p := s.dev.part part
  if !s.dev.working part then .fault .notEnabled
  else match s.head part with
    | some (.back t) => (match s.dev.chooseSite part t.shape with
      | some cores => .next (s.bringBack t cores)
      | none => .fault .notEnabled)
    | some (.team l) =>
      let early := match l.lastPlaced with | some c => decide (p.cyc < c + l.shape.stagger) | none => false
      (match s.dev.chooseSite part l.shape, s.dev.framesFor part false l.shape.stack (l.shape.width * l.shape.groups) with
      | some cores, some frames =>
        if early then .fault .notEnabled else .next (teamNext s part l cores frames)
      | _, _ => .fault .notEnabled)
    | _ => .fault .notEnabled

/-- The conditions of R360 that SWAPWAIT counts: every live gang waits in `waitv` or is held by a `launch` on a full queue; no
future is BUSY and no long-latency result is outstanding. -/
def Dev.candidate (d : Dev) (t : Team) : Bool :=
  let gs := d.teamGroups t.tid
  let waits := fun (g : Group) (l : Lane) =>
    (match g.wait with | some (.waitv _ _) => g.waiting.contains l.lid | _ => false) ||
    (match l.hold with
    | some (.launch _) => true
    | some (.follow k) => g.lanes.any (fun m => m.lid == k && (match m.hold with | some (.launch _) => true | _ => false))
    | _ => false)
  !t.out && gs.any (fun g => g.lanes.any (·.live)) && gs.all (fun g => g.lanes.all (fun l => !l.live || waits g l)) &&
  t.futs.all (fun f => f.st != .busy) && !d.ops.any (fun o => o.tid == t.tid && o.kind != .waitv) &&
  d.cores.all (fun c => c.mq.all (fun x => x.tid != t.tid))

/-- SWAPWAIT counted for every team: since when each has been a candidate without a break. -/
def Dev.countCandidates (d : Dev) : Dev :=
  let since := fun (t : Team) => if d.candidate t then some (t.candidateSince.getD (d.cycOf t.part (t.cores.headD 0))) else none
  { d with teams := d.teams.map (fun t => { t with candidateSince := since t }) }

def Dev.overSwapWait (d : Dev) (t : Team) : Bool :=
  d.candidate t && (match t.candidateSince with
  | some c => decide (c + ((d.part t.part).desc.getD Desc.none).swapWait ≤ d.cycOf t.part (t.cores.headD 0))
  | none => false)

/-- Bytes that a swapped-out team takes in the save area, as R327 counts them: those it gives exactly, and the most that its
rows "up to" allow. -/
def Dev.teamBounds (d : Dev) (t : Team) : Nat × Nat :=
  let gs := d.teamGroups t.tid
  let sum := fun (l : List Nat) => l.foldl (· + ·) 0
  let low := sum (gs.map (fun g => g.width * (4 * g.budget + 64) + ceilDiv (5 * g.budget * g.width) 8)) +
    (if t.shape.quad then 4 else 1) * t.shape.scratch + 4096 * t.shape.acc * t.cores.length + 2048
  (low, low + 8192 * gs.length)

/-- Whether the save area has room for one more team beside those swapped out (R360); between the two bounds the spec leaves it
open (log entry 5). -/
def Dev.saveRoom (d : Dev) (t : Team) : Bool :=
  let len := ((d.part t.part).desc.getD Desc.none).saveLen
  let bs := (t :: d.teams.filter (fun k => k.part == t.part && k.out)).map d.teamBounds
  let low := (bs.map (·.1)).foldl (· + ·) 0
  let high := (bs.map (·.2)).foldl (· + ·) 0
  if high ≤ len then true else if len < low then false else Config.freeCount d.freeCtr % 2 == 1

/-- The state after a team has been swapped out: its reads of `waitv` leave the queues of deferred cells (R247, R345). -/
def swapNext (s : State) (t : Team) : State :=
  let s := s.onSt (fun st => t.cores.foldl (fun st c => st.acquire c) st)
  let s := (s.dev.ops.filter (fun o => o.tid == t.tid)).foldl (fun s o =>
    (s.leaveQueues t.part o.opid).onDev (fun d => d.modOp o.opid (fun o => { o with accs := o.accs.map (fun a => { a with cell := none }) }))) s
  s.onDev (fun d =>
    let gids := (d.teamGroups t.tid).map (·.gid)
    let d := t.cores.foldl (fun d c => d.modCore c (fun k => { k with starved := k.starved.filter (fun x => !gids.contains x.2) })) d
    let d := { d with freeCtr := d.freeCtr + 1 }
    (d.modTeam t.tid (fun k => { k with out := true, candidateSince := none })).modPart t.part (fun p =>
      { p with out := p.out ++ [t.tid], progress := 0 }))

/-- The candidates of a partition whose removal alone lets the first of the order fit (R360). -/
def swappable (s : State) (q : Nat) (h : Head) : List Team :=
  s.dev.teams.filter (fun k => k.part == q && s.dev.overSwapWait k &&
    (s.dev.modTeam k.tid (fun k => { k with out := true })).headFits q h)

/-- `SWAP_OUT` (R360): the first of the order does not fit; of the candidates whose removal alone lets it fit, the one placed
most recently is saved and its resources are freed, if the save area has room for it. -/
def execSwapOut (tid : Nat) (s : State) : Out :=
  match s.dev.team? tid with
  | none => .fault .notEnabled
  | some t =>
    let q := t.part
    match s.head q with
    | none => .fault .notEnabled
    | some h =>
      let able := swappable s q h
      if !s.dev.working q ∨ s.dev.headFits q h ∨ !able.any (fun k => k.tid == tid) ∨
          able.any (fun k => decide (t.stamp < k.stamp)) ∨ !s.dev.saveRoom t then .fault .notEnabled
      else .next (swapNext s t)

end Sys2Proof.Machine
end

