-- ==== Sys2Proof/Machine/Clock.lean ====
section
/-!
DEFINITION. Time, clocks, the internal frame, classes, sensors, limits and health (R282, R287, R385-R403, R416, R417). Module time
counts cycles of 500 ps of the reference (R3, R393). Sensor readings are in units of 1/16 °C and 1/16 A, module power in 1/16 W;
voted readings are in half those units.
-/
namespace Sys2Proof.Machine
open Sys2Proof

/-! Time. -/

def usec : Nat := 2000
def msec : Nat := 2000000

/-- The slot of the internal frame (R393). -/
def Dev.frameSlot (d : Dev) : Nat := d.time % usec / 125
def Dev.inSlots (d : Dev) (lo hi : Nat) : Bool := decide (lo ≤ d.frameSlot ∧ d.frameSlot ≤ hi)

/-- A partition's clocks run: its context is switched in and the reference is not stopped (R327, R401). -/
def Dev.clocked (d : Dev) (q : Nat) : Bool :=
  let p := d.part q
  (p.run == .running || p.run == .draining) && !p.paused

def SensorSet.failures (p : SensorSet) : Nat := (p.failed.filter id).length

/-- A cluster pinned to class 0 (R400). -/
def Cluster.pinned (c : Cluster) : Bool := decide (2 ≤ c.tempSet.failures) || decide (2 ≤ c.currSet.failures)

/-- The least clip of a cluster (R398). -/
def Dev.clip (d : Dev) (k : Nat) : Nat :=
  let c := d.cluster k
  if c.pinned then 0 else min (3 - c.thermal.state) (min (3 - c.current.state) (3 - d.power.state))

/-- In a lockup partition with a clip of class 0 the reference stops for every fifth frame, from its start to its end (R401). -/
def Dev.stopped (d : Dev) (q : Nat) : Bool :=
  let p := d.part q
  (p.run == .running || p.run == .draining) && d.lockup q && decide (d.time / usec % 5 = 0) &&
  (d.clustersOf q).any (fun c => d.clip c == 0)

/-- A frame begins: each partition's reference stops or runs. -/
def Dev.frameStart (d : Dev) : Dev := (List.range 4).foldl (fun d q => d.modPart q (fun p => { p with paused := d.stopped q })) d

/-- Time passes (R386, R387, R393): a lockup partition counts the reference, each elastic cluster its own cycles. It stops at the end of
a frame. -/
def Dev.elapse (d : Dev) (cycles : List Nat) (ref : Nat) : Dev :=
  let left := usec - d.time % usec
  let cut := fun (n : Nat) => if ref ≤ left then n else n * left / ref
  let ref := min ref left
  let clusters := d.clusters.zipIdx.map (fun (c : Cluster × Nat) =>
    let q := d.partOfCore (4 * c.2)
    if d.clocked q then { c.1 with cyc := c.1.cyc + (if d.lockup q then ref else cut (cycles.getD c.2 0)) } else c.1)
  let parts := d.parts.zipIdx.map (fun (p : Part × Nat) =>
    if d.clocked p.2 then { p.1 with cyc := p.1.cyc + ref, progress := p.1.progress + ref } else p.1)
  let d := ({ d with clusters := clusters, parts := parts, time := d.time + ref } : Dev).countCandidates
  if d.time % usec = 0 then d.frameStart else d

/-! What comes from outside by no event of the table. -/

/-- CSLOPE written by firmware, which refuses a value with a field equal to 0 (R396). -/
def Dev.writeCslope (d : Dev) (cluster : Nat) (v : Word) : Dev :=
  let n := v.toNat
  if fld n 24 8 = 0 ∨ fld n 16 8 = 0 ∨ fld n 0 16 = 0 then d else d.modCluster cluster (fun c => { c with cslope := v })

/-- Firmware's tables: eight inbound ranges (R411). -/
def Dev.writeTables (d : Dev) (inbound : List (Nat × Nat × Nat)) : Dev := { d with inbound := inbound.take 8 }

/-- The windows and the routing entries among them (R409). -/
def Store.writeRoutes (st : Store) (windows routes : List (Nat × Nat)) : Store :=
  { st with windows := (List.range 32).map (fun i => let w := windows.getD i (0, 0); (w.1 % 4096, w.2 % 2 ^ 52)), routes := (routes.filter (fun r => decide (r.1 < 4096))).map (fun r => (r.1, r.2 % 4096)) }

/-- A module before power-on holds what it was made with (R405, R412). -/
def Dev.made (d : Dev) (flash serial : List Byte) (moduleNo minVersion : Nat) (root : List Byte) (near : List Nat) : Dev :=
  if d.fw.powered then d
  else { d with fw := { d.fw with flash := flash, serialNo := (serial ++ List.replicate 64 0).take 64, moduleNo := moduleNo % 4096,
                                  minVersion := minVersion % 2 ^ 64, rootDigest := (root ++ List.replicate 64 0).take 64,
                                  near := (List.range 36).map (fun i => near.getD i 0 % 256) } }

/-- A lane of a group changed. -/
def Group.pokeLane (g : Group) (lid : Nat) (f : Lane → Lane) : Group :=
  { g with lanes := g.lanes.map (fun l => if l.lid = lid then f l else l) }

/-- A register changed by hand (R331): a MODE, fm or om that its instruction refuses and a PC that is no code address stay as they were; a
lane whose PC is set stands at a header. -/
def Group.poke (g : Group) : Poke → Group
  | .v lid i r => g.pokeLane lid (fun l => { l with v := l.v.set i r })
  | .s i r => { g with sregs := g.sregs.set i r }
  | .p lid i b => g.pokeLane lid (fun l => l.setP i b)
  | .x lid k r => g.pokeLane lid (fun l => { l with x := l.x.set k r })
  | .pc lid a => if a.toNat % 4 = 0 then g.pokeLane lid (fun l => { l with pc := a, clause := none }) else g
  | .sp lid a => g.pokeLane lid (fun l => { l with sp := a })
  | .mode w => if modeLegal w.toNat then { g with mode := w } else g
  | .fm i w => if fmLegal w.toNat then { g with fm := g.fm.set i w } else g
  | .om i v => if omLegal v then { g with om := g.om.set i v } else g
  | .rctr lid w => g.pokeLane lid (fun l => { l with rctr := w })
  | .depth lid n => g.pokeLane lid (fun l => { l with depth := n % 65536 })
  | .glid lid a => g.pokeLane lid (fun l => { l with glid := a })
  | .spin lid n => g.pokeLane lid (fun l => { l with spin := n })
  | .yielded lid b => g.pokeLane lid (fun l => { l with yielded := b })
  | .flag i n => { g with flags := g.flags.set i (n % 64) }
  | .exited lid b => g.pokeLane lid (fun l => { l with exited := b })
  | .lid lid new => if new < g.width ∧ g.lanes.all (fun l => l.lid != new) then g.pokeLane lid (fun l => { l with lid := new }) else g
  | .latch x => { g with latch := x }
  | .parked x => { g with parked := x }
  | _ => g

/-- State of a team changed by hand. -/
def Team.poke (t : Team) : Poke → Team
  | .barrier i b => { t with barriers := t.barriers.set i b }
  | .future i f => { t with futs := t.futs.set i f }
  | .pending rs => { t with pending := rs.take 4 }
  | _ => t

/-- Bytes of a team's scratchpad, as a group reaches it, or of its accumulator slots changed by hand. -/
def Store.poke (st : Store) (t : Team) (member : Nat) : Poke → Store
  | .scratch off bs => if off + bs.length ≤ t.shape.scratchPer then { st with scr := st.scr.setN (scrKey t.tid member off) bs } else st
  | .slots off bs => if off + bs.length ≤ 4096 * t.shape.acc then { st with acc := st.acc.setN ((t.tid * 4 + member) * 64 * 4096 + off) bs } else st
  | _ => st

/-- State of a context's cores, task units and partition changed by hand: entries keep to the context, and counts to their widths. -/
def Dev.poke (d : Dev) (q gid : Nat) : Poke → Dev
  | .replays rs => d.modPart q (fun p => { p with replays := p.replays.filter (fun r => r.gid != gid) ++ rs.filter (fun r => r.gid == gid) })
  | .carve core n => if d.partOfCore core = q then d.modCore core (fun c => { c with cw := n }) else d
  | .locks core ls => if d.partOfCore core = q then d.modCore core (fun c => { c with locks := ls.take 32 }) else d
  | .queue core xs => if d.partOfCore core = q then d.modCore core (fun c => { c with mq := xs.filter (fun x => x.part == q) }) else d
  | .engine e => { d with engs := d.engs.map (fun x => if x.eid = e.eid ∧ x.part = q ∧ e.part = q then e else x) }
  | .tasks cluster ws rel =>
    if d.partOfCore (4 * cluster) = q then d.modCluster cluster (fun c => { c with waves := ws.take 64, released := rel }) else d
  | .feed i f => d.modPart q (fun p => { p with feeds := p.feeds.set i f })
  | .cyc cluster n => if d.lockup q then d.modPart q (fun p => { p with cyc := n % 2 ^ 64 })
    else if d.partOfCore (4 * cluster) = q then d.modCluster cluster (fun c => { c with cyc := n % 2 ^ 64 }) else d
  | .dropped n => d.modPart q (fun p => { p with dropped := n % 2 ^ 32 })
  | _ => d

/-- Firmware writes registers of a context that does not run (R328, R331; log entry 2). -/
def State.debug (s : State) (q gid : Nat) (x : Poke) : State :=
  match s.dev.group? gid with
  | some g => match s.dev.team? g.tid with
    | some t =>
      if (s.dev.part q).run ≠ .out ∨ g.part ≠ q then s
      else (s.onDev (fun d => ((d.modGroup gid (fun g => g.poke x)).modTeam t.tid (fun t => t.poke x)).poke q gid x)).onSt (fun st => st.poke t (memberOf t g) x)
    | none => s
  | none => s

/-! Memory and its code (R282, R287, R393). -/

/-- `MEMORY_REFRESH` (R393): slots 0 to 3 refresh the tiers. No value changes. -/
def execMemoryRefresh (s : State) : Out := if s.dev.inSlots 0 3 then .next s else .fault .notEnabled

/-- `SCRUB_PASS` (R282, R393): correctable errors are corrected and counted; uncorrectable ones stay marked. -/
def execScrubPass (s : State) : Out :=
  if !s.dev.inSlots 4 5 then .fault .notEnabled
  else
    .next (s.onSt (fun st => st.correct (st.errs.map (·.1))))

/-- An error strikes a place (R282). -/
def Store.upset (st : Store) (x : ErrSite) (hard : Bool) : Store :=
  { st with errs := (x, hard || st.errAt x == some true) :: st.errs.filter (fun e => e.1 != x) }

/-- The slice to which an L2 line is to move (R287): one other slice, nearest to the clusters of 12 of its last 16 accesses. -/
def Dev.moveTo (d : Dev) (l : L2Line) : Option Nat :=
  let h := l.hist.map (fun c => d.fw.near.getD c 0 % d.slicesOf)
  (List.range d.slicesOf).find? (fun k => k != l.slice && decide (12 ≤ (h.filter (· == k)).length) && h.length == 16)

/-- `L2_LINE_MIGRATION` (R287): the line moves, and its home slice keeps a forwarding entry while the line stays in the L2. -/
def execL2LineMigration (part line slice : Nat) (s : State) : Out :=
  match s.st.l2.find? (fun l => l.part == part && l.line == line) with
  | none => .fault .notEnabled
  | some l =>
    if !s.dev.inSlots 6 7 ∨ s.dev.lockup part ∨ !s.dev.clocked part ∨ s.dev.moveTo l ≠ some slice then .fault .notEnabled
    else .next (s.onSt (fun st => { st with l2 := st.l2.map (fun k =>
      if k.part = part ∧ k.line = line then { k with slice := slice } else k) }))

/-! Classes (R394, R395, R398, R400, R401). -/

/-- The class a cluster is to have (R395); a context that is switched out has no team there. -/
def Dev.wantedClass (d : Dev) (k : Nat) : Nat :=
  let q := d.partOfCore (4 * k)
  let asks := if d.inside q then ((List.range 4).flatMap (fun i => d.teamsOn (4 * k + i))).filterMap (·.pclass) else []
  let cap := match (d.part q).desc with | some x => fld x.timing 1 2 | none => 3
  min (asks.foldl max 0) (min cap (d.clip k))

/-- `CLASS_CHANGE` (R395): decided in a telemetry slot, at least 10 µs after the last one began; complete after 10 µs. In a lockup
partition classes are not adopted (R387). -/
def execClassChange (cluster : Nat) (s : State) : Out :=
  let c := s.dev.cluster cluster
  let now := s.dev.time
  if 36 ≤ cluster ∨ s.dev.inLockup (s.dev.partOfCore (4 * cluster)) then .fault .notEnabled
  else match c.change with
    | some (k, t) =>
      if now < t + 10 * usec then .fault .notEnabled
      else .next (s.onDev (fun d => d.modCluster cluster (fun c => { c with cls := k, change := none })))
    | none =>
      let k := s.dev.wantedClass cluster
      let early : Bool := match c.lastChange with | some t => decide (now < t + 10 * usec) | none => false
      if k = c.cls ∨ early ∨ !s.dev.inSlots 8 9 then .fault .notEnabled
      else .next (s.onDev (fun d => d.modCluster cluster (fun c => { c with change := some (k, now), lastChange := some now })))

/-- `DROOP_STRETCH` (R385): an elastic cluster's next edge comes later. Only elapsed time changes. -/
def execDroopStretch (cluster : Nat) (s : State) : Out :=
  if 36 ≤ cluster ∨ s.dev.inLockup (s.dev.partOfCore (4 * cluster)) then .fault .notEnabled else .next s

/-- `REFERENCE_PAUSE` (R401): at the start of a frame the reference of a partition stops, or runs again. The passing of time makes it
happen there; by itself it is left only for the frame with which module time begins. -/
def execReferencePause (part : Nat) (s : State) : Out :=
  if s.dev.time % usec ≠ 0 ∨ s.dev.stopped part = (s.dev.part part).paused then .fault .notEnabled
  else .next (s.onDev (fun d => d.modPart part (fun p => { p with paused := s.dev.stopped part })))

/-! Sensors and limits (R398-R400). -/

def absDiff (a b : Nat) : Nat := (a - b) + (b - a)

/-- The readings of the sensors that work. -/
def SensorSet.working (p : SensorSet) : List Nat :=
  ((List.zip p.readings p.failed).filter (fun x => !x.2)).map (·.1)

/-- The voted reading (R400), in half units: the median of three, or the average of two. -/
def SensorSet.voted (p : SensorSet) : Option Nat := match p.working with
  | [a, b, c] => some (2 * max (min a b) (min (max a b) c))
  | [a, b] => some (a + b)
  | _ => none

/-- Two readings in half units differ by more than R400 allows. -/
def tooFar (kind : SensorKind) (a b v : Nat) : Bool := match kind with
  | .thermal => decide (8 * 32 < absDiff a b)
  | .current => decide (15 * v < 100 * absDiff a b)

/-- Whether a sensor differs: from the median, or, with two left, from the other. -/
def SensorSet.differs (p : SensorSet) (kind : SensorKind) (i : Nat) : Bool :=
  if p.failed.getD i true then false
  else match p.working, p.voted with
    | [_, _, _], some v => tooFar kind (2 * p.readings.getD i 0) v v
    | [a, b], some v => tooFar kind (2 * a) (2 * b) v
    | _, _ => false

/-- A set sampled: since when each of its sensors has differed without a break. -/
def SensorSet.sample (p : SensorSet) (kind : SensorKind) (xs : List Nat) (now : Nat) : SensorSet :=
  let p := { p with readings := xs }
  { p with since := (List.range 3).map (fun i => if p.differs kind i then some ((p.since.getD i none).getD now) else none) }

/-- Whether a limit's condition for a state holds at a reading (R398, R399); thresholds are in hundredths of the reading's units. -/
def Limit.holds (l : Limit) (thr hyst : Nat) (strict : Bool) (reading k : Nat) : Bool :=
  if l.state < k then (if strict then decide (thr < 100 * reading) else decide (thr ≤ 100 * reading))
  else decide (100 * reading + hyst < thr)

/-- A limit sampled against the thresholds of its states 1 to 3. -/
def Limit.sample (l : Limit) (thrs : List Nat) (hyst : Nat) (strict : Bool) (reading now : Nat) : Limit :=
  { l with reading := reading, since := thrs.zipIdx.map (fun t =>
      if l.holds t.1 hyst strict reading (t.2 + 1) then some ((l.since.getD t.2 none).getD now) else none) }

/-- The condition of a state has held for 1 ms, counted after 1 ms of dwelling (R399). -/
def Limit.held (l : Limit) (now k : Nat) : Bool := match l.since.getD (k - 1) none with
  | some t => decide (max t (l.changed + msec) + msec ≤ now)
  | none => false

/-- The state to adopt: the highest that it has held its way up to, or the lowest that it has fallen to. -/
def Limit.adopts (l : Limit) (now : Nat) : Option Nat :=
  match [3, 2, 1].find? (fun k => decide (l.state < k) && l.held now k) with
  | some k => some k
  | none =>
    let down := (List.range l.state).find? (fun j => (List.range l.state).all (fun i => decide (i < j) || l.held now (i + 1)))
    down

def Limit.move (l : Limit) (k now : Nat) : Limit := { l with state := k, changed := now, since := l.since.map (fun _ => none) }

/-- The thresholds in hundredths of half units: °C, the cluster's ILIM, W. The module's power has one state above 0. -/
def thermalThrs : List Nat := [90 * 3200, 100 * 3200, 108 * 3200]
def currentThrs (ilim : Nat) : List Nat := [100 * 32 * ilim, 110 * 32 * ilim, 120 * 32 * ilim]
def powerThrs : List Nat := [1800 * 3200]

/-- A sensor of a set has differed for 10 ms. -/
def SensorSet.late (p : SensorSet) (i now : Nat) : Bool := match p.since.getD i none with
  | some t => decide (t + 10 * msec ≤ now)
  | none => false

/-- The state after a sensor of a set has failed, with every other that has differed as long: with two left, both have. -/
def sensorNext (s : State) (cluster : Nat) (kind : SensorKind) (idx : Nat) (p : SensorSet) : State :=
  let gone := fun (i : Nat) => p.failed.getD i true || i == idx || p.working.length == 2 || p.late i s.dev.time
  let p := { p with failed := (List.range 3).map gone, since := [none, none, none] }
  s.onDev (fun d =>
    let d := d.modCluster cluster (fun c => match kind with | .thermal => { c with tempSet := p } | .current => { c with currSet := p })
    { d with health := { d.health with failed := d.health.failed ||| 1 } })

/-- `SENSOR_FAIL` (R400): a sensor that has differed for 10 ms, or both of the last two. -/
def execSensorFail (cluster : Nat) (kind : SensorKind) (idx : Nat) (s : State) : Out :=
  let c := s.dev.cluster cluster
  let p := match kind with | .thermal => c.tempSet | .current => c.currSet
  if 36 ≤ cluster ∨ !p.late idx s.dev.time ∨ !s.dev.inSlots 8 9 then .fault .notEnabled
  else .next (sensorNext s cluster kind idx p)

/-- `LIMIT_STATE_CHANGE` (R399): adopted in a telemetry slot. -/
def execLimitStateChange (cluster : Nat) (src : LimitSource) (level : Nat) (s : State) : Out :=
  let c := s.dev.cluster cluster
  let l := match src with | .thermal => c.thermal | .current => c.current | .power => s.dev.power
  let now := s.dev.time
  if 36 ≤ cluster ∨ !s.dev.inSlots 8 9 ∨ l.adopts now ≠ some level then .fault .notEnabled
  else .next (s.onDev (fun d => match src with
    | .thermal => d.modCluster cluster (fun c => { c with thermal := c.thermal.move level now })
    | .current => d.modCluster cluster (fun c => { c with current := c.current.move level now })
    | .power => { d with power := d.power.move level now }))

/-! Health (R403, R416, R417). -/

/-- The 36 bytes of failed sensors. -/
def Dev.sensorBytes (d : Dev) : List Byte :=
  let bits := fun (p : SensorSet) => (p.failed.zipIdx.map (fun f => if f.1 then 2 ^ f.2 else 0)).foldl (· + ·) 0
  d.clusters.map (fun c => BitVec.ofNat 8 (bits c.tempSet + 8 * bits c.currSet))

/-- The first 68 bytes of the health block. -/
def Dev.healthBytes (d : Dev) (st : Store) : List Byte :=
  let h := d.health
  let flag := fun (b : Bool) => if b then 1 else 0
  leBytes 1 (flag (h.failed ≠ 0)) ++ leBytes 1 (flag (h.failed &&& 0xF ≠ 0)) ++ leBytes 1 0 ++ leBytes 1 (flag h.thermStop) ++
  leBytes 4 h.failed ++ d.sensorBytes ++ leBytes 4 h.temp.toNat ++ leBytes 4 h.power.toNat ++
  leBytes 4 st.corrected ++ leBytes 4 st.drops ++ leBytes 4 h.inRefuse ++ leBytes 4 h.cellDrop

/-- The block refreshed; a change of bytes 0 to 7 raises vector 0. -/
def Dev.refreshHealth (d : Dev) (st : Store) : Dev :=
  let bs := d.healthBytes st
  let d := if bs.take 8 = d.health.shown.take 8 then d else d.interrupt 0
  { d with health := { d.health with shown := bs } }

def f32Of (n : Nat) (e : Int) : Word := BitVec.ofNat 32 (Fmt.f32.round RCtx.plain false (.fin false n e))

/-- The state after a cluster's readings have been sampled. -/
def telemetryNext (s : State) (cluster : Nat) (thermal current : List Nat) (power : Nat) : State :=
  let now := s.dev.time
  s.onDev (fun d =>
    let d := d.modCluster cluster (fun c =>
      let ts := c.tempSet.sample .thermal thermal now
      let cs := c.currSet.sample .current current now
      let ilim := fld c.cslope.toNat 24 8
      { c with tempSet := ts, currSet := cs,
               thermal := c.thermal.sample thermalThrs (2 * 3200) false (ts.voted.getD c.thermal.reading) now,
               current := c.current.sample (currentThrs ilim) (2 * 32 * ilim) false (cs.voted.getD c.current.reading) now })
    let hottest := (d.clusters.map (·.thermal.reading)).foldl max 0
    let health := { d.health with temp := f32Of hottest (-5), power := f32Of power (-4), hot := d.health.hot && decide (100 * 32 ≤ hottest) }
    ({ d with power := d.power.sample powerThrs (36 * 3200) true (2 * power) now, health := health }).refreshHealth s.st)

/-- `TELEMETRY_SLOT` (R393, R399, R400, R416): a cluster's sensors are sampled and voted, with the module's power averaged over 1 ms,
and the health block is refreshed. -/
def execTelemetrySlot (cluster : Nat) (thermal current : List Nat) (power : Nat) (s : State) : Out :=
  if 36 ≤ cluster ∨ thermal.length ≠ 3 ∨ current.length ≠ 3 ∨ !s.dev.inSlots 8 9 then .fault .notEnabled
  else .next (telemetryNext s cluster thermal current power)

/-- `THERMAL_STOP` (R402, R407): every context is killed and the host is told. -/
def execThermalStop (s : State) : Out :=
  if s.dev.health.hot || !s.dev.clusters.any (fun c => decide (118 * 32 ≤ c.thermal.reading)) then .fault .notEnabled
  else
    let s := (List.range 4).foldl (fun s q => s.killContext q 0 0) s
    .next (s.onDev (fun d => ({ d with health := { d.health with thermStop := true, hot := true } }).interrupt 2))

/-- `UNIT_FAILURE` (R403, R405, R416): a core takes no more work, or a memory device is lost; how much of the tiers still works is
then open (log entry 5). -/
def execUnitFailure (kind : UnitKind) (idx : Nat) (s : State) : Out :=
  match kind with
  | .core =>
    if 144 ≤ idx then .fault .notEnabled
    else .next (s.onDev (fun d => { d.modCore idx (fun c => { c with working := false }) with health := { d.health with failed := d.health.failed ||| 2 } }))
  | .memoryDevice => .next (s.onDev (fun d =>
      { d with health := { d.health with failed := d.health.failed ||| 4 }, freeCtr := d.freeCtr + 2,
               t1Gib := min d.t1Gib (Config.freeCount d.freeCtr), t2Gib := min d.t2Gib (Config.freeCount (d.freeCtr + 1)) }))

/-- `LINK_UNREACHABLE` (R403, R410): a port no longer works. What then follows of accesses is in the accesses themselves. -/
def execLinkUnreachable (port : Nat) (s : State) : Out :=
  if 12 ≤ port ∨ !bit s.st.portsUp port then .fault .notEnabled
  else .next ((s.onSt (fun st => { st with portsUp := st.portsUp - 2 ^ port })).onDev (fun d => { d with health := { d.health with failed := d.health.failed ||| 8 } }))

/-- `PCIE_LINK_TRAINED` (R404, R416): a link narrower or slower than Gen 7 × 16 puts the module in degraded state until it trains
again in full. -/
def execPcieLinkTrained (width gen : Nat) (s : State) : Out :=
  if !([1, 2, 4, 8, 16].contains width) ∨ gen = 0 ∨ 7 < gen then .fault .notEnabled
  else .next (s.onDev (fun d =>
    let rest := d.health.failed % 16 + d.health.failed / 32 * 32
    let failed := if width = 16 ∧ gen = 7 then rest else rest + 16
    { d with pcieWidth := width, pcieGen := gen, health := { d.health with failed := failed } }))

end Sys2Proof.Machine
end

