-- ==== Sys2Proof/Machine/Digest.lean ====
section
/-!
DEFINITION. SHA-512 and RSASSA-PSS with SHA-512, MGF1 with SHA-512 and a 64-byte salt, for an RSA-4096 key (R405, R414, R415).
-/
namespace Sys2Proof.Machine
open Sys2Proof

/-! SHA-512. Its constants are the first 64 bits of the fractions of roots of primes, and a hash is a list of eight words. -/

/-- The greatest number whose `k`-th power is at most `n`, found bit by bit from `r`, whose low bits are 0. -/
def rootUp (k n : Nat) : Nat → Nat → Nat
  | 0, r => r
  | bit + 1, r => rootUp k n bit (bif Nat.ble ((r + 2 ^ bit) ^ k) n then r + 2 ^ bit else r)

/-- The first 64 bits of the fraction of the `k`-th root of a prime below 512. -/
def rootBits (k p : Nat) : BitVec 64 := BitVec.ofNat 64 (rootUp k (p * 2 ^ (64 * k)) 69 0)

/-- The primes below 410, 80 of them. -/
def smallPrimes : List Nat :=
  (List.range' 2 408).filter (fun n => (List.range' 2 19).all (fun q => n == q || n % q != 0))

/-- A number from bytes, the most significant first; and the bytes of one. -/
def beNat (bs : List Byte) : Nat := bs.foldl (fun n b => 256 * n + b.toNat) 0
def beBytes (n x : Nat) : List Byte := (leBytes n x).reverse

/-- The exclusive or of a word turned right by each of some numbers of bits. -/
def turned (x : BitVec 64) (turns : List Nat) : BitVec 64 := turns.foldl (fun y n => y ^^^ x.rotateRight n) 0

/-- The words of a message's blocks: a bit 1, zeros, and its length in 128 bits end the last block. -/
def shaWords (bs : List Byte) : List (BitVec 64) :=
  let blocks := (bs.length + 16) / 128 + 1
  let number := (beNat bs * 256 + 128) * 2 ^ (8 * (128 * blocks - bs.length - 1)) + 8 * bs.length
  (List.range (16 * blocks)).map (fun i => BitVec.ofNat 64 (number >>> (64 * (16 * blocks - 1 - i))))

/-- The word that follows 16 words of a schedule. -/
def shaNext (ws : List (BitVec 64)) : BitVec 64 :=
  let old := ws.getD 1 0
  let late := ws.getD 14 0
  ws.getD 0 0 + ws.getD 9 0 + (turned old [1, 8] ^^^ old >>> 7) + (turned late [19, 61] ^^^ late >>> 6)

/-- What a round adds to a hash with the sum of its constant and its schedule word: to the fourth word, which becomes the fifth;
and, with the first three words' part, as the new first word. -/
def shaRound (kw : BitVec 64) (hs : List (BitVec 64)) : List (BitVec 64) :=
  let first := hs.getD 0 0
  let fifth := hs.getD 4 0
  let pick := hs.getD 6 0 ^^^ (fifth &&& (hs.getD 5 0 ^^^ hs.getD 6 0))
  let most := (first &&& (hs.getD 1 0 ||| hs.getD 2 0)) ||| (hs.getD 1 0 &&& hs.getD 2 0)
  let add := hs.getD 7 0 + kw + pick + turned fifth [14, 18, 41]
  (add + most + turned first [28, 34, 39]) :: (hs.take 3 ++ (hs.getD 3 0 + add) :: (hs.drop 4).take 3)

/-- The rounds of some constants over a hash, 16 schedule words standing ready. -/
def shaRounds : List (BitVec 64) → List (BitVec 64) → List (BitVec 64) → List (BitVec 64)
  | [], _, hs => hs
  | k :: ks, ws, hs => shaRounds ks (ws.drop 1 ++ [shaNext ws]) (shaRound (k + ws.getD 0 0) hs)

/-- The digest of bytes: 64 bytes. -/
def digest (bs : List Byte) : List Byte :=
  let ks := smallPrimes.map (rootBits 3)
  let ws := shaWords bs
  let final := (List.range (ws.length / 16)).foldl
    (fun hs i => List.zipWith (· + ·) hs (shaRounds ks ((ws.drop (16 * i)).take 16) hs)) ((smallPrimes.take 8).map (rootBits 2))
  final.flatMap (fun x => beBytes 8 x.toNat)

/-! RSASSA-PSS of PKCS #1 v2.2 (R414). -/

/-- A power modulo a number; `fuel` counts the exponent's bits. -/
def powMod (m : Nat) : Nat → Nat → Nat → Nat
  | 0, _, _ => 1 % m
  | fuel + 1, b, e =>
    if e = 0 then 1 % m
    else
      let h := powMod m fuel (b * b % m) (e / 2)
      if e % 2 = 1 then b * h % m else h

/-- MGF1: `n` bytes from a seed. -/
def maskGen (seed : List Byte) (n : Nat) : List Byte :=
  ((List.range (ceilDiv n 64)).flatMap (fun i => digest (seed ++ beBytes 4 i))).take n

def xorBytes (xs ys : List Byte) : List Byte := (List.zip xs ys).map (fun p => p.1 ^^^ p.2)

/-- Bytes with the most significant bit of the first clear: an encoded message has 4,095 bits. -/
def clearTop : List Byte → List Byte
  | [] => []
  | b :: bs => (b &&& 0x7F) :: bs

def pssHash (msg salt : List Byte) : List Byte := digest (List.replicate 8 0 ++ digest msg ++ salt)

/-- A message encoded with a salt, in 512 bytes. -/
def pssEncode (msg salt : List Byte) : List Byte :=
  let h := pssHash msg salt
  clearTop (xorBytes (List.replicate 382 0 ++ [0x01] ++ salt) (maskGen h 447)) ++ h ++ [0xBC]

/-- The signature of a message with a private key: modulus and exponent. -/
def pssSign (n d : Nat) (msg salt : List Byte) : List Byte := beBytes 512 (powMod n 4096 (beNat (pssEncode msg salt)) d)

/-- Whether a signature of a message verifies with a public key. -/
def pssVerify (n e : Nat) (msg sig : List Byte) : Bool :=
  let em := beBytes 512 (powMod n 4096 (beNat sig) e)
  let h := (em.drop 447).take 64
  let db := clearTop (xorBytes (em.take 447) (maskGen h 447))
  decide (sig.length = 512) && decide (beNat sig < n) && em.getD 511 0 == 0xBC && decide ((em.getD 0 0).toNat < 128) &&
  (db.take 382).all (· == 0) && db.getD 382 0 == 0x01 && pssHash msg (db.drop 383) == h

end Sys2Proof.Machine
end

