-- ==== Sys2Proof/Machine/Front.lean ====
section
/-!
DEFINITION. The front end (R347-R355, R377): choosing and reading packets, malformed packets, and the packet events.
-/
namespace Sys2Proof.Machine
open Sys2Proof

/-! Queues. -/

def Dev.queue (d : Dev) (q n : Nat) : Queue := (d.part q).queues.getD n Queue.reset
def Dev.modQueue (d : Dev) (q n : Nat) (f : Queue → Queue) : Dev := d.modPart q (fun p => { p with queues := modAt p.queues n f })

/-- A word of a queue's ring, read at system scope. -/
def Store.ringWord (st : Store) (k : Queue) (off : Nat) : Word := BitVec.ofNat 32 (leNat (st.homeGetN none (k.base + off % k.size) 4))

def hdrType (w : Word) : Nat := fld w.toNat 0 8
def hdrLen (w : Word) : Nat := fld w.toNat 8 8
def hdrFlags (w : Word) : Nat := fld w.toNat 16 8
def hdrAfter (w : Word) : Bool := bit w.toNat 31

/-- A queue is ready (R354): its ring is not empty, or it has more of an INDIRECT buffer, and nothing blocks it. -/
def Queue.ready (k : Queue) : Bool :=
  decide (k.size ≠ 0) && k.state != 3 && k.cur.isNone && k.parkSeq.isNone && (k.indirect.isSome || decide (k.head ≠ k.tail))

/-- The signaller that a queue blocked on a NAMED WAIT lends to (R348, R355). -/
def Queue.lends (k : Queue) : Option Nat :=
  match k.waiting, k.cur with
  | true, some (w :: _) => if bit w.toNat 23 then some (fld w.toNat 17 6) else none
  | _, _ => none

/-- Where a blocked queue's tickets come to rest: at most four hops, never through a queue already passed. -/
def Part.restsAt (p : Part) : Nat → List Nat → Nat → Nat
  | 0, _, n => n
  | hops + 1, seen, n =>
    match (p.queues.getD n Queue.reset).lends with
    | some m => if (n :: seen).contains m then n else p.restsAt hops (n :: seen) m
    | none => n

/-- Effective tickets of a queue (R355). -/
def Part.tickets (p : Part) (n : Nat) : Nat :=
  ((List.range 64).map (fun b =>
    let k := p.queues.getD b Queue.reset
    if decide (k.size ≠ 0) && p.restsAt 4 [] b == n then k.tickets else 0)).foldl (· + ·) 0

/-- The front end's choice (R354): the ready queue with the lowest PASS, lowest number among equals. -/
def Part.choice (p : Part) : Option Nat :=
  (List.range 64).foldl (fun best n =>
    let k := p.queues.getD n Queue.reset
    if !k.ready then best
    else match best with
      | none => some n
      | some b => if k.pass < (p.queues.getD b Queue.reset).pass then some n else some b) none

/-! Reading a packet. -/

/-- What reading ends in: the packet's words, a malformed packet's code, or an absent page. -/
inductive Fetched where
  | words (ws : List Word)
  | bad (code : Nat)
  | park (va : Nat)

/-- Whether a packet's header and first words keep its row of R348: the code of R352 if not. `inside`: from an INDIRECT buffer. -/
def shapeCode (inside : Bool) (ws : List Word) : Nat :=
  let w := ws.headD 0
  let n := hdrLen w
  let fl := hdrFlags w
  let ty := hdrType w
  let pos := decide (fld w.toNat 24 7 = 0)
  let len (k : Nat) := n == k
  let ok : Bool :=
    if ty = 1 ∨ ty = 5 ∨ ty = 6 ∨ ty = 9 then len 3 && fl == 0
    else if ty = 2 then n % 16 == 2 && fl < 2 && decide (fld (ws.getD 1 0).toNat 6 26 = 0)
    else if ty = 3 then len 5
    else if ty = 4 then len 5 && fl < 2
    else if ty = 7 then len 1 && fl == 0
    else if ty = 8 then len 4 && fl == 0 && !inside && decide (1 ≤ (ws.getD 3 0).toNat ∧ (ws.getD 3 0).toNat ≤ 2 ^ 24)
    else true
  if ty = 0 ∨ 10 < ty then 0x01
  else if n = 0 ∨ !pos ∨ !ok then 0x02
  else 0

/-- A unit of a queue's INDIRECT buffer, 128 bytes of a number: read once, as one access (R353). -/
def State.readUnit (s : State) (q n u : Nat) : State × EngStop :=
  if ((s.dev.queue q n).units.get? u).isSome then (s, .ok)
  else match s.engRead (frontAgent s.dev q) (u * 128) 128 with
    | (s, bs, .ok) => (s.onDev (fun d => d.modQueue q n (fun k => { k with units := k.units.set u (wordsOf bs) })), .ok)
    | (s, _, e) => (s, e)

/-- The word at an address in the units that have been read. -/
def Queue.unitWord (k : Queue) (va : Nat) : Word := ((k.units.get? (va / 128)).getD []).getD (va % 128 / 4) 0

/-- Words of an INDIRECT buffer from an address, their units read where they have not been. -/
def State.pullWords (s : State) (q n va : Nat) : Nat → State × List Word × EngStop
  | 0 => (s, [], .ok)
  | k + 1 => match s.readUnit q n (va / 128) with
    | (s, .ok) => let r := s.pullWords q n ((va + 4) % 2 ^ 64) k; (r.1, (s.dev.queue q n).unitWord va :: r.2.1, r.2.2)
    | (s, e) => (s, [], e)

/-- A queue past some words of its INDIRECT buffer; a unit that is used up goes. -/
def Queue.past (k : Queue) (va : DWord) (left words : Nat) : Queue :=
  let next := va + BitVec.ofNat 64 (4 * words)
  if left ≤ words then { k with indirect := none, units := [] }
  else { k with indirect := some (next, left - words), units := k.units.filter (fun u => !decide (u.1 * 128 + 128 ≤ next.toNat)) }

/-- The next packet of an INDIRECT buffer with some words left. -/
def State.fetchInside (s : State) (q n : Nat) (va : DWord) (left : Nat) : State × Fetched :=
  match s.pullWords q n va.toNat 1 with
  | (s, _, .absent x) => (s, .park x)
  | (s, _, .fault c) => (s, .bad c.code)
  | (s, ws, .ok) =>
    let len := hdrLen (ws.headD 0)
    if left < len then (s, .bad 0x02)
    else match s.pullWords q n va.toNat len with
      | (s, _, .absent x) => (s, .park x)
      | (s, _, .fault c) => (s, .bad c.code)
      | (s, more, .ok) =>
        let ws := if more.isEmpty then ws else more
        if shapeCode true ws ≠ 0 then (s, .bad (shapeCode true ws))
        else (s.onDev (fun d => d.modQueue q n (fun k => k.past va left len)), .words ws)

/-- The next packet of a queue: from its INDIRECT buffer, or from its ring, HEAD moving past it. The ring's words are read as they
stand, those beyond TAIL too where LEN leads there (log entry 46). -/
def State.fetchPacket (s : State) (q n : Nat) : State × Fetched :=
  let k := s.dev.queue q n
  match k.indirect with
  | some x => s.fetchInside q n x.1 x.2
  | none =>
    if k.tail % 4 ≠ 0 then (s, .bad 0x02)
    else
      let w := s.st.ringWord k k.head
      let ws := (List.range (hdrLen w)).map (fun i => s.st.ringWord k (k.head + 4 * i))
      let ws := if ws.isEmpty then [w] else ws
      let code := shapeCode false ws
      if code ≠ 0 then (s, .bad code)
      else (s.onDev (fun d => d.modQueue q n (fun k => { k with head := (k.head + 4 * hdrLen w) % k.size })), .words ws)

/-- A malformed packet stops its queue and no other (R352, R407). -/
def State.queueError (s : State) (q n code off : Nat) : State :=
  (s.onDev (fun d => (d.modQueue q n (fun k =>
    { k with state := 3, errCode := code, errOff := off, cur := none, waiting := false, indirect := none, units := [] })).interrupt (9 + 4 * q))).postQueue q n

/-- A queue blocked by an absent page: a park record of UNIT 8 (R352). -/
def State.queuePark (s : State) (q n va : Nat) : State :=
  let seq := s.nextSeq q
  (s.openPark q { StopRec.blank with unit := 8, core := 0xFFFF, addr := va } (.queue n)).onDev (fun d =>
    d.modQueue q n (fun k => { k with parkSeq := some seq }))

/-- What a start needs of its addresses (R352). -/
def State.queueStop (s : State) (q n off : Nat) (e : EngStop) : State := match e with
  | .fault c => s.queueError q n c.code off
  | .absent va => s.queuePark q n va
  | .ok => s

/-- The header word that a queue holds next, from its INDIRECT buffer or its ring; one that cannot be read counts as a NOP's. -/
def State.nextHeader (s : State) (q n : Nat) : Word :=
  let k := s.dev.queue q n
  match k.indirect with
  | some x => (match s.readUnit q n (x.1.toNat / 128) with | (t, .ok) => (t.dev.queue q n).unitWord x.1.toNat | _ => 0x0A)
  | none => s.st.ringWord k k.head

/-- The packet event that reads a packet with a header: NOP's for the types that R348 does not give. -/
def packetType (w : Word) : Nat := if hdrType w = 0 ∨ 10 < hdrType w then 10 else hdrType w

/-- Where the packet that a queue holds next begins, as ERROFF gives it (R352). -/
def Queue.nextOff (k : Queue) : Nat := if k.indirect.isSome then k.curOff else k.head

/-- The choice of a queue (R354): the packet that it holds next is read, and its PASS advances by its stride, once for each packet. -/
def State.readPacket (s : State) (q n : Nat) : State × Fetched :=
  let stride := 2 ^ 20 / max 1 ((s.dev.part q).tickets n)
  match (s.onDev (fun d => d.modQueue q n (fun k => { k with curOff := k.nextOff }))).fetchPacket q n with
  | (s, .park va) => (s, .park va)
  | (s, r) => (s.onDev (fun d => d.modQueue q n (fun k => { k with pass := (k.pass + stride) % 2 ^ 64 })), r)

/-- A packet that has been read stays with the front end until it starts; its reading is its arrival (R356). -/
def State.holdPacket (s : State) (q n : Nat) (ws : List Word) : State :=
  s.onDev (fun d => { d.modQueue q n (fun k => { k with cur := some ws, stamp := d.nextStamp }) with nextStamp := d.nextStamp + 1 })

/-- A queue that the front end may serve: it runs, and is not errored, blocked in a WAIT, or parked. -/
def Dev.serves (d : Dev) (q n : Nat) : Bool :=
  let k := d.queue q n
  d.working q && k.state != 3 && !k.waiting && k.parkSeq.isNone

/-- The packet event of a type (R349, R354): the front end's choice is read, if its packet is of the type; a packet that can
start does. A packet read before that could not start starts now. `start` answers `none` while it cannot. -/
def packetEvent (ty : Nat) (q n : Nat) (start : State → List Word → Nat → Option State) (s : State) : Out :=
  let k := s.dev.queue q n
  if !s.dev.serves q n then .fault .notEnabled
  else match k.cur with
    | some ws =>
      if hdrType (ws.headD 0) ≠ ty then .fault .notEnabled
      else (match start s ws k.curOff with
        | some s => .next (s.postQueue q n)
        | none => .fault .notEnabled)
    | none =>
      if (s.dev.part q).choice ≠ some n ∨ packetType (s.nextHeader q n) ≠ ty then .fault .notEnabled
      else match s.readPacket q n with
        | (s, .bad code) => .next (s.queueError q n code k.nextOff)
        | (s, .park va) => .next ((s.queuePark q n va).postQueue q n)
        | (s, .words ws) =>
          let s := s.holdPacket q n ws
          match start s ws (s.dev.queue q n).curOff with
          | some s => .next (s.postQueue q n)
          | none => .next (s.postQueue q n)

/-- The packet has started and nothing of it stays with the front end. -/
def State.taken (s : State) (q n : Nat) : State := s.onDev (fun d => d.modQueue q n (fun k => { k with cur := none }))

/-- A started packet that completes later: its serial number joins the queue's live packets. -/
def State.started (s : State) (q n : Nat) : State × Nat :=
  let serial := (s.dev.queue q n).serial
  (s.onDev (fun d => d.modQueue q n (fun k => { k with cur := none, live := k.live ++ [serial], serial := serial + 1 })), serial)

/-- AFTER, or a FENCE, waits for every earlier packet of the queue (R349). -/
def Queue.held (k : Queue) (ws : List Word) : Bool := hdrAfter (ws.headD 0) && !k.live.isEmpty

def addrAt (ws : List Word) (i : Nat) : Nat := (ws.getD i 0).toNat + 2 ^ 32 * (ws.getD (i + 1) 0).toNat

/-- A start whose packet names an address: its alignment first. -/
def State.aligned (s : State) (q n off va align : Nat) (k : Unit → Option State) : Option State :=
  if va % align ≠ 0 then some (s.queueError q n 0x08 off) else k ()

/-! The packets. -/

/-- The start of a `LAUNCH_PACKET` packet; `none` while it cannot start. -/
def launchStart (part queue : Nat) (s : State) (ws : List Word) (off : Nat) : Option State :=
  let va := addrAt ws 1
  if (s.dev.queue part queue).held ws || !s.dev.tableTakes part (s.dev.queue part queue).stamp then none
  else s.aligned part queue off va 128 (fun _ =>
    match s.engRead (frontAgent s.dev part) va 128 with
    | (s, bs, .ok) =>
      if !recordOk s.dev s.st part (frontAgent s.dev part).core false bs then some (s.queueError part queue 0x13 off)
      else
        let r := s.started part queue
        some (r.1.onDev (fun d => d.enterLaunch part (LaunchRec.ofBytes bs) (.packet queue r.2)))
    | (s, _, e) => some (s.queueStop part queue off e))

/-- `LAUNCH_PACKET` (R349, R356): the record is read and checked, and the launch table accepts it. -/
def execLaunchPacket (part queue : Nat) (s : State) : Out := packetEvent 1 part queue (launchStart part queue) s

/-- The writes that a context's cores have performed in their L1s are performed at the homes (R300, R351). -/
def Store.releaseCores (st : Store) (cores : List Nat) : Store := cores.foldl (fun st c => st.release c) st

/-- The start of a `FEED` packet; `none` while it cannot start. The append releases what earlier packets have written (R351). -/
def feedStart (part queue : Nat) (s : State) (ws : List Word) (_ : Nat) : Option State :=
  let f := fld (ws.getD 1 0).toNat 0 6
  let n := (hdrLen (ws.headD 0) - 2) / 16
  let recs := (List.range n).map (fun i => bytesOf ((ws.drop (2 + 16 * i)).take 16))
  let feed := (s.dev.part part).feeds.getD f { records := [], closed := false }
  if (s.dev.queue part queue).held ws || decide (16 < feed.records.length + n) then none
  else
    let upd := fun (k : Feed) => ({ records := k.records ++ recs, closed := bit (ws.headD 0).toNat 16 } : Feed)
    some (((s.taken part queue).onSt (fun st => st.releaseCores (s.dev.coresOf part))).onDev (fun d =>
      let d := d.modPart part (fun p => { p with feeds := modAt p.feeds f upd })
      { d with groups := d.groups.map (fun (g : Group) => if g.part = part ∧ g.wait = some (GWait.fpop f) then g.rewait else g) }))

/-- `FEED` (R351): the records are appended once there is room for them all; groups that wait in `fpop` on the queue wake. -/
def execFeed (part queue : Nat) (s : State) : Out := packetEvent 2 part queue (feedStart part queue) s

/-- The condition of a WAIT on the semaphore's value (R348). -/
def semOk (ws : List Word) (v : Nat) : Bool :=
  if bit (ws.headD 0).toNat 16 then v == addrAt ws 3 else decide (addrAt ws 3 ≤ v)

/-- A WAIT reads its semaphore: it completes if the condition holds. -/
def State.readSem (s : State) (q n : Nat) (ws : List Word) : State :=
  match s.engRead (frontAgent s.dev q) (addrAt ws 1) 8 with
  | (s, bs, .ok) =>
    s.onDev (fun d => d.modQueue q n (fun k => if semOk ws (leNat bs) then { k with cur := none, waiting := false } else { k with waiting := true }))
  | (s, _, e) => s.queueStop q n (s.dev.queue q n).curOff e

/-- The start of a `WAIT` packet; `none` while it cannot start. -/
def waitStart (part queue : Nat) (s : State) (ws : List Word) (off : Nat) : Option State :=
  if (s.dev.queue part queue).held ws then none
  else s.aligned part queue off (addrAt ws 1) 8 (fun _ => some (s.readSem part queue ws))

/-- `WAIT` (R350): it starts when read, and blocks its queue until its condition holds. -/
def execWait (part queue : Nat) (s : State) : Out := packetEvent 3 part queue (waitStart part queue) s

/-- `WAIT_RECHECK` (R350): the semaphore is read again; only a read that ends the wait, or that meets a fault, changes
anything. -/
def execWaitRecheck (part queue : Nat) (s : State) : Out :=
  let k := s.dev.queue part queue
  match k.waiting, k.cur with
  | true, some ws =>
    if !s.dev.working part ∨ k.parkSeq.isSome then .fault .notEnabled
    else
      let t := s.readSem part queue ws
      let j := t.dev.queue part queue
      if j.waiting ∧ j.parkSeq.isNone then .fault .notEnabled else .next (t.postQueue part queue)
  | _, _ => .fault .notEnabled

/-- A value written by the front end at an address that must be readable and writable (R352), or added to the value that is there, in
one step at its home (R350). -/
def State.semWrite (s : State) (q n off va : Nat) (add : Bool) (v : Nat) : State :=
  let a := frontAgent s.dev q
  match a.resolve s.st va .both with
  | .perm => s.queueError q n FCode.permission.code off
  | _ => match (if add then s.engRead a va 8 else (s, [], .ok)) with
    | (s, bs, .ok) => match s.engWrite a va (leBytes 8 ((leNat bs + v) % 2 ^ 64)) with
      | (s, .ok) => s.taken q n
      | (s, e) => s.queueStop q n off e
    | (s, _, e) => s.queueStop q n off e

/-- The start of a `SIGNAL` packet; `none` while it cannot start. -/
def signalStart (part queue : Nat) (s : State) (ws : List Word) (off : Nat) : Option State :=
  let va := addrAt ws 1
  if (s.dev.queue part queue).held ws then none
  else s.aligned part queue off va 8 (fun _ =>
    some (s.semWrite part queue off va (bit (ws.headD 0).toNat 16) (addrAt ws 3)))

/-- `SIGNAL` (R350): one step at the semaphore's home, a release at system scope of the completed packets' writes. -/
def execSignal (part queue : Nat) (s : State) : Out := packetEvent 4 part queue (signalStart part queue) s

/-- The start of a `TIMESTAMP` packet; `none` while it cannot start. -/
def timestampStart (part queue : Nat) (s : State) (ws : List Word) (off : Nat) : Option State :=
  let va := addrAt ws 1
  if (s.dev.queue part queue).held ws then none
  else s.aligned part queue off va 8 (fun _ => some (s.semWrite part queue off va false (s.dev.time / 2)))

/-- `TIMESTAMP` (R350): module time in nanoseconds. -/
def execTimestamp (part queue : Nat) (s : State) : Out := packetEvent 9 part queue (timestampStart part queue) s

/-- Where an access by the front end to a range stops: the first of its pages that does (R352). -/
def State.pagesStop (s : State) (a : Agent) (need : Need) (va n : Nat) : EngStop :=
  ((List.range (if n = 0 then 0 else (va % 65536 + n - 1) / 65536 + 1)).findSome? (fun i =>
    let x := if i = 0 then va else (va / 65536 + i) * 65536
    match a.resolve s.st x need with
    | .ok _ => none
    | .absent => some (EngStop.absent x)
    | .perm => some (.fault .permission)
    | .fatal => some (.fault .translation))).getD .ok

/-- Where the ranges of a copy stop, row by row, source before destination (R352; log entry 46). -/
def State.copyStop (s : State) (a : Agent) (bs : List Byte) : EngStop :=
  let n := field bs 32 4
  ((copyRows bs).findSome? (fun r => match s.pagesStop a .read r.1 n with
    | .ok => (match s.pagesStop a .write r.2 n with | .ok => none | e => some e)
    | e => some e)).getD .ok

/-- The start of a `COPY` packet; `none` while it cannot start. -/
def copyStart (part queue : Nat) (s : State) (ws : List Word) (off : Nat) : Option State :=
  let va := addrAt ws 1
  if (s.dev.queue part queue).held ws then none
  else s.aligned part queue off va 64 (fun _ =>
    let a := frontAgent s.dev part
    match s.engRead a va 64 with
    | (s, bs, .ok) =>
      let rows := copyRows bs
      let inWin := fun (x : Nat) => decide (windowBase < x + max (field bs 32 4) 1)
      if zeroAt bs 44 20 && rows.any (fun r => inWin r.1 || inWin r.2) then some (s.queueError part queue FCode.permission.code off)
      else match a.copyRanges bs, s.copyStop a bs with
        | none, _ => some (s.queueError part queue 0x02 off)
        | some _, .fault c => some (s.queueStop part queue off (.fault c))
        | some _, .absent x => some (s.queueStop part queue off (.absent x))
        | some _, .ok =>
          let r := s.started part queue
          let e : Eng := { eid := s.dev.nextOp, kind := .copy, part := part, core := a.core, gid := 0, tid := 0, fut := 0, gen := 0,
                           scope := 4, desc := bs, hdrVa := BitVec.ofNat 64 off, fm := [], cancelled := false, progress := 0,
                           held := [], halfDone := [], parkSeq := none, deadline := none, packet := some (queue, r.2), launch := 0, tix := 0,
                           pc := 0, lids := [] }
          some (r.1.onDev (fun d => { d with engs := d.engs ++ [e], nextOp := d.nextOp + 1 }))
    | (s, _, e) => some (s.queueStop part queue off e))

/-- `COPY` (R350): a copy engine of the partition takes the descriptor; it holds no range lock. -/
def execCopy (part queue : Nat) (s : State) : Out := packetEvent 6 part queue (copyStart part queue) s

/-- Dirty lines of a partition's L2 homed off the module written to their homes (R349). -/
def Store.flushL2 (st : Store) (q : Nat) : Store :=
  (st.l2.filter (fun l => l.part == q && offModule (l.line * 128))).foldl (fun st l =>
    let ds := l.body.dirtyBytes
    let st := if ds.isEmpty then st else st.memPuts l.line ds
    { st with l2 := st.l2.map (fun k => if k.part = q ∧ k.line = l.line then { k with body := LineBytes.clean k.body.data } else k) }) st

/-- The start of a `FENCE` packet; `none` while it cannot start. -/
def fenceStart (part queue : Nat) (s : State) (_ : List Word) (_ : Nat) : Option State :=
  if !(s.dev.queue part queue).live.isEmpty then none
  else some ((s.onSt (fun st => (st.releaseCores (s.dev.coresOf part)).flushL2 part)).taken part queue)

/-- `FENCE` (R349). -/
def execFence (part queue : Nat) (s : State) : Out := packetEvent 7 part queue (fenceStart part queue) s

/-- The start of a `INDIRECT` packet; `none` while it cannot start. -/
def indirectStart (part queue : Nat) (s : State) (ws : List Word) (off : Nat) : Option State :=
  let va := addrAt ws 1
  if (s.dev.queue part queue).held ws then none
  else s.aligned part queue off va 128 (fun _ =>
    some ((s.taken part queue).onDev (fun d => d.modQueue part queue (fun k =>
      { k with indirect := some (BitVec.ofNat 64 va, (ws.getD 3 0).toNat) }))))

/-- `INDIRECT` (R353): the queue's next packets come from the buffer. -/
def execIndirect (part queue : Nat) (s : State) : Out := packetEvent 8 part queue (indirectStart part queue) s

/-- The INDIRECT buffer that a queue has read of: address and words left. -/
def Queue.buffer (k : Queue) : Option (Nat × Nat) := match k.indirect, k.cur with
  | some x, _ => some (x.1.toNat, x.2)
  | none, some ws => if hdrType (ws.headD 0) = 8 then some (addrAt ws 1 / 128 * 128, (ws.getD 3 0).toNat) else none
  | none, none => none

/-- The front end reads a unit of the buffer of an INDIRECT packet that it has read, before it processes the unit's first word; one
that it cannot read now is read then (R353). -/
def State.readAhead (s : State) (q n u : Nat) : State :=
  match (s.dev.queue q n).buffer with
  | none => s
  | some (va, left) =>
    if !s.dev.working q ∨ u * 128 + 128 ≤ va ∨ va + 4 * left ≤ u * 128 then s
    else match s.readUnit q n u with | (t, .ok) => t | _ => s

/-- The start of a `NOP` packet; `none` while it cannot start. -/
def nopStart (part queue : Nat) (s : State) (ws : List Word) (_ : Nat) : Option State :=
  if (s.dev.queue part queue).held ws then none else some (s.taken part queue)

/-- `NOP` (R348); a packet of an unknown type is read, and stops its queue, in this event too. -/
def execNop (part queue : Nat) (s : State) : Out := packetEvent 10 part queue (nopStart part queue) s

/-! DRAW (R348, R377, R381). -/

/-- A micro-op that R381 refuses. -/
def opRefused (w : Word) : Bool :=
  let n := w.toNat
  fld n 9 3 == 7 || bit n 8 || decide (8 < fld n 4 4) || decide (8 < fld n 0 4) || (fld n 13 3 == 7 && decide (fld n 9 4 ≠ 0))

/-- The checks of R377 that the draw record's bytes decide. -/
def drawShapeOk (bs : List Byte) : Bool :=
  let w := field bs 48 2
  let h := field bs 50 2
  let steps := field bs 75 1
  zeroAt bs 96 32 && zeroAt bs 72 2 && zeroAt bs 52 4 && zeroAt bs 30 2 && zeroAt bs 24 4 && zeroAt bs 8 8 &&
  decide (1 ≤ w ∧ w ≤ 16384) && decide (1 ≤ h ∧ h ≤ 16384) && decide (1 ≤ steps ∧ steps ≤ 8) && decide (field bs 74 1 < 2) &&
  decide (field bs 40 8 % 128 = 0) && decide (field bs 0 8 % 128 = 0) && decide (field bs 32 8 % 4 = 0) &&
  decide (1 ≤ field bs 29 1 ∧ field bs 29 1 ≤ 24) && decide (field bs 28 1 ≤ 2) &&
  (List.range steps).all (fun i => !opRefused (BitVec.ofNat 32 (field bs (80 + 2 * i) 2)))

/-- Every byte of TARGET translates and may be read and written: the first page that does not. -/
def State.targetStop (s : State) (a : Agent) (va n : Nat) : EngStop := s.pagesStop a .both va n

def drawOf (bs : List Byte) (mesh : LaunchRec) (idx queue serial lno : Nat) (needs : List Nat) : Draw :=
  { idx := idx, queue := queue, serial := serial, width := field bs 48 2, height := field bs 50 2, target := dwordAt bs 40,
    clear := bit (field bs 74 1) 0, clearV := (List.range 4).map (fun i => wordAt bs (56 + 4 * i)),
    prog := (List.range (field bs 75 1)).map (fun i => BitVec.ofNat 32 (field bs (80 + 2 * i) 2)), thresh := wordAt bs 76,
    fentry := dwordAt bs 32, fregs := field bs 29 1 * 8, fwidth := field bs 28 1, farg := dwordAt bs 16, mesh := mesh, launch := lno,
    allocs := [], needs := needs, prims := [], closedGroups := [], released := [], frags := [], written := [] }

/-- The start of a `DRAW` packet; `none` while it cannot start. -/
def drawStart (part queue : Nat) (s : State) (ws : List Word) (off : Nat) : Option State :=
  let va := addrAt ws 1
  let a := frontAgent s.dev part
  if (s.dev.queue part queue).held ws || !s.dev.tableTakes part (s.dev.queue part queue).stamp then none
  else s.aligned part queue off va 128 (fun _ =>
    match s.engRead a va 128 with
    | (s, bs, .ok) =>
      if !drawShapeOk bs then some (s.queueError part queue 0x13 off)
      else match s.engRead a (field bs 0 8) 128 with
        | (s, ms, .ok) =>
          let mesh := LaunchRec.ofBytes ms
          if !recordOk s.dev s.st part a.core false ms || mesh.pair || mesh.quad || mesh.forme then some (s.queueError part queue 0x13 off)
          else match s.targetStop a (field bs 40 8) (16 * field bs 48 2 * field bs 50 2) with
            | .ok =>
              let r := s.started part queue
              let idx := (s.dev.part part).nextDraw
              let tiles := ceilDiv (field bs 48 2) 32 * ceilDiv (field bs 50 2) 32
              let x := drawOf bs mesh idx queue r.2 s.dev.nextLno ((s.dev.clustersOf part).take tiles)
              some (r.1.onDev (fun d => (d.enterLaunch part mesh (.draw idx)).modPart part (fun p =>
                { p with draws := p.draws ++ [x], nextDraw := idx + 1 })))
            | e => some (s.queueStop part queue off e)
        | (s, _, e) => some (s.queueStop part queue off e)
    | (s, _, e) => some (s.queueStop part queue off e))

/-- `DRAW` (R349, R377): the draw record, its launch record and its target are checked; the draw takes its index when the launch
table accepts its launch. -/
def execDraw (part queue : Nat) (s : State) : Out := packetEvent 5 part queue (drawStart part queue) s

end Sys2Proof.Machine
end

