-- ==== Sys2Proof/Machine/Outside.lean ====
section
/-!
DEFINITION. Accesses from outside the module (R196, R307, R335, R404-R411, R416): the host's reads, writes and AtomicOps through
BAR2, its registers in BAR0 with the mailbox bell, doorbells and ring tails, and peers.
-/
namespace Sys2Proof.Machine
open Sys2Proof

def allOnes (n : Nat) : List Byte := List.replicate n 0xFF

/-- An address of this module's memory (R291); every other one that BAR2 reaches is reserved. -/
def inTiers (a : Nat) : Bool := decide (a < tier1Bytes) || decide (tier2Base ≤ a ∧ a < tier2Base + tier2Bytes)
def bar2Bytes : Nat := 0x130000000000

/-- A partition whose reference is stopped keeps accesses to its slices waiting (R401). -/
def Dev.sliceWaits (d : Dev) (a n : Nat) : Bool :=
  (List.range d.nparts).any (fun q => (d.part q).paused && (inShare q d.nparts a || inShare q d.nparts (a + n - 1)))

/-- An inbound access inside a range of its peer (R411). -/
def Dev.inbounds (d : Dev) (peer a n : Nat) : Bool :=
  d.inbound.any (fun r => r.1 == peer && decide (r.2.1 ≤ a ∧ a + n ≤ r.2.2 + 1))

def State.countRefused (s : State) : State :=
  s.onDev (fun d => { d with health := { d.health with inRefuse := d.health.inRefuse + 1 } })

/-- What an outside reader gets. -/
def State.answer (s : State) (bs : List Byte) : State := s.onDev (fun d => { d with reads := d.reads ++ [bs] })

/-- Bytes of memory as an outside reader sees them: a reserved byte reads as ones (R405); a line with an uncorrectable error gives no
data (R282). -/
def Store.outsideGet (st : Store) (a n : Nat) : List Byte :=
  if (List.range ((a + n - 1) / 128 - a / 128 + 1)).any (fun i => st.hardHome (128 * (a / 128 + i))) then []
  else (List.range n).map (fun i => if inTiers (a + i) then st.homeGet none (a + i) else 0xFF)

/-- What an access from outside comes after at the home: the waiters of its cells that are still to be performed (R341), its correctable
errors corrected (R282), its accumulators in the pool (R292). -/
def State.outsideMeets (s : State) (a n : Nat) : State :=
  let s := s.drainAt (.pa a false true true) (max 1 n)
  let s := (List.range ((a + n - 1) / 128 - a / 128 + 1)).foldl (fun s i => s.correctHome (128 * (a / 128 + i))) s
  match (List.range s.dev.nparts).find? (fun q => inShare q s.dev.nparts a) with
  | some q => s.useExact q (.pa a false true true) n
  | none => s

/-- A read from outside, served by the home slice; no cell is triggered (R307, R335). -/
def State.outsideRead (s : State) (a n : Nat) : State := let s := s.outsideMeets a n; s.answer (s.st.outsideGet a n)

/-- One piece of an outside write, within a cell (R335): PRINTING drops it and counts; PLATE and POISON become VALUE. -/
def State.outsidePiece (s : State) (p : Nat × List Byte) : State :=
  let c := cellOf p.1
  if !inTiers p.1 then s
  else match s.st.cellTag c with
    | 2 => s.onDev (fun d => { d with health := { d.health with cellDrop := d.health.cellDrop + 1 } })
    | 0 => s.onSt (fun st => st.homeSet none p.1 p.2)
    | _ => s.onSt (fun st => st.setCell c 0 (overCell (p.1 % 16) p.2))

/-- A write from outside, served by the home slice at system scope (R307, R335). -/
def State.outsideWrite (s : State) (a : Nat) (bs : List Byte) : State :=
  let s := s.outsideMeets a bs.length
  (cellPieces a bs (bs.length / 16 + 2)).foldl (fun s p => s.outsidePiece p) s

/-! Registers of BAR0 (R405, R406, R408). -/

/-- The identity block's 256 bytes. -/
def Dev.identity (d : Dev) (ports : Nat) : List Byte :=
  leBytes 23 0 ++ leBytes 1 ((List.range 12).filter (fun i => bit ports i)).length ++ leBytes 2 d.slices ++
  leBytes 2 (d.cores.filter (·.working)).length ++ leBytes 4 d.t1Gib ++ leBytes 4 d.t2Gib ++ leBytes 1 d.fw.active ++ leBytes 1 d.nparts ++
  leBytes 2 d.fw.moduleNo ++ leBytes 8 d.fw.version ++ (d.fw.digest.take 64) ++ (d.fw.serialNo.take 64) ++
  d.fw.near.map (fun n => BitVec.ofNat 8 n) ++ leBytes 44 0

/-- A byte of BAR0 as the host reads it. -/
def Dev.bar0Byte (d : Dev) (ports a : Nat) : Byte :=
  if a < 0x1000 then (d.identity ports).getD a 0xFF
  else if a < 0x2000 then d.health.shown.getD (a - 0x1000) 0
  else if 0x2080 ≤ a ∧ a < 0x20C0 then d.mbox.response.getD (a - 0x2080) 0
  else if 0x50000 ≤ a ∧ a < 0x50000 + 0x100 * d.nparts ∧ a % 0x100 < 8 then
    (leBytes 8 (d.part ((a - 0x50000) / 0x100)).seq).getD (a % 0x100) 0
  else 0xFF

/-- The bell (R408): a command taken, or answered busy while another is not over; an unknown code is refused. -/
def Dev.ring (d : Dev) : Dev :=
  let answer := fun (c : Nat) => d.mbox.response.set 0 (BitVec.ofNat 8 c)
  let code := (d.mbox.command.getD 0 0).toNat
  if d.mbox.busy then ({ d with mbox := { d.mbox with response := answer 2 } }).interrupt 1
  else if code = 0 ∨ 0x0D < code then ({ d with mbox := { d.mbox with response := answer 1 } }).interrupt 1
  else { d with mbox := { d.mbox with taken := d.mbox.command, busy := true } }

/-- A doorbell write (R354, R406): TAIL takes bits [31:0], modulo SIZE; a queue that was idle and becomes ready catches up with the
lowest PASS of the ready ones. A queue that firmware has not set up drops it. -/
def State.doorbell (s : State) (q n value : Nat) : State :=
  let p := s.dev.part q
  let k := s.dev.queue q n
  if s.dev.nparts ≤ q ∨ 64 ≤ n ∨ k.size = 0 then s
  else
    let ready := (List.range 64).filter (fun i => (p.queues.getD i Queue.reset).ready)
    let tail := value % 2 ^ 32 % k.size
    let low := ready.foldl (fun (b : Option Nat) i => let x := (p.queues.getD i Queue.reset).pass
      match b with | none => some x | some y => some (min x y)) none
    let pass := if k.stateNow = 0 ∧ ({ k with tail := tail } : Queue).ready = true then max k.pass (low.getD 0) else k.pass
    (s.onDev (fun d => d.modQueue q n (fun k => { k with tail := tail, pass := pass }))).postQueue q n

/-- The tail of a stop ring as the host returns it (R323). -/
def Dev.setTail (d : Dev) (q value : Nat) : Dev := d.modPart q (fun p => { p with ringTail := value % 2 ^ 32 })

/-- A write to BAR0: aligned 4- or 8-byte accesses to what the host may write; every other is dropped (R405). -/
def State.bar0Write (s : State) (a : Nat) (bs : List Byte) : State :=
  let n := bs.length
  let v := leNat bs
  if !(n == 4 || n == 8) ∨ a % n ≠ 0 then s
  else if 0x2000 ≤ a ∧ a + n ≤ 0x2040 then
    s.onDev (fun d => { d with mbox := { d.mbox with command := (bs.zipIdx).foldl (fun l b => l.set (a - 0x2000 + b.2) b.1) d.mbox.command } })
  else if a = 0x2040 then (if v = 1 then s.onDev Dev.ring else s)
  else if 0x40000 ≤ a ∧ a < 0x41000 ∧ a % 8 = 0 then s.doorbell ((a - 0x40000) / 0x400) (a % 0x400 / 8) v
  else if 0x50000 ≤ a ∧ a < 0x50000 + 0x100 * s.dev.nparts ∧ a % 0x100 = 8 then s.onDev (fun d => d.setTail ((a - 0x50000) / 0x100) v)
  else s

/-! The events. -/

/-- `DOORBELL` (R406). -/
def execDoorbell (part queue : Nat) (value : DWord) (s : State) : Out :=
  if s.dev.nparts ≤ part ∨ 64 ≤ queue then .fault .notEnabled else .next (s.doorbell part queue value.toNat)

/-- `STOPTAIL` (R323, R405). -/
def execStoptail (part : Nat) (value : DWord) (s : State) : Out :=
  if s.dev.nparts ≤ part then .fault .notEnabled else .next (s.onDev (fun d => d.setTail part value.toNat))

/-- `HOST_WRITE` (R335, R405, R411). -/
def execHostWrite (src : Outside) (addr : Nat) (data : List Byte) (s : State) : Out :=
  match src with
  | .bar2 =>
    if bar2Bytes < addr + data.length ∨ data.isEmpty ∨ s.dev.sliceWaits addr data.length then .fault .notEnabled
    else .next (s.outsideWrite addr data)
  | .bar0 => if 0x100000 < addr + data.length then .fault .notEnabled else .next (s.bar0Write addr data)
  | .peer p =>
    if data.isEmpty then .fault .notEnabled
    else if !s.dev.inbounds p addr data.length then .next s.countRefused
    else if s.dev.sliceWaits addr data.length then .fault .notEnabled
    else .next (s.outsideWrite addr data)

/-- `HOST_READ` (R307, R335, R405, R411): the bytes join the answers; a refused peer gets none. -/
def execHostRead (src : Outside) (addr n : Nat) (s : State) : Out :=
  match src with
  | .bar2 =>
    if bar2Bytes < addr + n ∨ n = 0 ∨ s.dev.sliceWaits addr n then .fault .notEnabled
    else .next (s.outsideRead addr n)
  | .bar0 =>
    if 0x100000 < addr + n then .fault .notEnabled
    else .next (s.answer (if (n = 4 ∨ n = 8) ∧ addr % n = 0 then (List.range n).map (fun i => s.dev.bar0Byte s.st.portsUp (addr + i)) else allOnes n))
  | .peer p =>
    if n = 0 then .fault .notEnabled
    else if !s.dev.inbounds p addr n then .next (s.countRefused.answer [])
    else if s.dev.sliceWaits addr n then .fault .notEnabled
    else .next (s.outsideRead addr n)

/-- The new bytes of an AtomicOp on old bytes. -/
def hostAtomNew (kind : HostAtom) (n old : Nat) (x y : DWord) : Nat := match kind with
  | .fetchAdd => (old + x.toNat) % 2 ^ (8 * n)
  | .swap => y.toNat % 2 ^ (8 * n)
  | .cas => if old = x.toNat % 2 ^ (8 * n) then y.toNat % 2 ^ (8 * n) else old

/-- An AtomicOp at the home slice: one step. A CAS that fails writes nothing, but where its word holds accumulators these are freed, as any
atomic frees them, and the word keeps the value that it read (R137). -/
def State.outsideAtomic (s : State) (kind : HostAtom) (a n : Nat) (x y : DWord) : State :=
  let s := s.outsideMeets a n
  let bs := s.st.outsideGet a n
  let old := leNat bs
  let write := match kind with | .cas => old == x.toNat % 2 ^ (8 * n) | _ => true
  let frees := s.st.exact.any (fun k => decide (k.pa < a + n) && decide (a < k.pa + 4))
  let s := if bs.isEmpty then s
    else if write then s.outsideWrite a (leBytes n (hostAtomNew kind n old x y))
    else if frees then s.outsideWrite a bs
    else s
  s.answer bs

/-- `HOST_ATOMIC` (R196, R404): FetchAdd of `x`, Swap with `y`, CAS of `x` for `y`, at 4 or 8 aligned bytes of memory. -/
def execHostAtomic (src : Outside) (kind : HostAtom) (addr : Nat) (wide : Bool) (x y : DWord) (s : State) : Out :=
  let n := if wide then 8 else 4
  if addr % n ≠ 0 then .fault .notEnabled
  else match src with
    | .bar2 =>
      if bar2Bytes < addr + n ∨ s.dev.sliceWaits addr n then .fault .notEnabled else .next (s.outsideAtomic kind addr n x y)
    | .bar0 => if 0x100000 < addr + n then .fault .notEnabled else .next (s.answer (allOnes n))
    | .peer p =>
      if !s.dev.inbounds p addr n then .next (s.countRefused.answer [])
      else if s.dev.sliceWaits addr n then .fault .notEnabled
      else .next (s.outsideAtomic kind addr n x y)

end Sys2Proof.Machine
end

