-- ==== Sys2Proof/Machine/Firmware.lean ====
section
/-!
DEFINITION. Trusted firmware (R285, R288, R290, R315, R317, R326-R332, R347, R352, R408, R412-R417): power-on, the mailbox
commands, context descriptors, switching in, resuming with an action for each fault, live update and attestation.
-/
namespace Sys2Proof.Machine
open Sys2Proof

/-! The mailbox (R408, R417). -/

/-- The i-th operand of the command being run. -/
def Dev.operand (d : Dev) (i : Nat) : Nat := field d.mbox.taken (8 + 8 * i) 8
def Dev.cmdPart (d : Dev) : Nat := (d.mbox.taken.getD 1 0).toNat

/-- The response written: byte 0, and vector 1. -/
def Dev.respond (d : Dev) (code : Nat) : Dev :=
  ({ d with mbox := { d.mbox with response := d.mbox.response.set 0 (BitVec.ofNat 8 code), busy := false } }).interrupt 1

/-- A command of a code waits to be run in a mailbox slot. -/
def Dev.commanded (d : Dev) (code : Nat) : Bool :=
  d.fw.powered && d.mbox.busy && d.mbox.taken.getD 0 0 == BitVec.ofNat 8 code && d.inSlots 10 11 && d.fw.update.isNone

/-- Commands that a module in recovery (R412), or after a thermal stop (R417), does not accept. -/
def Dev.barred (d : Dev) (code : Nat) : Bool :=
  (d.fw.recovery && !([0x0B, 0x0C].contains code)) || (d.health.hot && !([0x0A, 0x0C, 0x0D].contains code))

/-- A mailbox command: `run` answers `none` where the command is refused. `parted`: byte 1 must name a partition. -/
def command (code : Nat) (parted : Bool) (run : State → Nat → Option State) (s : State) : Out :=
  if !s.dev.commanded code then .fault .notEnabled
  else if s.dev.barred code ∨ (parted && decide (s.dev.nparts ≤ s.dev.cmdPart)) = true then .next (s.onDev (fun d => d.respond 1))
  else match run s s.dev.cmdPart with
    | some s => .next (s.onDev (fun d => d.respond 0))
    | none => .next (s.onDev (fun d => d.respond 1))

/-- Memory of this module or of the host; every other address is reserved to firmware, as to the host (R291, R405). -/
def fwReaches (a : Nat) : Bool := inTiers a || isHost a

/-- Bytes firmware reads at a physical address, at system scope; reserved ones read as ones. -/
def State.fwRead (s : State) (pa n : Nat) : List Byte :=
  (List.range n).map (fun i => if fwReaches (pa + i) then s.st.homeGet none (pa + i) else 0xFF)

/-- Bytes firmware writes at a physical address; those at reserved addresses are dropped. -/
def State.fwWrite (s : State) (pa : Nat) (bs : List Byte) : State :=
  s.onSt (fun st => (offsets pa bs).foldl (fun st p => if fwReaches p.1 then st.homeSet none p.1 [p.2] else st) st)

/-! Context descriptors (R288, R290, R332). -/

def powerOfTwo (n : Nat) : Bool := n != 0 && 2 ^ Nat.log2 n == n

/-- The fields of a descriptor. -/
def Desc.ofBytes (bs : List Byte) : Desc :=
  { root := field bs 0 8, ctxid := field bs 8 8, ringBase := field bs 24 8, save := field bs 32 8, saveLen := field bs 40 8,
    spill := field bs 48 8, spillLen := field bs 56 8, heap := dwordAt bs 64, heapN := field bs 72 4, ringLen := field bs 76 4,
    parkPct := field bs 82 1, poolW := field bs 83 1, shadowW := field bs 84 1, timing := field bs 85 1, gatherWait := field bs 86 2,
    deadlineA := field bs 88 4, deadlineB := field bs 92 4, deferTimeout := field bs 96 4, jointWait := field bs 100 4,
    swapWait := field bs 104 4, watchdog := field bs 108 4, stackPool := field bs 112 8, stackLen := field bs 120 8,
    wresPa := field bs 128 8, bytes := bs }

/-- A range in the partition's share, in one tier. -/
def shareRange (q p a n : Nat) : Bool := inShare q p a && inShare q p (a + (n - 1)) && (decide (a < tier2Base) == decide (a + (n - 1) < tier2Base))

/-- The largest state that a partition can hold, as R327 counts it, replay records apart as in R328. -/
def largestSave (cores : Nat) : Nat :=
  cores * (786432 + 122880 + 64 * 2048 + 64 * 8192 + 917504 + 262144 + 64 * 2048 + 49152) + 262144

/-- The limits of R288 on a way-reservation table. -/
def wresOk (ws : List (BitVec 128)) : Bool :=
  let rng := fun (w : BitVec 128) => (fld w.toNat 0 45, fld w.toNat 64 45)
  let on := ws.filter (fun w => fld w.toNat 112 4 != 0)
  ws.all (fun w => decide (fld w.toNat 120 8 = 0) && decide (fld w.toNat 109 3 = 0) && decide (fld w.toNat 45 19 = 0) &&
    decide (fld w.toNat 116 4 ≤ 6) && decide (fld w.toNat 112 4 ≤ 8) && decide ((rng w).1 ≤ (rng w).2)) &&
  on.zipIdx.all (fun a => on.zipIdx.all (fun b => a.2 == b.2 || decide ((rng a.1).2 < (rng b.1).1) || decide ((rng b.1).2 < (rng a.1).1))) &&
  decide ((ws.map (fun w => fld w.toNat 112 4)).foldl (· + ·) 0 ≤ 8)

/-- The fields of a descriptor within their ranges (R332). -/
def Desc.ok (x : Desc) (q p : Nat) : Bool :=
  let bs := x.bytes
  zeroAt bs 136 120 && zeroAt bs 80 2 && zeroAt bs 16 8 && decide (x.ctxid ≠ 0) && decide (x.timing < 8) &&
  decide (x.root % 65536 = 0) && shareRange q p x.root 65536 &&
  powerOfTwo x.ringLen && decide (512 ≤ x.ringLen ∧ x.ringLen ≤ 2 ^ 20) && decide (x.ringBase % 4096 = 0) && shareRange q p x.ringBase (64 * x.ringLen) &&
  decide (x.save % 65536 = 0) && shareRange q p x.save x.saveLen && decide (largestSave (144 / p) ≤ x.saveLen) &&
  decide (x.spill % 512 = 0) && decide (x.spillLen % 512 = 0) && shareRange q p x.spill x.spillLen && decide (x.spill + (x.spillLen - 1) < tier1Bytes) &&
  decide (x.heap.toNat % 64 = 0) && !(decide (x.heapN ≠ 0) && decide (windowBase < x.heap.toNat + 64 * x.heapN)) &&
  decide (1 ≤ x.parkPct ∧ x.parkPct ≤ 100) && decide (x.poolW ≤ 4) && decide (2 ≤ x.shadowW ∧ x.shadowW ≤ 8) && decide (16 ≤ x.gatherWait) &&
  decide (x.deadlineA ≤ 10 ^ 7) && decide (x.deadlineA + 100 ≤ x.deadlineB) && decide (100 ≤ x.deferTimeout ∧ x.deferTimeout ≤ 10 ^ 8) &&
  decide (2 ^ 10 ≤ x.jointWait ∧ x.jointWait ≤ 2 ^ 24) && decide (x.stackPool % 65536 = 0) && decide (x.stackLen % 65536 = 0) &&
  shareRange q p x.stackPool x.stackLen && decide (0x40000 * (144 / p) ≤ x.stackLen) &&
  (x.wresPa == 0 || (decide (x.wresPa % 16 = 0) && shareRange q p x.wresPa 128))

/-- The way-reservation images a descriptor names (R288). -/
def State.wresTable (s : State) (x : Desc) : List (BitVec 128) :=
  if x.wresPa = 0 then List.replicate 8 0
  else (List.range 8).map (fun i => BitVec.ofNat 128 (leNat (s.st.homeGetN none (x.wresPa + 16 * i) 16)))

/-- Way-reservation images within their limits, with one normal way left in every slice (R288, R290). -/
def Desc.waysOk (x : Desc) (ws : List (BitVec 128)) : Bool :=
  wresOk ws && decide (x.poolW + x.shadowW + (ws.map (fun w => fld w.toNat 112 4)).foldl (· + ·) 0 ≤ 15)

/-- The descriptor at a physical address with its way-reservation images, if firmware does not refuse it. -/
def State.readDesc (s : State) (q pa : Nat) : Option (Desc × List (BitVec 128)) :=
  let x := Desc.ofBytes (s.fwRead pa 256)
  let ws := s.wresTable x
  if x.ok q s.dev.nparts && x.waysOk ws then some (x, ws) else none

/-- Memory as a new context of a partition takes it over: the stack pool's bytes are gone, in the caches too, so that no stack frame
holds data of another context (R284), and every cell of the share is VALUE (R333) (DESIGN CHOICE, log entry 20). The slices of a
lockup partition count no accesses (R287). -/
def Store.giveShare (st : Store) (q p : Nat) (x : Desc) : Store :=
  let pool := fun (line : Nat) => decide (x.stackPool ≤ line * 128 ∧ line * 128 < x.stackPool + x.stackLen)
  { (st.freeExact x.stackPool x.stackLen).unretain q with
    mem := st.mem.clear x.stackPool x.stackLen, cells := st.cells.filter (fun c => !inShare q p (16 * c.1)),
    lines := st.lines.filter (fun l => !pool l.line), l2 := (st.unretain q).l2.filter (fun l => !pool l.line),
    still := (if bit x.timing 0 then [q] else []) ++ st.still.filter (· != q) }

/-- What firmware does for `CREATE`; `none` where it refuses. -/
def createRun (s : State) (q : Nat) : Option State :=
  if (s.dev.part q).desc.isSome then none
  else (s.readDesc q (s.dev.operand 0)).map (fun r =>
    (s.onSt (fun st => st.giveShare q s.dev.nparts r.1)).onDev (fun d => d.modPart q (fun p =>
      { Part.reset with desc := some r.1, run := .created, queues := p.queues, cyc := p.cyc,
                        wres := r.2.map (fun w => { val := w, count := 0 }) })))

/-- `CREATE` (R332): the context takes the partition, with records counted from 0; its queues are those set up for it. -/
def execCreate (s : State) : Out := command 0x01 true createRun s

/-! Switching in and resuming (R27, R288, R325, R331). -/

/-- A team killed alone (R331): no record; its launch counts it as retired, and its evaluators end unpublished (R343). -/
def State.killTeam (s : State) (tid fcode : Nat) : State :=
  match s.dev.team? tid with
  | none => s
  | some t =>
    let gs := s.dev.teamGroups tid
    let gids := gs.map (·.gid)
    let s := gs.foldl (fun s g => (g.lanes.filter (·.live)).foldl (fun s l => s.endLane g t fcode l) s) s
    let s := s.onDev (fun d => gids.foldl (fun d g => d.closeStream g) d)
    let s := gids.foldl (fun s g => s.retireGroup g) s
    let s := s.onDev (fun d =>
      let gone := (d.engs.filter (fun e => e.tid == tid && e.packet.isNone)).map (·.eid)
      let d := { d with engs := d.engs.filter (fun e => !gone.contains e.eid), ops := d.ops.filter (fun o => o.tid != tid) }
      let d := (d.coresOf t.part).foldl (fun d c => d.modCore c (fun k =>
        { k with locks := k.locks.filter (fun x => !gone.contains x.eid), mq := k.mq.filter (fun x => x.tid != tid) })) d.purgeQuads
      d.modPart t.part (fun p => { p with
        replays := p.replays.filter (fun r => r.op.tid != tid),
        waiters := p.waiters.filter (fun w => d.ops.any (fun o => o.opid == w.1)),
        parks := p.parks.filter (fun k => match k.2 with
          | .group g => !gids.contains g
          | .engine e => !gone.contains e
          | _ => true) }))
    (s.dropTeam t).fragmentOver t

/-- A delivered fault skipped (R331): its replay record is dropped; outstanding destinations read 0, RAW, and its flag counts
down. -/
def State.dropReplay (s : State) (q : Nat) (opid : Nat) : State :=
  match (s.dev.part q).replays.find? (fun r => r.op.opid == opid) with
  | none => s
  | some r =>
    let regs := List.replicate r.op.tags.length rawReg
    s.onDev (fun d =>
      let d := d.modGroup r.gid (fun g =>
        let g := if r.op.kind.completes || r.op.kind == .smp then r.op.accs.foldl (fun g x => g.put x.writers regs) g else g
        g.dropFlag r.op.flag)
      d.modPart q (fun p => { p with replays := p.replays.filter (fun k => k.op.opid != opid) }))

/-- The action of a fault: 0 reissue, 1 skip, 2 kill; a trap is resumed as skip (R245). -/
def actionOf (acts : List (Nat × Nat)) (r : FaultRec) : Nat :=
  if r.trap then 1
  else match acts.find? (fun a => r.written == some a.1) with | some a => a.2 | none => 0

/-- The fall-through address of a clause, from its header word (R51). -/
def fallFrom (pc : DWord) (w : Word) : DWord := pc + BitVec.ofNat 64 (4 * (1 + fld w.toNat 0 4 + fld w.toNat 4 3))

/-- One fault's action (R331). A fault delivered to an operation of a retired group acts on its replay record and its team. -/
def State.resumeFault (s : State) (q : Nat) (acts : List (Nat × Nat)) (r : FaultRec) : State :=
  let act := actionOf acts r
  match r.gid.bind s.dev.group? with
  | none =>
    if act = 1 then r.delivered.foldl (fun s i => s.dropReplay q i) s
    else if act = 2 then (match (s.dev.part q).replays.find? (fun k => r.delivered.contains k.op.opid) with
      | some k => s.killTeam k.op.tid r.code.code
      | none => s)
    else s
  | some g =>
    if act = 2 then s.killTeam g.tid r.code.code
    else if act = 0 ∨ r.code = .lockupBreach then s
    else if !r.delivered.isEmpty then r.delivered.foldl (fun s i => s.dropReplay q i) s
    else if r.header then (match r.hword with
      | some w => s.onDev (fun d => d.modGroup g.gid (fun g => g.skipClause r.pc (fallFrom r.pc w) r.mask))
      | none => s)
    else s.onDev (fun d => d.modGroup g.gid (fun g => g.skipWord r.pc r.mask))

/-- What an access of a kind asks of its page. -/
def OpKind.need : OpKind → Need
  | .store | .strl | .plate | .accSt => .write
  | .atomic _ _ => .both
  | _ => .read

/-- A captured access as it is reissued: its address is translated again (R315, R324), and what it now leads to; in the local window it
leads where it did. -/
def Acc.again (a : Agent) (st : Store) (k : OpKind) (x : Acc) : Acc × Resolved :=
  if windowBase ≤ x.va.toNat then (x, .ok x.place)
  else match a.resolve st x.va.toNat k.need with
    | .ok pl => ({ x with place := pl }, .ok pl)
    | r => (x, r)

/-- The fault that a reissued access delivers: of a page that is a HOLE, malformed or out of its permission (log entry 46). -/
def Resolved.late : Resolved → Option FCode
  | .ok _ | .absent => none
  | .perm => some .permission
  | .fatal => some .translation

/-- A captured operation as it is issued again: with the generation and the core that its group now has (its own, if the group has
retired), no deadline, and its accesses translated again. -/
def Replay.again (r : Replay) (s : State) (q : Nat) : Op × List (Acc × Resolved) :=
  let core := (s.dev.group? r.gid).elim r.op.core (·.core)
  let xs := r.op.accs.map (Acc.again { unitAgent s.dev q with core := core } s.st r.op.kind)
  ({ r.op with gen := (s.dev.group? r.gid).elim r.op.gen (·.gen), core := core, deadline := none, breached := false, missed := false, words := [],
               accs := xs.map (·.1) }, xs)

/-- A reissued operation enters its unit: a matrix operation its core's queue, to go on at its next chunk or k step (R256), an `smp` its
samplers. -/
def Dev.enterAgain (d : Dev) (q : Nat) (r : Replay) (o : Op) : Dev := match r.mx with
  | some x =>
    let x := { x with gen := o.gen, deadline := none, breached := false, cost := 0, issued := (d.part q).cyc }
    let d := d.modCore o.core (fun c => { c with mq := c.mq ++ [x] })
    if x.kind = .ld ∨ x.kind = .st then { d with ops := d.ops ++ [o] } else d
  | none =>
    let d := { d with ops := d.ops ++ [o] }
    if o.kind = .smp then
      (d.queueQuads q o.core o.opid (Header.ofBytes o.hdrVa o.hdr) ((List.range 16).filter (fun k => o.accs.any (fun x => x.lid / 4 == k)))).1
    else d

/-- A replay record reissued (R324). One that meets an absent page parks its group and waits for the ticket, and later ones of the group
wait behind it (R316, R317). Stores and `dplate`s are performed at once, release stores when no earlier access of their lanes is
outstanding (R187), one that was held for a tile when the tile has been read; reads and atomics meet their cells in the order of capture
(R345). -/
def State.reissue (s : State) (q : Nat) (r : Replay) : State :=
  let (o, xs) := r.again s q
  let bads := xs.filterMap (fun x => x.2.late.map (fun c => (x.1.lid, c)))
  let away := xs.filter (fun x => x.2 == .absent)
  if (s.dev.part q).replays.any (fun x => x.gid == r.gid) then
    s.onDev (fun d => d.modPart q (fun p => { p with replays := p.replays ++ [r] }))
  else if bads.isEmpty && !away.isEmpty && (s.dev.group? r.gid).isSome then
    s.onDev (fun d => d.parkOp o r (away.map (·.1.lid)) (match away with | x :: _ => x.1.va | [] => 0))
  else
    let bads := bads ++ away.map (fun x => (x.1.lid, FCode.translation))
    let s := s.onDev (fun d => d.enterAgain q r o)
    if !bads.isEmpty then s.deliver o bads (match xs.find? (fun x => x.2.late.isSome || x.2 == .absent) with | some x => x.1.va | none => 0)
    else
      let a := { unitAgent s.dev q with core := o.core }
      let s := s.onSt (fun st => xs.foldl (fun st x => a.touch st x.1.va.toNat (o.kind.need != .read)) st)
      if r.ckind ≠ 5 ∧ (o.kind = .store ∨ o.kind = .plate) then
        let s := o.accs.foldl (fun s x => s.drainAt x.place o.size) s
        let s := State.afterAttempt o.opid (s.attempt o.opid false)
        s.onDev (fun d => d.dropOp o.opid)
      else if o.kind = .strl ∧ s.dev.writeReady o = true then s.finishWrite o
      else if o.kind.completes then State.afterAttempt o.opid (s.attempt o.opid (!o.kind.isDet))
      else s

def insertReplay (r : Replay) : List Replay → List Replay
  | [] => [r]
  | x :: xs => if r.seq < x.seq then r :: x :: xs else x :: insertReplay r xs

/-- The way-reservation registers written as a context is switched in, with what firmware read at `CREATE` (R288, R289). -/
def State.writeWres (s : State) (q : Nat) : State :=
  (s.onSt (fun st => st.unretain q)).onDev (fun d => d.modPart q (fun p => { p with wres := p.wres.map (fun w => { w with count := 0 }) }))

/-- The context switched in (R27, R288, R325, R331): generations advance, the action of each fault is taken, and replay records are
reissued in the order of capture, before any instruction of their groups. A context that is switched in within a frame runs to that
frame's end, also where its reference would stand still in it (R3, R401: DESIGN CHOICE, log entry 49). -/
def State.switchIn (s : State) (q : Nat) (acts : List (Nat × Nat)) : State :=
  let s := s.writeWres q
  let faults := (s.dev.part q).faults
  let s := s.onDev (fun d => { d with groups := d.groups.map (fun g => if g.part = q then { g with gen := (g.gen + 1) % 4096 } else g) })
  let s := faults.foldl (fun s r => s.resumeFault q acts r) s
  let todo := ((s.dev.part q).replays).foldl (fun l r => insertReplay r l) []
  let s := s.onDev (fun d => d.modPart q (fun p => { p with
    run := .running, halt := false, haltAt := none, faults := [], replays := [], preemptAt := none, paused := false, progress := 0 }))
  (todo.foldl (fun s r => s.reissue q r) s).onDev Dev.pumpEngs

/-- A context that does not run (R320, R326): created, or switched out. -/
def RunState.resting : RunState → Bool | .created | .out => true | _ => false

/-- What firmware does for `START`; `none` where it refuses. -/
def startRun (s : State) (q : Nat) : Option State :=
  let p := s.dev.part q
  if p.desc.isNone ∨ !p.run.resting then none else some (s.switchIn q [])

/-- `START` (R408): the context is switched in; a halted one is resumed with reissue for every fault. -/
def execStart (s : State) : Out := command 0x02 true startRun s

/-- The list of a RESUME: SEQ and action, 16 bytes each. -/
def State.actions (s : State) (pa n : Nat) : Option (List (Nat × Nat)) :=
  let bs := s.fwRead pa (16 * n)
  let l := (List.range n).map (fun i => (field bs (16 * i) 8, field bs (16 * i + 8) 8))
  if l.all (fun a => decide (a.2 ≤ 2)) then some l else none

/-- What firmware does for `RESUME`; `none` where it refuses. -/
def resumeRun (s : State) (q : Nat) : Option State :=
  let p := s.dev.part q
  if p.desc.isNone ∨ p.run ≠ .out then none
  else (s.actions (s.dev.operand 0) (s.dev.operand 1)).bind (fun acts =>
    if p.faults.any (fun r => r.header && r.hword.isNone && actionOf acts r == 1) then none else some (s.switchIn q acts))

/-- `RESUME` (R331): refused while the context runs, and where it skips a header that could not be fetched. -/
def execResume (s : State) : Out := command 0x04 true resumeRun s

/-- What firmware does for `PREEMPT`; `none` where it refuses. -/
def preemptRun (s : State) (q : Nat) : Option State :=
  let p := s.dev.part q
  if !(p.run == .running || p.run == .draining) then none
  else some ((s.onDev (fun d => d.modPart q (fun p =>
    { p with run := .draining, preemptAt := some (p.preemptAt.getD d.time) }))).endDrain q)

/-- `PREEMPT` (R326): DRAIN begins; with every team retired it ends at once. -/
def execPreempt (s : State) : Out := command 0x03 true preemptRun s

/-- What firmware does for `KILL`; `none` where it refuses. -/
def killRun (s : State) (q : Nat) : Option State :=
  if (s.dev.part q).desc.isNone then none else some (s.killContext q 0 0)

/-- `KILL` (R329). -/
def execKill (s : State) : Out := command 0x05 true killRun s

/-! Shoot-down, parks, queues, partitions (R315, R317, R347, R352). -/

/-- An address in a range of bytes. -/
def inRange (base n va : Nat) : Bool := decide (base ≤ va ∧ va < base + n)

/-- A TLB entry of the partition whose page meets the range. -/
def Tlb.meets (q base n : Nat) (t : Tlb) : Bool := t.part == q && overlaps (t.vpage * 2 ^ t.shift, 2 ^ t.shift) (base, n)

/-- TLB entries of the partition whose page meets the range are removed (R315). -/
def Store.shoot (st : Store) (q base n : Nat) : Store := { st with tlb := st.tlb.filter (fun t => !t.meets q base n) }

/-- An address that an entry to be removed may have translated: in the range, or anywhere on a page that meets it. -/
def Store.shotAt (st : Store) (q base n va : Nat) : Bool :=
  inRange base n va || st.tlb.any (fun t => t.meets q base n && va / 2 ^ t.shift == t.vpage)

/-- Accesses of the partition that may use such an entry and are not performed. -/
def State.usesRange (s : State) (q base n : Nat) : Bool :=
  s.dev.ops.any (fun o => o.part == q && o.kind != .waitv && o.accs.any (fun x => x.got.isNone && s.st.shotAt q base n x.va.toNat))

/-- The state after a shoot-down of a range: its entries are gone, the cores' writes performed, a `waitv` on it issued again. -/
def State.shootRange (s : State) (q base n : Nat) : State :=
  let mine := s.dev.ops.filter (fun o => o.part == q && o.kind == .waitv && o.accs.any (fun x => s.st.shotAt q base n x.va.toNat))
  let s := s.onSt (fun st => (s.dev.coresOf q).foldl (fun st c => st.release c) (st.shoot q base n))
  mine.foldl (fun s o => (s.leaveQueues q o.opid).onDev (fun d => (d.dropOp o.opid).modGroup o.gid Group.rewait)) s

/-- `SHOOTDOWN` (R315): complete once every access that used a removed entry is performed at partition scope; a `waitv` on the
range is issued again. While the context does not run it completes at once. -/
def execShootdown (s : State) : Out :=
  let q := s.dev.cmdPart
  let base := s.dev.operand 0
  let n := s.dev.operand 1
  if s.dev.unhalted q && s.usesRange q base n then .fault .notEnabled
  else command 0x06 true (fun s q => some (s.shootRange q base n)) s

/-- The replay records that stand aside behind a group's ticket are reissued in the order of capture, if its context runs. -/
def State.reissueOf (s : State) (q gid : Nat) : State :=
  if !s.dev.unhalted q then s
  else
    let mine := ((s.dev.part q).replays.filter (fun r => r.gid == gid)).foldl (fun l r => insertReplay r l) []
    let s := s.onDev (fun d => d.modPart q (fun p => { p with replays := p.replays.filter (fun r => r.gid != gid) }))
    mine.foldl (fun s r => s.reissue q r) s

/-- The spill area that firmware gives a partition instead of a smaller one, with its entries in their buckets (R292); one that has no
room for them is not taken. -/
def State.spillArea (s : State) (q base len : Nat) : State := match (s.dev.part q).desc with
  | none => s
  | some x =>
    let ok := decide (base % 512 = 0 ∧ len % 512 = 0 ∧ x.spillLen ≤ len) && shareRange q s.dev.nparts base len && decide (base + (len - 1) < tier1Bytes)
    let out := s.st.exact.filter (fun y => y.spill.isSome && inShare q s.dev.nparts y.pa)
    let d := s.dev.modPart q (fun p => { p with desc := some { x with spill := base, spillLen := len } })
    let st0 : Store := { s.st with exact := s.st.exact.map (fun y => if inShare q s.dev.nparts y.pa then { y with spill := none } else y) }
    let r := out.foldl (fun (acc : Store × Bool) y => match d.bucketFree acc.1 q (d.bucketOf q y.pa) with
      | [] => (acc.1, false)
      | a :: _ => (({ acc.1 with exact := acc.1.exact.map (fun k => if k.pa = y.pa ∧ k.elem = y.elem then { k with spill := some a } else k) }
          : Store).homeSet none a y.bytes, acc.2)) (st0, true)
    if ok && r.2 then { s with st := r.1, dev := d } else s

/-- What firmware does for `PARKRES`; `none` where it refuses. -/
def parkresRun (s : State) (q : Nat) : Option State :=
  let seq := s.dev.operand 0
  match (s.dev.part q).parks.find? (fun k => k.1 == seq) with
  | none => none
  | some k =>
    let s := s.onDev (fun d =>
      let d := d.modPart q (fun p => { p with parks := p.parks.filter (fun x => x.1 != seq) })
      match k.2 with
      | .group gid => d.modGroup gid (fun g => { g with parked := none })
      | .engine eid => d.modEng eid (fun e => { e with parkSeq := none })
      | .queue n => d.modQueue q n (fun x => { x with parkSeq := none })
      | .frame _ _ | .fill _ _ => d)
    some (match k.2 with | .group gid => s.reissueOf q gid | _ => s)

/-- `PARKRES` (R317, R318, R352): what is parked on the ticket goes on. -/
def execParkres (s : State) : Out := command 0x07 true parkresRun s

/-- A command-queue descriptor that R347 allows; its offsets are taken modulo SIZE. -/
def queueDescOk (bs : List Byte) : Bool :=
  let base := field bs 0 8
  let size := field bs 8 4
  zeroAt bs 28 36 && powerOfTwo size && decide (4096 ≤ size ∧ size ≤ 2 ^ 30) && decide (base % 4096 = 0) &&
  (decide (base + size ≤ tier1Bytes) || (isHost base && isHost (base + size - 1))) &&
  decide (field bs 12 4 % 4 = 0) && decide (field bs 16 4 % 4 = 0) && decide (1 ≤ field bs 20 2 ∧ field bs 20 2 ≤ 4096) &&
  decide (field bs 22 1 ≤ 3) && (field bs 22 1 == 3 || zeroAt bs 23 1)

/-- What firmware does for `QUEUE`; `none` where it refuses. -/
def queueRun (s : State) (q : Nat) : Option State :=
  let n := s.dev.operand 0
  let pa := s.dev.operand 1
  if 64 ≤ n then none
  else
    let bs := s.fwRead pa 64
    if !queueDescOk bs then none
    else
      let k := s.dev.queue q n
      let size := field bs 8 4
      let new : Queue := { Queue.reset with desc := pa, base := field bs 0 8, size := size, head := field bs 12 4 % size, tail := field bs 16 4 % size,
                                            tickets := field bs 20 2, state := field bs 22 1, errCode := field bs 23 1, errOff := field bs 24 4,
                                            serial := k.serial }
      some ((s.onDev (fun d => d.modQueue q n (fun _ => new))).postQueue q n)

/-- `QUEUE` (R347): a command queue set up from its descriptor, with PASS 0. -/
def execQueue (s : State) : Out := command 0x08 true queueRun s

/-- What firmware does for `QRESET`; `none` where it refuses. -/
def qresetRun (s : State) (q : Nat) : Option State :=
  let n := s.dev.operand 0
  if (s.dev.queue q n).state ≠ 3 then some s
  else some ((s.onDev (fun d => d.modQueue q n (fun k =>
    { k with state := 0, errCode := 0, head := k.tail, cur := none, indirect := none, units := [], waiting := false }))).postQueue q n)

/-- `QRESET` (R352): an errored queue to idle with HEAD equal to TAIL. -/
def execQreset (s : State) : Out := command 0x09 true qresetRun s

/-- The memory system of a die divided anew: what the caches hold has gone to memory, as lines change their homes and cores their
partition (R287; log entry 46). -/
def Store.divide (st : Store) (p : Nat) : Store :=
  let st := (List.range 144).foldl (fun st c => st.acquire c) st
  let st := st.l2.foldl (fun st l => let ds := l.body.dirtyBytes; if ds.isEmpty then st else st.memPuts l.line ds) st
  { st with lines := [], l2 := [], tlb := [], nparts := p, still := [] }

/-- What firmware does for `PARTITION`; `none` where it refuses. -/
def partitionRun (s : State) (_ : Nat) : Option State :=
  let p := s.dev.operand 0
  if !(p == 1 || p == 2 || p == 4) ∨ s.dev.parts.any (fun x => x.desc.isSome) then none
  else some ((s.onDev (fun d => { d with nparts := p, parts := List.replicate 4 Part.reset })).onSt (fun st => st.divide p))

/-- `PARTITION` (R1, R408): the die divided anew; refused while any context exists. -/
def execPartition (s : State) : Out := command 0x0A false partitionRun s

/-- What firmware does for `CLEAR`; `none` where it refuses. -/
def clearRun (s : State) (_ : Nat) : Option State :=
  some ((s.onDev (fun d =>
  { d with health := { d.health with inRefuse := 0, cellDrop := 0, shown := d.health.shown.take 52 ++ List.replicate 16 0 } })).onSt (fun st =>
    { st with corrected := 0, drops := 0 }))

/-- `CLEAR` (R405, R416): the counters of the health block read zero. -/
def execClear (s : State) : Out := command 0x0D false clearRun s

/-! Images and attestation (R412-R415). -/

/-- An image's signature verifies with a root key whose digest is the one in fuses (R412, R414). -/
def Firmware.verifies (f : Firmware) (img : List Byte) : Bool :=
  let (key, msg, sig) := Config.imageParts img
  let k := Config.publicKey key
  Machine.digest key == f.rootDigest && pssVerify k.1 k.2 msg sig

/-- An image that a trusted core accepts: its signature verifies and its version is not below the fused minimum. -/
def Dev.accepts (d : Dev) (img : List Byte) : Bool := d.fw.verifies img && decide (d.fw.minVersion ≤ Config.imageVersion img)

/-- The identity key pair, created at the first boot (R414). -/
def Firmware.firstKey (f : Firmware) (ctr : Nat) : Firmware := { f with key := some (f.key.getD (Config.newKey ctr)) }

/-- `POWER_ON` (R412, R414): the image in flash is verified, and boots both complexes; or the module stays in recovery. -/
def execPowerOn (s : State) : Out :=
  if s.dev.fw.powered then .fault .notEnabled
  else .next (s.onDev (fun d =>
    let img := d.fw.flash
    let f := d.fw.firstKey d.freeCtr
    { d with freeCtr := d.freeCtr + 1, fw :=
      if d.accepts img then { f with powered := true, recovery := false, active := 0, version := Config.imageVersion img % 2 ^ 64, digest := digest img }
      else { f with powered := true, recovery := true } }))

/-- `UPDATE` (R413, steps 1 to 3): an image that verifies boots on the standby complex, which must know the format of the state
table; the response waits for the takeover. -/
def execUpdate (s : State) : Out :=
  if !s.dev.commanded 0x0B then .fault .notEnabled
  else
    let img := s.st.homeGetN none (hostBase + s.dev.operand 0 % 2 ^ 50) (s.dev.operand 1)
    if s.dev.barred 0x0B || !s.dev.accepts img || !Config.knowsFormat img then .next (s.onDev (fun d => d.respond 1))
    else .next (s.onDev (fun d => { d with fw := { d.fw with update := some img } }))

/-- `UPDATE_TAKEOVER` (R413, steps 4 to 6): the standby takes over, the image goes to flash, and the former active complex reboots as
standby. No packet is partly read, no command runs and no save is in progress between the model's steps. -/
def execUpdateTakeover (s : State) : Out :=
  match s.dev.fw.update with
  | none => .fault .notEnabled
  | some img => .next (s.onDev (fun d =>
      ({ d with fw := { d.fw with active := 1 - d.fw.active, version := Config.imageVersion img % 2 ^ 64, digest := digest img,
                                  flash := img, update := none, recovery := false } }).respond 0))

/-- Bytes 0 to 319 of an attestation report. -/
def State.report (s : State) (nonce : List Byte) : List Byte :=
  let descs := (List.range s.dev.nparts).map (fun q => (s.dev.part q).desc)
  let ctx := if descs.all (·.isNone) then List.replicate 64 0
    else digest (descs.flatMap (fun x => match x with | some y => y.bytes | none => []))
  leBytes 8 s.dev.fw.attests ++ s.dev.health.shown.take 8 ++ leBytes 16 0 ++ leBytes 8 s.dev.fw.minVersion ++ leBytes 8 s.dev.fw.version ++
  leBytes 16 0 ++ s.dev.fw.serialNo ++ ctx ++ s.dev.fw.digest ++ nonce

/-- The signature of the n-th report with the identity key (R414). -/
def Firmware.sign (f : Firmware) (msg : List Byte) : List Byte :=
  let k := f.key.getD (0, 0, 0)
  pssSign k.1 k.2.2 msg ((Config.salt f.attests ++ List.replicate 64 0).take 64)

/-- The certificate chain that holds the identity key's public part (R414). -/
def Firmware.chain (f : Firmware) : List Byte := let k := f.key.getD (0, 0, 0); Config.certificates (k.1, k.2.1)

/-- What firmware does for `ATTEST`, which is never refused: the report goes to memory, and the chain to the host, at a place that the
spec does not name (log entry 39). -/
def attestRun (s : State) (_ : Nat) : Option State :=
  let r := s.report (s.fwRead (s.dev.operand 0) 64)
  some (((s.fwWrite (s.dev.operand 1) (r ++ s.dev.fw.sign r)).answer s.dev.fw.chain).onDev (fun d =>
    { d with fw := { d.fw with attests := d.fw.attests + 1 } }))

/-- `ATTEST` (R414, R415): the report is written with its signature over bytes 0 to 319, and the chain returned. -/
def execAttest (s : State) : Out := command 0x0C false attestRun s

end Sys2Proof.Machine
end

