-- ==== Sys2Proof/Machine/Lanes.lean ====
section
/-!
DEFINITION. Shuffles and the lane family (R210-R214). Every lane reads before any lane writes.
-/
namespace Sys2Proof.Machine
open Sys2Proof

/-- What a read's check keeps in a lane that does not participate: the naming of registers (R66, R67) and PENDING tags (R22). -/
def Chk.named (c : Chk) : Chk := { bad := c.bad.filter (fun f => f == .illegalOperand || f == .regBounds), wait := c.wait, srcs := [], touch := [] }

/-- The checks of a lane instruction: only participating lanes read their sources (R203, R210; DEDUCED, log entry 19), every active lane's
registers are checked. A shape of no register stands for a type that the instruction refuses. -/
def laneChks {α : Type} (e : Env) (d : Opnd) (sh : Nat × Bool) (rd : Env → Lane → Rd α) : List (Nat × Chk) :=
  e.lanes.map (fun l => (l.lid, if e.m.passes l then (rd e l).chk else (rd e l).chk.named)) ++
    e.lanes.map (fun l => (l.lid, ((dest e l false d sh.1 sh.2).check (sh.1 != 0) .format).chk))

/-- What the participating lanes read, in ascending LID. -/
def laneReads {α : Type} (e : Env) (rd : Env → Lane → Rd α) : List (Lane × α) := e.passing.map (fun l => (l, (rd e l).val))

/-- The state after a lane instruction: each participating lane writes what `res` makes of all their reads (R210). -/
def laneNext {α : Type} (e : Env) (d : Opnd) (sh : Nat × Bool) (rd : Env → Lane → Rd α)
    (res : Env → List (Lane × α) → Lane × α → Res) : State :=
  e.done (e.settleReads (laneChks e d sh rd) e.s) (fun l =>
    if e.m.passes l then
      let k := e.source false l
      let r := res e (laneReads e rd) (k, (rd e k).val)
      { (l.write (dest e k false d sh.1 sh.2).val r.regs) with rctr := l.rctr + BitVec.ofNat 32 r.words }
    else l)

/-- A lane instruction (R203, R210). -/
def laneIssue {α : Type} (s : State) (d : Opnd) (shape : Env → Nat × Bool) (rd : Env → Lane → Rd α)
    (res : Env → List (Lane × α) → Lane × α → Res) : Out :=
  withGang s (fun e => e.gate (laneChks e d (shape e) rd) (fun _ => .next (laneNext e d (shape e) rd res)))

/-! Shuffles (R210). -/

/-- The reads of a shuffle: A, tag-free, and B's bits. -/
def shufRead (a b : Opnd) (e : Env) (l : Lane) : Rd (Reg × Word) := (readMoveChk e l a).and (readMove e l b) (fun x y => (x, y.bits))
/-- The lane whose A a shuffle gives: itself where the source lane does not participate. -/
def shufRes (src : Nat → Nat → Nat) (e : Env) (xs : List (Lane × (Reg × Word))) (x : Lane × (Reg × Word)) : Res :=
  let y := match xs.find? (fun k => k.1.lid == src x.1.lid (x.2.2.toNat % e.g.width)) with | some k => k | none => x
  { regs := [y.2.1], words := 0 }
def shflSrc (_ b : Nat) : Nat := b
def shfxSrc (lid b : Nat) : Nat := lid ^^^ b

/-- `shfl` (R210). -/
def execShfl (d a b : Opnd) (s : State) : Out := laneIssue s d one (shufRead a b) (shufRes shflSrc)
/-- `shfx` (R210). -/
def execShfx (d a b : Opnd) (s : State) : Out := laneIssue s d one (shufRead a b) (shufRes shfxSrc)

/-! Votes (R211, R212). -/

/-- The checks of a vote into a predicate: its two predicate fields. -/
def voteChks (e : Env) (p q : BitVec 6) : List (Nat × Chk) :=
  let chk : Chk := if predOk p.toNat && predOk q.toNat then Chk.ok else { Chk.ok with bad := [.illegalOperand] }
  e.lanes.map (fun l => (l.lid, chk))

/-- The state after a vote into a predicate of every participating lane (R211). -/
def voteNext (e : Env) (p : BitVec 6) (n : Bool) (q : BitVec 6) (f : List Bool → Bool) : State :=
  e.done e.s (fun l => if e.m.passes l then l.setP p.toNat (f (e.passing.map (fun k => k.pred q.toNat n))) else l)

def voteIssue (p : BitVec 6) (n : Bool) (q : BitVec 6) (f : List Bool → Bool) (s : State) : Out :=
  withGang s (fun e => e.gate (voteChks e p q) (fun _ => .next (voteNext e p n q f)))

def anyOf (bs : List Bool) : Bool := bs.any id
def allOf (bs : List Bool) : Bool := bs.all id
/-- `lane.any` (R211). -/
def execLaneAny (p : BitVec 6) (n : Bool) (q : BitVec 6) (s : State) : Out := voteIssue p n q anyOf s
/-- `lane.all` (R211). -/
def execLaneAll (p : BitVec 6) (n : Bool) (q : BitVec 6) (s : State) : Out := voteIssue p n q allOf s

/-- The reads of a vote into a register, and its result from the LIDs of the participating lanes whose predicate is 1. -/
def countRead (n : Bool) (q : BitVec 6) (_ : Env) (l : Lane) : Rd Bool :=
  (Rd.pure (l.pred q.toNat n)).check (predOk q.toNat) .illegalOperand
def countRes (f : Env → List Nat → Res) (e : Env) (xs : List (Lane × Bool)) (_ : Lane × Bool) : Res :=
  f e ((xs.filter (·.2)).map (·.1.lid))

def ballotShape (e : Env) : Nat × Bool := if e.g.width = 64 then (2, true) else (1, false)
def ballotOf (e : Env) (lids : List Nat) : Res :=
  { regs := regsOf (if e.g.width = 64 then n64Tags else [.n32]) (maskOf lids), words := 0 }
def countOf (_ : Env) (lids : List Nat) : Res := Res.word (BitVec.ofNat 32 lids.length) .n32
def firstOf (_ : Env) (lids : List Nat) : Res := Res.word (BitVec.ofNat 32 (lids.headD 0xFFFFFFFF)) .n32

/-- `lane.ballot` (R212). -/
def execLaneBallot (d : Opnd) (n : Bool) (q : BitVec 6) (s : State) : Out :=
  laneIssue s d ballotShape (countRead n q) (countRes ballotOf)
/-- `lane.count` (R212). -/
def execLaneCount (d : Opnd) (n : Bool) (q : BitVec 6) (s : State) : Out := laneIssue s d one (countRead n q) (countRes countOf)
/-- `lane.first` (R212): all ones if there is none. -/
def execLaneFirst (d : Opnd) (n : Bool) (q : BitVec 6) (s : State) : Out := laneIssue s d one (countRead n q) (countRes firstOf)

/-! Broadcast and the random word (R213). -/

def bcastRead (a : Opnd) (e : Env) (l : Lane) : Rd Reg := readMoveChk e l a
def bcastRes (_ : Env) (xs : List (Lane × Reg)) (x : Lane × Reg) : Res :=
  { regs := [match xs with | y :: _ => y.2 | [] => x.2], words := 0 }
/-- `lane.bcast` (R213). -/
def execLaneBcast (d a : Opnd) (s : State) : Out := laneIssue s d one (bcastRead a) bcastRes

def rndRead (_ : Env) (_ : Lane) : Rd Unit := Rd.pure ()
def rndRes (e : Env) (_ : List (Lane × Unit)) (x : Lane × Unit) : Res :=
  { regs := [{ bits := BitVec.ofNat 32 (e.stream x.1 0), tag := .n32 }], words := 1 }
/-- `lane.rnd` (R213). -/
def execLaneRnd (d : Opnd) (s : State) : Out := laneIssue s d one rndRead rndRes

/-! Reductions (R214): a chain over the participating lanes in ascending LID. -/

/-- The values of a chain as they stand after each lane's step. -/
def chainSteps {β : Type} (f : β → β → β) : β → List β → List β
  | r, [] => [r]
  | r, x :: xs => r :: chainSteps f (f r x) xs

/-- The chain of a list of lane values: what stood after each lane, paired with its LID. -/
def chainOver {β : Type} (f : β → β → β) (xs : List (Lane × β)) : List (Nat × β) :=
  match xs with
  | [] => []
  | x :: rest => List.zipWith (fun y r => (y.1.lid, r)) (x :: rest) (chainSteps f x.2 (rest.map (·.2)))

/-- The types of a reduction: the scalar ones, without stochastic rounding. -/
def reduceShape (e : Env) : Nat × Bool := if isScalar e.m.etype && !e.rsto then byType e else (0, false)

/-- The value with which a chain begins: the first lane's, read and written as a result of its type, so that FTZ takes a subnormal and a NaN
is the default one (R126, R127). -/
def opSelf : ElemOp := { int := fun sg sat w a _ _ => narrowInt sg sat w a, flt := fun _ a _ _ => a }

/-- The read of a typed reduction, and its result: the final value, or for a scan the value after the lane's own step. -/
def reduceRead (a : Opnd) (e : Env) (l : Lane) : Rd Nat := readElem e l a
def reduceRes (op : ElemOp) (scan : Bool) (e : Env) (xs : List (Lane × Nat)) (x : Lane × Nat) : Res :=
  let c := chainOver (fun r y => e.apply x.1 op r y 0) (xs.map (fun y => (y.1, e.apply x.1 opSelf y.2 0 0)))
  let v := if scan then (match c.find? (fun y => y.1 == x.1.lid) with | some y => y.2 | none => x.2)
    else (match c.getLast? with | some y => y.2 | none => x.2)
  { regs := regsOf (e.m.etype.tags e.m.fmtsel) v, words := 0 }

def reduceIssue (d a : Opnd) (op : ElemOp) (scan : Bool) (s : State) : Out :=
  laneIssue s d reduceShape (reduceRead a) (reduceRes op scan)

/-- `lane.radd` (R214). -/
def execLaneRadd (d a : Opnd) (s : State) : Out := reduceIssue d a opAdd false s
/-- `lane.rmin` (R214). -/
def execLaneRmin (d a : Opnd) (s : State) : Out := reduceIssue d a opMin false s
/-- `lane.rmax` (R214). -/
def execLaneRmax (d a : Opnd) (s : State) : Out := reduceIssue d a opMax false s
/-- `lane.scan` (R214). -/
def execLaneScan (d a : Opnd) (s : State) : Out := reduceIssue d a opAdd true s

/-- A reduction of 32 bits, tagged as the leader's A. -/
def bitRead (a : Opnd) (e : Env) (l : Lane) : Rd Reg := readMoveChk e l a
def bitRes (f : Word → Word → Word) (_ : Env) (xs : List (Lane × Reg)) (x : Lane × Reg) : Res :=
  match xs with
  | y :: rest => Res.word (rest.foldl (fun r z => f r z.2.bits) y.2.bits) y.2.tag
  | [] => Res.word x.2.bits x.2.tag

def bitReduce (d a : Opnd) (f : Word → Word → Word) (s : State) : Out := laneIssue s d one (bitRead a) (bitRes f)

/-- `lane.rband` (R214). -/
def execLaneRband (d a : Opnd) (s : State) : Out := bitReduce d a (· &&& ·) s
/-- `lane.rbor` (R214). -/
def execLaneRbor (d a : Opnd) (s : State) : Out := bitReduce d a (· ||| ·) s
/-- `lane.rbxor` (R214). -/
def execLaneRbxor (d a : Opnd) (s : State) : Out := bitReduce d a (· ^^^ ·) s

end Sys2Proof.Machine
end

