-- ==== Sys2Proof/Machine/Dispatch.lean ====
section
/-!
DEFINITION. What each instruction does: one meaning for each constructor.
-/
namespace Sys2Proof.Machine
open Sys2Proof

def exec (i : Instr) (s : State) : Host.Outcome State Fault Refusal :=
  match i with
  | .clauseHeader => Sys2Proof.Machine.execClauseHeader s
  | .mode d imm => Sys2Proof.Machine.execMode d imm s
  | .guard n g => Sys2Proof.Machine.execGuard n g s
  | .fmt d a => Sys2Proof.Machine.execFmt d a s
  | .omap d a => Sys2Proof.Machine.execOmap d a s
  | .xset u k b l => Sys2Proof.Machine.execXset u k b l s
  | .xoff u k a => Sys2Proof.Machine.execXoff u k a s
  | .xadd u k a => Sys2Proof.Machine.execXadd u k a s
  | .mov u d a => Sys2Proof.Machine.execMov u d a s
  | .movi u d imm => Sys2Proof.Machine.execMovi u d imm s
  | .movh u d imm => Sys2Proof.Machine.execMovh u d imm s
  | .sel u d a b => Sys2Proof.Machine.execSel u d a b s
  | .retag u d a t => Sys2Proof.Machine.execRetag u d a t s
  | .tagof u d a => Sys2Proof.Machine.execTagof u d a s
  | .rdsr u d imm => Sys2Proof.Machine.execRdsr u d imm s
  | .wrsr u d imm => Sys2Proof.Machine.execWrsr u d imm s
  | .add u d a b => Sys2Proof.Machine.execAdd u d a b s
  | .sub u d a b => Sys2Proof.Machine.execSub u d a b s
  | .mul u d a b => Sys2Proof.Machine.execMul u d a b s
  | .mulh u d a b => Sys2Proof.Machine.execMulh u d a b s
  | .mad u d a b => Sys2Proof.Machine.execMad u d a b s
  | .div u d a b => Sys2Proof.Machine.execDiv u d a b s
  | .rem u d a b => Sys2Proof.Machine.execRem u d a b s
  | .min u d a b => Sys2Proof.Machine.execMin u d a b s
  | .max u d a b => Sys2Proof.Machine.execMax u d a b s
  | .abs u d a => Sys2Proof.Machine.execAbs u d a s
  | .neg u d a => Sys2Proof.Machine.execNeg u d a s
  | .add64 u d a b => Sys2Proof.Machine.execAdd64 u d a b s
  | .mad64 u d a b => Sys2Proof.Machine.execMad64 u d a b s
  | .clamp u d a b => Sys2Proof.Machine.execClamp u d a b s
  | .addi u d imm => Sys2Proof.Machine.execAddi u d imm s
  | .muli u d imm => Sys2Proof.Machine.execMuli u d imm s
  | .and u d a b => Sys2Proof.Machine.execAnd u d a b s
  | .or u d a b => Sys2Proof.Machine.execOr u d a b s
  | .xor u d a b => Sys2Proof.Machine.execXor u d a b s
  | .not u d a => Sys2Proof.Machine.execNot u d a s
  | .andn u d a b => Sys2Proof.Machine.execAndn u d a b s
  | .shl u d a b => Sys2Proof.Machine.execShl u d a b s
  | .shr u d a b => Sys2Proof.Machine.execShr u d a b s
  | .sra u d a b => Sys2Proof.Machine.execSra u d a b s
  | .rot u d a b => Sys2Proof.Machine.execRot u d a b s
  | .popc u d a => Sys2Proof.Machine.execPopc u d a s
  | .clz u d a => Sys2Proof.Machine.execClz u d a s
  | .brev u d a => Sys2Proof.Machine.execBrev u d a s
  | .bfx u d a b => Sys2Proof.Machine.execBfx u d a b s
  | .bfi u d a b => Sys2Proof.Machine.execBfi u d a b s
  | .perm u d a b => Sys2Proof.Machine.execPerm u d a b s
  | .ffs u d a => Sys2Proof.Machine.execFfs u d a s
  | .ceq u p c a b => Sys2Proof.Machine.execCeq u p c a b s
  | .cne u p c a b => Sys2Proof.Machine.execCne u p c a b s
  | .clt u p c a b => Sys2Proof.Machine.execClt u p c a b s
  | .cle u p c a b => Sys2Proof.Machine.execCle u p c a b s
  | .cgt u p c a b => Sys2Proof.Machine.execCgt u p c a b s
  | .cge u p c a b => Sys2Proof.Machine.execCge u p c a b s
  | .cun u p c a b => Sys2Proof.Machine.execCun u p c a b s
  | .cclass u p c a b => Sys2Proof.Machine.execCclass u p c a b s
  | .plog u p c f ia qa ib qb => Sys2Proof.Machine.execPlog u p c f ia qa ib qb s
  | .ptov u d a b => Sys2Proof.Machine.execPtov u d a b s
  | .vtop u p c a b => Sys2Proof.Machine.execVtop u p c a b s
  | .pset u p c a b => Sys2Proof.Machine.execPset u p c a b s
  | .shfl d a b => Sys2Proof.Machine.execShfl d a b s
  | .shfx d a b => Sys2Proof.Machine.execShfx d a b s
  | .laneAny p n q => Sys2Proof.Machine.execLaneAny p n q s
  | .laneAll p n q => Sys2Proof.Machine.execLaneAll p n q s
  | .laneBallot d n q => Sys2Proof.Machine.execLaneBallot d n q s
  | .laneBcast d a => Sys2Proof.Machine.execLaneBcast d a s
  | .laneCount d n q => Sys2Proof.Machine.execLaneCount d n q s
  | .laneFirst d n q => Sys2Proof.Machine.execLaneFirst d n q s
  | .laneRnd d => Sys2Proof.Machine.execLaneRnd d s
  | .laneRadd d a => Sys2Proof.Machine.execLaneRadd d a s
  | .laneRmin d a => Sys2Proof.Machine.execLaneRmin d a s
  | .laneRmax d a => Sys2Proof.Machine.execLaneRmax d a s
  | .laneRband d a => Sys2Proof.Machine.execLaneRband d a s
  | .laneRbor d a => Sys2Proof.Machine.execLaneRbor d a s
  | .laneRbxor d a => Sys2Proof.Machine.execLaneRbxor d a s
  | .laneScan d a => Sys2Proof.Machine.execLaneScan d a s
  | .regrpGive u p a => Sys2Proof.Machine.execRegrpGive u p a s
  | .regrpTake u p a => Sys2Proof.Machine.execRegrpTake u p a s
  | .fms u d a b => Sys2Proof.Machine.execFms u d a b s
  | .fnma u d a b => Sys2Proof.Machine.execFnma u d a b s
  | .rcp u d a => Sys2Proof.Machine.execRcp u d a s
  | .rsq u d a => Sys2Proof.Machine.execRsq u d a s
  | .sqrt u d a => Sys2Proof.Machine.execSqrt u d a s
  | .exp2 u d a => Sys2Proof.Machine.execExp2 u d a s
  | .log2 u d a => Sys2Proof.Machine.execLog2 u d a s
  | .sinp u d a => Sys2Proof.Machine.execSinp u d a s
  | .cosp u d a => Sys2Proof.Machine.execCosp u d a s
  | .frac u d a => Sys2Proof.Machine.execFrac u d a s
  | .rint u d a => Sys2Proof.Machine.execRint u d a s
  | .cvt u d a f t => Sys2Proof.Machine.execCvt u d a f t s
  | .pack u d a f t => Sys2Proof.Machine.execPack u d a f t s
  | .unpack u d a f t => Sys2Proof.Machine.execUnpack u d a f t s
  | .dot u d a b => Sys2Proof.Machine.execDot u d a b s
  | .ld8 u d a o => Sys2Proof.Machine.execLd8 u d a o s
  | .ld16 u d a o => Sys2Proof.Machine.execLd16 u d a o s
  | .ld32 u d a o => Sys2Proof.Machine.execLd32 u d a o s
  | .ld64 u d a o => Sys2Proof.Machine.execLd64 u d a o s
  | .ld128 u d a o => Sys2Proof.Machine.execLd128 u d a o s
  | .st8 u d a o => Sys2Proof.Machine.execSt8 u d a o s
  | .st16 u d a o => Sys2Proof.Machine.execSt16 u d a o s
  | .st32 u d a o => Sys2Proof.Machine.execSt32 u d a o s
  | .st64 u d a o => Sys2Proof.Machine.execSt64 u d a o s
  | .st128 u d a o => Sys2Proof.Machine.execSt128 u d a o s
  | .lda u d a o => Sys2Proof.Machine.execLda u d a o s
  | .strl u d a o => Sys2Proof.Machine.execStrl u d a o s
  | .fenceFull u => Sys2Proof.Machine.execFenceFull u s
  | .fenceAcq u => Sys2Proof.Machine.execFenceAcq u s
  | .fenceRel u => Sys2Proof.Machine.execFenceRel u s
  | .fenceEngine u => Sys2Proof.Machine.execFenceEngine u s
  | .cmoClean u l a b => Sys2Proof.Machine.execCmoClean u l a b s
  | .cmoInv u l a b => Sys2Proof.Machine.execCmoInv u l a b s
  | .cmoCinv u l a b => Sys2Proof.Machine.execCmoCinv u l a b s
  | .cmoSettle u l a b => Sys2Proof.Machine.execCmoSettle u l a b s
  | .pref u l a o => Sys2Proof.Machine.execPref u l a o s
  | .dtag u d a o => Sys2Proof.Machine.execDtag u d a o s
  | .aadd u d a b => Sys2Proof.Machine.execAadd u d a b s
  | .amin u d a b => Sys2Proof.Machine.execAmin u d a b s
  | .amax u d a b => Sys2Proof.Machine.execAmax u d a b s
  | .aand u d a b => Sys2Proof.Machine.execAand u d a b s
  | .aor u d a b => Sys2Proof.Machine.execAor u d a b s
  | .axor u d a b => Sys2Proof.Machine.execAxor u d a b s
  | .axchg u d a b => Sys2Proof.Machine.execAxchg u d a b s
  | .acas u d a b => Sys2Proof.Machine.execAcas u d a b s
  | .dplate u d a o => Sys2Proof.Machine.execDplate u d a o s
  | .dpub d n => Sys2Proof.Machine.execDpub d n s
  | .galRes u d a => Sys2Proof.Machine.execGalRes u d a s
  | .galCom u d a => Sys2Proof.Machine.execGalCom u d a s
  | .galTake u d a => Sys2Proof.Machine.execGalTake u d a s
  | .galFree u d a => Sys2Proof.Machine.execGalFree u d a s
  | .fpop u d a p => Sys2Proof.Machine.execFpop u d a p s
  | .br u p n o => Sys2Proof.Machine.execBr u p n o s
  | .jmp u a => Sys2Proof.Machine.execJmp u a s
  | .call u p n o => Sys2Proof.Machine.execCall u p n o s
  | .callr u a => Sys2Proof.Machine.execCallr u a s
  | .ret => Sys2Proof.Machine.execRet s
  | .exit u => Sys2Proof.Machine.execExit u s
  | .exitSuccessor u a => Sys2Proof.Machine.execExitSuccessor u a s
  | .barMeet u d => Sys2Proof.Machine.execBarMeet u d s
  | .barPost u d => Sys2Proof.Machine.execBarPost u d s
  | .barAwait u d => Sys2Proof.Machine.execBarAwait u d s
  | .waitv u d a b => Sys2Proof.Machine.execWaitv u d a b s
  | .spawn u r a n => Sys2Proof.Machine.execSpawn u r a n s
  | .launch u a => Sys2Proof.Machine.execLaunch u a s
  | .futWait u d a => Sys2Proof.Machine.execFutWait u d a s
  | .futTest u d a => Sys2Proof.Machine.execFutTest u d a s
  | .futCancel u a => Sys2Proof.Machine.execFutCancel u a s
  | .futAdopt u d a => Sys2Proof.Machine.execFutAdopt u d a s
  | .timCyc u d => Sys2Proof.Machine.execTimCyc u d s
  | .timWcyc u a => Sys2Proof.Machine.execTimWcyc u a s
  | .timPclass u a => Sys2Proof.Machine.execTimPclass u a s
  | .timYield u => Sys2Proof.Machine.execTimYield u s
  | .timLockq u d a => Sys2Proof.Machine.execTimLockq u d a s
  | .mma r a c n o k => Sys2Proof.Machine.execMma r a c n o k s
  | .mmj r a c n o k => Sys2Proof.Machine.execMmj r a c n o k s
  | .accZero c n x => Sys2Proof.Machine.execAccZero c n x s
  | .accLd a c n x => Sys2Proof.Machine.execAccLd a c n x s
  | .accSt a c n x => Sys2Proof.Machine.execAccSt a c n x s
  | .accRd d c x => Sys2Proof.Machine.execAccRd d c x s
  | .accScale a c n x => Sys2Proof.Machine.execAccScale a c n x s
  | .smp d a b => Sys2Proof.Machine.execSmp d a b s
  | .engCopy u d a => Sys2Proof.Machine.execEngCopy u d a s
  | .engColl u d a => Sys2Proof.Machine.execEngColl u d a s
  | .engGath u d a => Sys2Proof.Machine.execEngGath u d a s
  | .engXfer u d a => Sys2Proof.Machine.execEngXfer u d a s
  | .engSmma u d a => Sys2Proof.Machine.execEngSmma u d a s
  | .engWpin u d a => Sys2Proof.Machine.execEngWpin u d a s
  | .engWinv u d a => Sys2Proof.Machine.execEngWinv u d a s
  | .sysTrap u a => Sys2Proof.Machine.execSysTrap u a s
  | .sysBrk u a => Sys2Proof.Machine.execSysBrk u a s
  | .sysPerf u a => Sys2Proof.Machine.execSysPerf u a s
  | .primTri d a => Sys2Proof.Machine.execPrimTri d a s
  | .primEll d a => Sys2Proof.Machine.execPrimEll d a s
  | .primPt d a => Sys2Proof.Machine.execPrimPt d a s
  | .primCut => Sys2Proof.Machine.execPrimCut s
  | .primFout a => Sys2Proof.Machine.execPrimFout a s
  | .primKill => Sys2Proof.Machine.execPrimKill s
  | .starvedQueueEntry gid => Sys2Proof.Machine.execStarvedQueueEntry gid s
  | .longLatencyCompletion op => Sys2Proof.Machine.execLongLatencyCompletion op s
  | .groupRetire gid => Sys2Proof.Machine.execGroupRetire gid s
  | .teamRetire tid => Sys2Proof.Machine.execTeamRetire tid s
  | .regroupMove donor receiver => Sys2Proof.Machine.execRegroupMove donor receiver s
  | .barrierWaveRelease tid b => Sys2Proof.Machine.execBarrierWaveRelease tid b s
  | .placementWave tid => Sys2Proof.Machine.execPlacementWave tid s
  | .taskWaveTimeout cluster wave => Sys2Proof.Machine.execTaskWaveTimeout cluster wave s
  | .taskWavePlacement cluster => Sys2Proof.Machine.execTaskWavePlacement cluster s
  | .evaluatorPlacement part => Sys2Proof.Machine.execEvaluatorPlacement part s
  | .waiterReplay cell => Sys2Proof.Machine.execWaiterReplay cell s
  | .deferTimeout cell op => Sys2Proof.Machine.execDeferTimeout cell op s
  | .matrixOperation core => Sys2Proof.Machine.execMatrixOperation core s
  | .jointOperationStart tid => Sys2Proof.Machine.execJointOperationStart tid s
  | .jointTimeout tid => Sys2Proof.Machine.execJointTimeout tid s
  | .engineCompletion eng => Sys2Proof.Machine.execEngineCompletion eng s
  | .launchComplete launch => Sys2Proof.Machine.execLaunchComplete launch s
  | .pendingLaunchAccept tid => Sys2Proof.Machine.execPendingLaunchAccept tid s
  | .teamPlacement part => Sys2Proof.Machine.execTeamPlacement part s
  | .swapOut tid => Sys2Proof.Machine.execSwapOut tid s
  | .waitvRecheck gid => Sys2Proof.Machine.execWaitvRecheck gid s
  | .timWcycRelease gid => Sys2Proof.Machine.execTimWcycRelease gid s
  | .translationWalk core va wr => Sys2Proof.Machine.execTranslationWalk core va wr s
  | .park gid => Sys2Proof.Machine.execPark gid s
  | .parkedSwitchOut part => Sys2Proof.Machine.execParkedSwitchOut part s
  | .halt part => Sys2Proof.Machine.execHalt part s
  | .preemptSave part => Sys2Proof.Machine.execPreemptSave part s
  | .preemptTimeout part => Sys2Proof.Machine.execPreemptTimeout part s
  | .watchdog part => Sys2Proof.Machine.execWatchdog part s
  | .lockupBreach op => Sys2Proof.Machine.execLockupBreach op s
  | .referencePause part => Sys2Proof.Machine.execReferencePause part s
  | .memoryRefresh => Sys2Proof.Machine.execMemoryRefresh s
  | .scrubPass => Sys2Proof.Machine.execScrubPass s
  | .l2LineMigration part line slice => Sys2Proof.Machine.execL2LineMigration part line slice s
  | .telemetrySlot cluster thermal current power => Sys2Proof.Machine.execTelemetrySlot cluster thermal current power s
  | .sensorFail cluster kind idx => Sys2Proof.Machine.execSensorFail cluster kind idx s
  | .limitStateChange cluster src level => Sys2Proof.Machine.execLimitStateChange cluster src level s
  | .classChange cluster => Sys2Proof.Machine.execClassChange cluster s
  | .droopStretch cluster => Sys2Proof.Machine.execDroopStretch cluster s
  | .thermalStop => Sys2Proof.Machine.execThermalStop s
  | .doorbell part queue value => Sys2Proof.Machine.execDoorbell part queue value s
  | .stoptail part value => Sys2Proof.Machine.execStoptail part value s
  | .launchPacket part queue => Sys2Proof.Machine.execLaunchPacket part queue s
  | .feed part queue => Sys2Proof.Machine.execFeed part queue s
  | .wait part queue => Sys2Proof.Machine.execWait part queue s
  | .waitRecheck part queue => Sys2Proof.Machine.execWaitRecheck part queue s
  | .signal part queue => Sys2Proof.Machine.execSignal part queue s
  | .draw part queue => Sys2Proof.Machine.execDraw part queue s
  | .copy part queue => Sys2Proof.Machine.execCopy part queue s
  | .fence part queue => Sys2Proof.Machine.execFence part queue s
  | .indirect part queue => Sys2Proof.Machine.execIndirect part queue s
  | .timestamp part queue => Sys2Proof.Machine.execTimestamp part queue s
  | .nop part queue => Sys2Proof.Machine.execNop part queue s
  | .drawFrameAllocation part => Sys2Proof.Machine.execDrawFrameAllocation part s
  | .fragmentGroupRelease part draw tile count => Sys2Proof.Machine.execFragmentGroupRelease part draw tile count s
  | .fragmentGroupPlacement cluster => Sys2Proof.Machine.execFragmentGroupPlacement cluster s
  | .tileFrameLoad part draw tile => Sys2Proof.Machine.execTileFrameLoad part draw tile s
  | .overprintFragment part draw px py => Sys2Proof.Machine.execOverprintFragment part draw px py s
  | .tileWriteBack part draw tile => Sys2Proof.Machine.execTileWriteBack part draw tile s
  | .samplerQuad core sampler => Sys2Proof.Machine.execSamplerQuad core sampler s
  | .weightFill core sampler => Sys2Proof.Machine.execWeightFill core sampler s
  | .winvObserve core sampler => Sys2Proof.Machine.execWinvObserve core sampler s
  | .hostWrite src addr data => Sys2Proof.Machine.execHostWrite src addr data s
  | .hostRead src addr n => Sys2Proof.Machine.execHostRead src addr n s
  | .linkUnreachable port => Sys2Proof.Machine.execLinkUnreachable port s
  | .pcieLinkTrained width gen => Sys2Proof.Machine.execPcieLinkTrained width gen s
  | .powerOn => Sys2Proof.Machine.execPowerOn s
  | .create => Sys2Proof.Machine.execCreate s
  | .start => Sys2Proof.Machine.execStart s
  | .preempt => Sys2Proof.Machine.execPreempt s
  | .resume => Sys2Proof.Machine.execResume s
  | .kill => Sys2Proof.Machine.execKill s
  | .shootdown => Sys2Proof.Machine.execShootdown s
  | .parkres => Sys2Proof.Machine.execParkres s
  | .queue => Sys2Proof.Machine.execQueue s
  | .qreset => Sys2Proof.Machine.execQreset s
  | .partition => Sys2Proof.Machine.execPartition s
  | .update => Sys2Proof.Machine.execUpdate s
  | .updateTakeover => Sys2Proof.Machine.execUpdateTakeover s
  | .attest => Sys2Proof.Machine.execAttest s
  | .clear => Sys2Proof.Machine.execClear s
  | .hostAtomic src kind addr wide x y => Sys2Proof.Machine.execHostAtomic src kind addr wide x y s
  | .l1LineEviction core line => Sys2Proof.Machine.execL1LineEviction core line s
  | .writePerformed core line => Sys2Proof.Machine.execWritePerformed core line s
  | .unitFailure kind idx => Sys2Proof.Machine.execUnitFailure kind idx s

end Sys2Proof.Machine
end

