-- ==== Sys2Proof/Machine/Forms.lean ====
section
/-!
DEFINITION. The instructions by form: for each family the fields of an instruction and the operation that its meaning shares with
the family, as statements name them (R139, R141-R280).
-/
namespace Sys2Proof.Machine
open Sys2Proof

/-- An instruction that writes registers: U, destination, run and evenness, result. -/
structure ValueForm where
  u : Bool
  d : Opnd
  shape : Env → Nat × Bool
  val : Env → Lane → Rd Res

/-- Moves and tags (R146-R151). -/
def moveForm : Instr → Option ValueForm
  | .mov u d a => some ⟨u, d, one, movVal a⟩
  | .movi u d i => some ⟨u, d, byType, moviVal i⟩
  | .movh u d i => some ⟨u, d, one, movhVal d i⟩
  | .sel u d a b => some ⟨u, d, one, selVal d a b⟩
  | .retag u d a t => some ⟨u, d, one, retagVal a t⟩
  | .tagof u d a => some ⟨u, d, one, tagofVal a⟩
  | _ => none

/-- Arithmetic (R154-R159). -/
def arithForm : Instr → Option ValueForm
  | .add u d a b => some ⟨u, d, byType, val2 a b notNar opAdd⟩
  | .sub u d a b => some ⟨u, d, byType, val2 a b notNar opSub⟩
  | .mul u d a b => some ⟨u, d, byType, val2 a b notNar opMul⟩
  | .mulh u d a b => some ⟨u, d, byType, val2 a b mulhType opMulh⟩
  | .mad u d a b => some ⟨u, d, byType, val3 d a b notNar opMad⟩
  | .div u d a b => some ⟨u, d, byType, val2 a b isScalar opDiv⟩
  | .rem u d a b => some ⟨u, d, byType, val2 a b isScalarInt opRem⟩
  | .min u d a b => some ⟨u, d, byType, val2 a b notNar opMin⟩
  | .max u d a b => some ⟨u, d, byType, val2 a b notNar opMax⟩
  | .abs u d a => some ⟨u, d, byType, val1 a notNar opAbs⟩
  | .neg u d a => some ⟨u, d, byType, val1 a notNar opNeg⟩
  | .clamp u d a b => some ⟨u, d, byType, val3 d a b notNar opClamp⟩
  | .add64 u d a b => some ⟨u, d, pairOf, add64Val a b⟩
  | .mad64 u d a b => some ⟨u, d, pairOf, mad64Val d a b⟩
  | .addi u d i => some ⟨u, d, byType, immVal d i noType (· + ·)⟩
  | .muli u d i => some ⟨u, d, byType, immVal d i isUnsigned (· * ·)⟩
  | _ => none

/-- Bit operations (R160-R162). -/
def bitForm : Instr → Option ValueForm
  | .and u d a b => some ⟨u, d, one, bitVal2 a b (· &&& ·)⟩
  | .or u d a b => some ⟨u, d, one, bitVal2 a b (· ||| ·)⟩
  | .xor u d a b => some ⟨u, d, one, bitVal2 a b (· ^^^ ·)⟩
  | .not u d a => some ⟨u, d, one, bitVal1 a (~~~ ·)⟩
  | .andn u d a b => some ⟨u, d, one, bitVal2 a b (fun x y => x &&& ~~~ y)⟩
  | .shl u d a b => some ⟨u, d, one, bitVal2 a b shlBits⟩
  | .shr u d a b => some ⟨u, d, one, bitVal2 a b shrBits⟩
  | .sra u d a b => some ⟨u, d, one, bitVal2 a b sraBits⟩
  | .rot u d a b => some ⟨u, d, one, bitVal2 a b (fun x y => x.rotateLeft (y.toNat % 32))⟩
  | .popc u d a => some ⟨u, d, one, bitVal1 a popcBits⟩
  | .clz u d a => some ⟨u, d, one, bitVal1 a clzBits⟩
  | .brev u d a => some ⟨u, d, one, bitVal1 a brevBits⟩
  | .ffs u d a => some ⟨u, d, one, bitVal1 a ffsBits⟩
  | .bfx u d a b => some ⟨u, d, one, bitVal2 a b bfxBits⟩
  | .bfi u d a b => some ⟨u, d, one, bitVal3 d a b bfiBits⟩
  | .perm u d a b => some ⟨u, d, one, bitVal3 d a b permBits⟩
  | .ptov u d a b => some ⟨u, d, one, ptovVal a b⟩
  | _ => none

/-- Functions, conversions, `dot` and the two timing reads (R168-R175, R242, R244). -/
def functionForm : Instr → Option ValueForm
  | .fms u d a b => some ⟨u, d, byType, val3 d a b isFloat opFms⟩
  | .fnma u d a b => some ⟨u, d, byType, val3 d a b isFloat opFnma⟩
  | .rcp u d a => some ⟨u, d, byType, val1 a isFloat (opFun (FVal.div (.fin false 1 0)))⟩
  | .rsq u d a => some ⟨u, d, byType, val1 a isFloat (opFun FVal.rsq)⟩
  | .sqrt u d a => some ⟨u, d, byType, val1 a isFloat (opFun FVal.sqrt)⟩
  | .exp2 u d a => some ⟨u, d, byType, val1 a isFun (opFun FVal.exp2)⟩
  | .log2 u d a => some ⟨u, d, byType, val1 a isFun (opFun FVal.log2)⟩
  | .sinp u d a => some ⟨u, d, byType, val1 a isFun (opFun FVal.sinp)⟩
  | .cosp u d a => some ⟨u, d, byType, val1 a isFun (opFun FVal.cosp)⟩
  | .frac u d a => some ⟨u, d, byType, ruleVal a fracRule⟩
  | .rint u d a => some ⟨u, d, byType, ruleVal a rintRule⟩
  | .cvt u d a f t => some ⟨u, d, byType, cvtVal a f t⟩
  | .pack u d a f t => some ⟨u, d, one, packVal a f t⟩
  | .unpack u d a f t => some ⟨u, d, unpackShape f t, unpackVal a f t⟩
  | .dot u d a b => some ⟨u, d, one, dotVal d a b⟩
  | .timCyc u d => some ⟨u, d, pairOf, cycVal⟩
  | .timLockq u d a => some ⟨u, d, one, lockqVal a⟩
  | _ => none

/-- Every instruction that writes registers and nothing else. -/
def valueForm (i : Instr) : Option ValueForm :=
  (moveForm i).or ((arithForm i).or ((bitForm i).or (functionForm i)))

/-- An instruction of format P (R163-R167): U, predicate, COMB, result. -/
structure PredForm where
  u : Bool
  p : BitVec 6
  c : BitVec 2
  val : Env → Lane → Rd Bool

def predForm : Instr → Option PredForm
  | .ceq u p c a b => some ⟨u, p, c, cmpVal a b cmpEq⟩
  | .cne u p c a b => some ⟨u, p, c, cmpVal a b cmpNe⟩
  | .clt u p c a b => some ⟨u, p, c, cmpVal a b cmpLt⟩
  | .cle u p c a b => some ⟨u, p, c, cmpVal a b cmpLe⟩
  | .cgt u p c a b => some ⟨u, p, c, cmpVal a b cmpGt⟩
  | .cge u p c a b => some ⟨u, p, c, cmpVal a b cmpGe⟩
  | .cun u p c a b => some ⟨u, p, c, cmpVal a b cmpUn⟩
  | .cclass u p c a b => some ⟨u, p, c, classVal a b⟩
  | .plog u p c f ia qa ib qb => some ⟨u, p, c, plogVal f ia qa ib qb⟩
  | .vtop u p c a b => some ⟨u, p, c, vtopVal a b⟩
  | .pset u p c a b => some ⟨u, p, c, psetVal a b⟩
  | _ => none

/-- A write of group state (R141-R144, R153): U and what is read. -/
structure GroupForm where
  u : Bool
  rd : Env → Lane → Rd (Option (Group → Group))

def groupForm : Instr → Option GroupForm
  | .mode d i => some ⟨true, modeWrite d i⟩
  | .guard n g => some ⟨true, guardWrite n g⟩
  | .fmt d a => some ⟨true, fmtWrite d a⟩
  | .omap d a => some ⟨true, omapWrite d a⟩
  | .wrsr u d i => if i.toNat = 0x0A then some ⟨u, srModeWrite d⟩ else none
  | _ => none

/-- A write of a lane's own state (R145, R153). -/
structure LaneForm where
  u : Bool
  rd : Env → Lane → Rd (Lane → Lane)

def laneForm : Instr → Option LaneForm
  | .xset u k b l => some ⟨u, xsetWrite k b l⟩
  | .xoff u k a => some ⟨u, xoffWrite k a⟩
  | .xadd u k a => some ⟨u, xaddWrite k a⟩
  | .wrsr u d i => if i.toNat = 0x0A then none else some ⟨u, srWrite d i⟩
  | _ => none

/-- A shuffle or a lane instruction that writes registers (R210-R214): destination, run, the reads and the result. -/
structure CrossForm where
  α : Type
  d : Opnd
  shape : Env → Nat × Bool
  rd : Env → Lane → Rd α
  res : Env → List (Lane × α) → Lane × α → Res

def crossForm : Instr → Option CrossForm
  | .shfl d a b => some ⟨_, d, one, shufRead a b, shufRes shflSrc⟩
  | .shfx d a b => some ⟨_, d, one, shufRead a b, shufRes shfxSrc⟩
  | .laneBallot d n q => some ⟨_, d, ballotShape, countRead n q, countRes ballotOf⟩
  | .laneBcast d a => some ⟨_, d, one, bcastRead a, bcastRes⟩
  | .laneCount d n q => some ⟨_, d, one, countRead n q, countRes countOf⟩
  | .laneFirst d n q => some ⟨_, d, one, countRead n q, countRes firstOf⟩
  | .laneRnd d => some ⟨_, d, one, rndRead, rndRes⟩
  | .laneRadd d a => some ⟨_, d, reduceShape, reduceRead a, reduceRes opAdd false⟩
  | .laneRmin d a => some ⟨_, d, reduceShape, reduceRead a, reduceRes opMin false⟩
  | .laneRmax d a => some ⟨_, d, reduceShape, reduceRead a, reduceRes opMax false⟩
  | .laneScan d a => some ⟨_, d, reduceShape, reduceRead a, reduceRes opAdd true⟩
  | .laneRband d a => some ⟨_, d, one, bitRead a, bitRes (· &&& ·)⟩
  | .laneRbor d a => some ⟨_, d, one, bitRead a, bitRes (· ||| ·)⟩
  | .laneRbxor d a => some ⟨_, d, one, bitRead a, bitRes (· ^^^ ·)⟩
  | _ => none

/-- A long-latency memory instruction (R184, R185, R194, R195, R201). -/
structure LongForm where
  u : Bool
  d : Opnd
  k : MemOp

def longForm : Instr → Option LongForm
  | .ld8 u d a o => some ⟨u, d, loadOp 1 a o⟩
  | .ld16 u d a o => some ⟨u, d, loadOp 2 a o⟩
  | .ld32 u d a o => some ⟨u, d, loadOp 4 a o⟩
  | .ld64 u d a o => some ⟨u, d, loadOp 8 a o⟩
  | .ld128 u d a o => some ⟨u, d, loadOp 16 a o⟩
  | .lda u d a o => some ⟨u, d, ldaOp a o⟩
  | .dtag u d a o => some ⟨u, d, dtagOp a o⟩
  | .aadd u d a b => some ⟨u, d, atomOp 0 a b⟩
  | .amin u d a b => some ⟨u, d, atomOp 1 a b⟩
  | .amax u d a b => some ⟨u, d, atomOp 2 a b⟩
  | .aand u d a b => some ⟨u, d, atomOp 3 a b⟩
  | .aor u d a b => some ⟨u, d, atomOp 4 a b⟩
  | .axor u d a b => some ⟨u, d, atomOp 5 a b⟩
  | .axchg u d a b => some ⟨u, d, atomOp 6 a b⟩
  | .acas u d a b => some ⟨u, d, atomOp 7 a b⟩
  | _ => none

/-- A plain store (R186). -/
structure StoreForm where
  u : Bool
  k : StoreOp

def storeForm : Instr → Option StoreForm
  | .st8 u d a o => some ⟨u, storeOp 1 (storeWord d 1) a o⟩
  | .st16 u d a o => some ⟨u, storeOp 2 (storeWord d 2) a o⟩
  | .st32 u d a o => some ⟨u, storeOp 4 (storeWord d 4) a o⟩
  | .st64 u d a o => some ⟨u, storeOp 8 (storeRun d 2) a o⟩
  | .st128 u d a o => some ⟨u, storeOp 16 (storeRun d 4) a o⟩
  | _ => none

/-- The kinds of `fence` and `cmo` (R189-R191). -/
def fenceForm : Instr → Option Nat
  | .fenceFull _ => some 0 | .fenceAcq _ => some 1 | .fenceRel _ => some 2 | .fenceEngine _ => some 3 | _ => none

structure CmoForm where
  kind : Nat
  u : Bool
  level : BitVec 4
  a : Opnd
  b : Opnd

def cmoForm : Instr → Option CmoForm
  | .cmoClean u l a b => some ⟨0, u, l, a, b⟩
  | .cmoInv u l a b => some ⟨1, u, l, a, b⟩
  | .cmoCinv u l a b => some ⟨2, u, l, a, b⟩
  | .cmoSettle u l a b => some ⟨3, u, l, a, b⟩
  | _ => none

/-- Barriers (R217): the halves and the number. -/
structure BarForm where
  post : Bool
  await : Bool
  b : BitVec 8

def barForm : Instr → Option BarForm
  | .barMeet _ d => some ⟨true, true, d⟩
  | .barPost _ d => some ⟨true, false, d⟩
  | .barAwait _ d => some ⟨false, true, d⟩
  | _ => none

/-- Galleys (R232-R235). -/
structure GalForm where
  u : Bool
  d : Opnd
  k : GalOp

def galForm : Instr → Option GalForm
  | .galRes u d a => some ⟨u, d, galResOp a⟩
  | .galCom u d a => some ⟨u, d, galComOp d a⟩
  | .galTake u d a => some ⟨u, d, galTakeOp a⟩
  | .galFree u d a => some ⟨u, d, galFreeOp d a⟩
  | _ => none

/-- `mma` and `mmj` (R251, R257). -/
def matrixForm : Instr → Option MxOp
  | .mma r a c n o k => some { joint := false, reuse := r, a := a, c := c, n := n, o := o, k := k }
  | .mmj r a c n o k => some { joint := true, reuse := r, a := a, c := c, n := n, o := o, k := k }
  | _ => none

/-- `acc.ld` and `acc.st` (R261, R262). -/
def accMoveForm : Instr → Option AccMove
  | .accLd a c n x => some { store := false, a := a, c := c, n := n, x := x }
  | .accSt a c n x => some { store := true, a := a, c := c, n := n, x := x }
  | _ => none

/-- The engine instructions with a descriptor (R272-R276), and those with a header (R277). -/
structure EngForm where
  kind : EngKind
  u : Bool
  d : Opnd
  a : Opnd

def engForm : Instr → Option EngForm
  | .engCopy u d a => some ⟨.copy, u, d, a⟩
  | .engColl u d a => some ⟨.coll, u, d, a⟩
  | .engGath u d a => some ⟨.gath, u, d, a⟩
  | .engXfer u d a => some ⟨.xfer, u, d, a⟩
  | .engSmma u d a => some ⟨.smma, u, d, a⟩
  | _ => none

def weightForm : Instr → Option EngForm
  | .engWpin u d a => some ⟨.wpin, u, d, a⟩
  | .engWinv u d a => some ⟨.winv, u, d, a⟩
  | _ => none

/-- Primitives (R279): the kind, the coordinates read, the payload and the run. -/
structure PrimForm where
  kind : Nat
  run : Nat
  d : Opnd
  a : Opnd

def primForm : Instr → Option PrimForm
  | .primTri d a => some ⟨0, 9, d, a⟩
  | .primEll d a => some ⟨1, 6, d, a⟩
  | .primPt d a => some ⟨2, 4, d, a⟩
  | _ => none

/-- Packets (R348-R351, R377): the type, the queue, and the start. -/
structure PacketForm where
  ty : Nat
  part : Nat
  queue : Nat
  start : State → List Word → Nat → Option State

def packetForm : Instr → Option PacketForm
  | .launchPacket q n => some ⟨1, q, n, launchStart q n⟩
  | .feed q n => some ⟨2, q, n, feedStart q n⟩
  | .wait q n => some ⟨3, q, n, waitStart q n⟩
  | .signal q n => some ⟨4, q, n, signalStart q n⟩
  | .draw q n => some ⟨5, q, n, drawStart q n⟩
  | .copy q n => some ⟨6, q, n, copyStart q n⟩
  | .fence q n => some ⟨7, q, n, fenceStart q n⟩
  | .indirect q n => some ⟨8, q, n, indirectStart q n⟩
  | .timestamp q n => some ⟨9, q, n, timestampStart q n⟩
  | .nop q n => some ⟨10, q, n, nopStart q n⟩
  | _ => none

/-- Commands of the mailbox that end at once (R408): the code, whether they name a partition, and what firmware does. -/
structure CommandForm where
  code : Nat
  parted : Bool
  run : State → Nat → Option State

def commandForm : Instr → Option CommandForm
  | .create => some ⟨1, true, createRun⟩
  | .start => some ⟨2, true, startRun⟩
  | .preempt => some ⟨3, true, preemptRun⟩
  | .resume => some ⟨4, true, resumeRun⟩
  | .kill => some ⟨5, true, killRun⟩
  | .parkres => some ⟨7, true, parkresRun⟩
  | .queue => some ⟨8, true, queueRun⟩
  | .qreset => some ⟨9, true, qresetRun⟩
  | .partition => some ⟨10, false, partitionRun⟩
  | .attest => some ⟨12, false, attestRun⟩
  | .clear => some ⟨13, false, clearRun⟩
  | _ => none

end Sys2Proof.Machine
end

