-- ==== Sys2Proof/Machine/Pace.lean ====
section
/-!
DEFINITION. Interlocks and passes: the published issue intervals of lockup mode (rows 0 to 12, 26, 28, 30 and 31 of R388) and the
two passes of a 64-lane group (R18). In elastic mode no interval is published, and nothing is held but the slot of a second pass.
-/
namespace Sys2Proof.Machine
open Sys2Proof

/-! A result that is not due is kept in its group's `pace` as lane, key and cycle. The key of a vector register is its number. -/

def sKey (n : Nat) : Nat := 192 + n
def predKey (p : BitVec 6) : Nat := 256 + p.toNat
def xKey (k : BitVec 3) : Nat := 320 + k.toNat

/-- L of an arithmetic instruction by ETYPE (rows 0, 2 and 3). -/
def typeInterval : EType → Nat
  | .f32 | .f16p | .bf16p => 6
  | .f64 => 10
  | _ => 4

/-- L of `cvt`, `pack`, `unpack`, `frac` and `rint` (rows 2 and 3): whether a source or result is f64. -/
def convInterval (m : Mode) (t : Nat) : Nat := if m.etype = .f64 ∨ t = EType.f64.code then 10 else 6

/-- L of an instruction whose results another may read (rows 0 to 10). -/
def interval (m : Mode) : Instr → Nat
  | .mode _ _ | .guard _ _ | .fmt _ _ | .omap _ _ | .wrsr _ _ _ => 1
  | .add _ _ _ _ | .sub _ _ _ _ | .mul _ _ _ _ | .mulh _ _ _ _ | .mad _ _ _ _ | .min _ _ _ _ | .max _ _ _ _ | .abs _ _ _
  | .neg _ _ _ | .clamp _ _ _ _ | .addi _ _ _ | .muli _ _ _ | .fms _ _ _ _ | .fnma _ _ _ _ => typeInterval m.etype
  | .cvt _ _ _ _ t | .pack _ _ _ _ t | .unpack _ _ _ _ t => convInterval m t.toNat
  | .frac _ _ _ | .rint _ _ _ => convInterval m 0
  | .div _ _ _ _ | .rem _ _ _ _ => if m.etype.wide then 48 else 24
  | .rcp _ _ _ | .rsq _ _ _ | .sqrt _ _ _ => if m.etype = .f64 then 36 else 14
  | .exp2 _ _ _ | .log2 _ _ _ | .sinp _ _ _ | .cosp _ _ _ => 18
  | .dot _ _ _ _ => 10
  | .shfl _ _ _ | .shfx _ _ _ | .laneAny _ _ _ | .laneAll _ _ _ | .laneBallot _ _ _ | .laneBcast _ _ | .laneCount _ _ _
  | .laneFirst _ _ _ | .laneRnd _ | .laneRadd _ _ | .laneRmin _ _ | .laneRmax _ _ | .laneRband _ _ | .laneRbor _ _ | .laneRbxor _ _
  | .laneScan _ _ => 12
  | _ => 4

/-- The cycles from an instruction to its gang's next one, where nothing holds the gang longer (rows 26, 28 and 30). -/
def gangInterval : Instr → Nat
  | .futWait _ _ _ | .futTest _ _ _ => 4
  | .spawn _ _ _ _ | .launch _ _ | .sysPerf _ _ | .timPclass _ _ | .timYield _ | .fenceFull _ | .fenceAcq _ | .fenceRel _
  | .fenceEngine _ | .barPost _ _ | .barAwait _ _ | .exit _ | .exitSuccessor _ _ => 4
  | .primTri _ _ | .primEll _ _ | .primPt _ _ | .primCut | .primFout _ | .primKill => 4
  | .st8 _ _ _ _ | .st16 _ _ _ _ | .st32 _ _ _ _ | .st64 _ _ _ _ | .st128 _ _ _ _ | .strl _ _ _ _ | .dplate _ _ _ _ | .dpub _ _
  | .pref _ _ _ _ => 4
  | _ => 0

/-- The destination of an instruction that writes registers after a fixed latency, with its run and evenness. -/
def resultRun (e : Env) (i : Instr) : Option (Bool × Opnd × Nat × Bool) :=
  match valueForm i, crossForm i, i with
  | some f, _, _ => some (f.u, f.d, f.shape e)
  | none, some f, _ => some (false, f.d, f.shape e)
  | none, none, .rdsr u d n => some (u, d, rdsrShape n e)
  | none, none, _ => none

/-- The predicate an instruction writes; a field above 47 discards the result. -/
def resultPred (i : Instr) : Option (BitVec 6) :=
  (match predForm i, i with
  | some f, _ => some f.p
  | none, .laneAny p _ _ | none, .laneAll p _ _ => some p
  | none, _ => none).filter (fun p => decide (p.toNat < 48))

/-- What an instruction writes for a lane after a fixed latency, as keys. -/
def resultKeys (e : Env) (i : Instr) (l : Lane) : List Nat :=
  (match resultRun e i with
  | some (u, d, run, even) => (match (dest e l u d run even).val with
    | .v n => (List.range run).map (n + ·)
    | .s n => (List.range run).map (fun j => sKey (n + j))
    | .none => [])
  | none => []) ++
  (match resultPred i with
  | some p => [predKey p]
  | none => []) ++
  (match i with
  | .xset _ k _ _ | .xoff _ k _ | .xadd _ k _ => [xKey k]
  | _ => [])

/-- Instructions that a guard does not mask (R83, R203, R216). -/
def unguarded : Instr → Bool
  | .mode _ _ | .guard _ _ | .fmt _ _ | .omap _ _ | .br _ _ _ _ | .jmp _ _ | .call _ _ _ _ | .callr _ _ | .ret
  | .barMeet _ _ | .barPost _ _ | .barAwait _ _ => true
  | _ => false

/-- The predicates that an instruction reads. -/
def sourcePreds (m : Mode) (i : Instr) : List Nat :=
  (if unguarded i then [] else [m.guard]) ++
  (match i with
  | .br _ p _ _ | .call _ p _ _ => [p.toNat]
  | .plog _ _ _ _ _ qa _ qb => [qa.toNat, qb.toNat]
  | .laneAny _ _ q | .laneAll _ _ q | .laneBallot _ _ q | .laneCount _ _ q | .laneFirst _ _ q => [q.toNat]
  | .ptov _ _ a b => (List.range b.toNat).map (a.toNat + ·)
  | _ => []) ++
  (match predForm i with
  | some f => if f.c = 0#2 then [] else [f.p.toNat]
  | none => [])

/-- The operand codes of an instruction's word: the fields of its format that name operands (R59-R61). -/
def operandCodes (i : Instr) (w : Nat) : List Nat :=
  match i with
  | .movi _ _ _ | .movh _ _ _ | .addi _ _ _ | .muli _ _ _ | .rdsr _ _ _ | .wrsr _ _ _ => [fld w 16 8]
  | .mode _ _ | .guard _ _ | .br _ _ _ _ | .call _ _ _ _ | .xset _ _ _ _ | .ptov _ _ _ _ => if (valueForm i).isSome then [fld w 16 8] else []
  | .ld8 _ _ _ _ | .ld16 _ _ _ _ | .ld32 _ _ _ _ | .ld64 _ _ _ _ | .ld128 _ _ _ _ | .st8 _ _ _ _ | .st16 _ _ _ _ | .st32 _ _ _ _
  | .st64 _ _ _ _ | .st128 _ _ _ _ | .lda _ _ _ _ | .strl _ _ _ _ | .pref _ _ _ _ | .dtag _ _ _ _ | .dplate _ _ _ _ => [fld w 16 8, fld w 8 8]
  | .spawn _ _ _ _ => [fld w 8 8]
  | _ => if (predForm i).isSome then [fld w 8 8, fld w 0 8] else [fld w 16 8, fld w 8 8, fld w 0 8]

/-- The index registers that an instruction reads: to name an operand (R67), or `xadd`'s own. -/
def sourceX (i : Instr) (w : Nat) : List Nat :=
  (match i with
  | .mma _ _ _ _ _ _ | .mmj _ _ _ _ _ _ | .accZero _ _ _ | .accLd _ _ _ _ | .accSt _ _ _ _ | .accRd _ _ _ | .accScale _ _ _ _ => []
  | .xadd _ k _ => [k.toNat]
  | _ => []) ++
  ((operandCodes i w).filter (fun c => decide (0xE0 ≤ c ∧ c ≤ 0xE7))).map (· - 0xE0)

/-- Both halves of a 64-lane group hold lanes of a gang. -/
def bothHalves (g : Group) (lanes : List Lane) : Bool :=
  g.width == 64 && lanes.any (fun l => decide (l.lid < 32)) && lanes.any (fun l => decide (32 ≤ l.lid))

/-- An issue takes two passes (R18, R81): both halves of a 64-lane group hold lanes of the gang, and the word is neither
uniform nor of the matrix family. -/
def twoPasses (g : Group) (lanes : List Lane) (w : Nat) : Bool :=
  let op := fld w 25 7
  bothHalves g lanes && !(bit w 24) && !(decide (0x78 ≤ op ∧ op ≤ 0x7A))

/-- The word a gang stands at. -/
def Sel.word (x : Sel) : Word := match x.clause with
  | some c => c.words.getD (c.slotOf x.pc) 0
  | none => 0

/-- The group with the registers that are not due tagged PENDING: an instruction that would wait for one of them then waits for
an interlock now (R22). -/
def Group.veil (g : Group) (late : List (Nat × Nat × Nat)) : Group :=
  let mark := fun (r : Reg) => { r with tag := Tag.pending }
  { g with
    lanes := g.lanes.map (fun l => { l with v := (late.filter (fun x => x.1 == l.lid && decide (x.2.1 < 192))).foldl (fun v x => modAt v x.2.1 mark) l.v }),
    sregs := (late.filter (fun x => decide (192 ≤ x.2.1 ∧ x.2.1 < 224))).foldl (fun ss x => modAt ss (x.2.1 - 192) mark) g.sregs }

/-- What an instruction does at a gang with some registers marked as not due: whether it would wait for one of them. -/
def State.waitsFor (s : State) (g : Group) (x : Sel) (i : Instr) (late : List (Nat × Nat × Nat)) : Bool :=
  match exec i (s.onDev (fun d => { d.modGroup g.gid (fun g => g.veil late) with sel := some x })) with
  | .fault _ => true
  | _ => false

/-- The operands of a gang's next instruction are free of interlocks (R22, R388). A dependent instruction of the same gang issues
in c + L, though the results of the upper half follow in c + 1 + L (log entry 21). -/
def State.unpaced (s : State) (g : Group) (x : Sel) : Bool :=
  g.pace.isEmpty ||
  (let now := s.dev.cycOf g.part g.core
   let lanes := g.gang x
   let later := fun (i : Nat) => if bothHalves g lanes && decide (32 ≤ i) then 1 else 0
   let late := g.pace.filter (fun y => lanes.any (fun l => l.lid == y.1) && decide (now + later y.1 < y.2.2))
   !late.any (fun y => y.2.1 == gangKey) &&
   (x.clause.isNone || late.isEmpty ||
    (match decodeWord x.word.toNat with
     | none => true
     | some i =>
       !(sourcePreds (Mode.ofWord g.mode) i).any (fun p => late.any (fun y => y.2.1 == 256 + p)) &&
       !(sourceX i x.word.toNat).any (fun k => late.any (fun y => y.2.1 == 320 + k)) &&
       !s.waitsFor g x i late)))

/-- Whether a lane is taken elsewhere by its gang's instruction (row 12). -/
def transfersLane (e : Env) (i : Instr) (l : Lane) : Bool := match i with
  | .br u p n _ | .call u p n _ => takesBranch p n (e.source u l)
  | .jmp _ _ | .callr _ _ | .ret => true
  | _ => false

/-- The cycles from an instruction to a lane's next one (rows 11, 12, 26, 28, 30). -/
def laneInterval (e : Env) (i : Instr) (l : Lane) : Nat :=
  if transfersLane e i l then 6
  else if e.slot + 1 < e.cl.len then gangInterval i
  else Nat.max 2 (gangInterval i)

/-- What an issue leaves not due: the results, a second pass's a cycle later than the first's, and the lanes' next instructions. -/
def paceOf (e : Env) (i : Instr) (now : Nat) : List (Nat × Nat × Nat) :=
  let second := twoPasses e.g e.lanes e.word.toNat
  e.lanes.flatMap (fun l =>
    (if e.m.passes l then (resultKeys e i l).map (fun k =>
      (l.lid, k, now + interval e.m i + (if second && decide (32 ≤ l.lid) && !decide (192 ≤ k ∧ k < 224) then 1 else 0))) else []) ++
    (if laneInterval e i l = 0 then [] else [(l.lid, gangKey, now + laneInterval e i l)]))

/-- The register that a place of errors names, as lane and key; an s register stands with every lane of the gang. -/
def ErrSite.keyOf (gid : Nat) (lids : List Nat) : ErrSite → List (Nat × Nat)
  | .reg g lid i => if g = gid then [(lid, i)] else []
  | .pred g lid i => if g = gid then [(lid, 256 + i)] else []
  | .xreg g lid i => if g = gid then [(lid, 320 + i)] else []
  | .sreg g i => if g = gid then lids.map (fun l => (l, sKey i)) else []
  | _ => []

/-- The predicate and index registers that an instruction reads for a lane, as keys. -/
def sourceKeys (e : Env) (i : Instr) (l : Lane) : List Nat :=
  if !unguarded i && !e.m.passes l then [256 + e.m.guard]
  else (sourcePreds e.m i).map (256 + ·) ++ (sourceX i e.word.toNat).map (320 + ·)

/-- The lanes for which an instruction reads a predicate or an index register with an uncorrectable error (R282). -/
def Env.namesHurt (e : Env) (i : Instr) : List Nat :=
  if e.s.st.errs.isEmpty then [] else
  (e.lanes.filter (fun l => e.s.st.errs.any (fun y => y.2 && (y.1.keyOf e.g.gid e.lids).any (fun k => k.1 == l.lid && decide (256 ≤ k.2) && (sourceKeys e i l).contains k.2)))).map (·.lid)

/-- The errors of registers as an instruction goes on (R282): the correctable ones of registers that it reads or writes are corrected, and
a register that it writes holds no error. -/
def State.regErrors (s : State) (g : Group) (x : Sel) (t : State) : State :=
  if s.st.errs.isEmpty then t
  else match (s.onDev (fun d => { d with sel := some x })).env?, decodeWord x.word.toNat with
    | some e, some i =>
      let went := (t.dev.part g.part).faults.length == (s.dev.part g.part).faults.length && t.dev.groups.all (fun k => k.gid != g.gid || k.parking.isNone)
      let keys := fun (y : ErrSite) => y.keyOf g.gid e.lids
      let used := (s.st.errs.map (·.1)).filter (fun y => !(keys y).isEmpty && (s.waitsFor g x i ((keys y).map (fun k => (k.1, k.2, 0))) ||
        (keys y).any (fun k => e.lanes.any (fun l => l.lid == k.1 && (sourceKeys e i l).contains k.2))))
      let written := fun (y : ErrSite) => went && (keys y).any (fun k => e.lanes.any (fun l => l.lid == k.1 && e.m.passes l && (resultKeys e i l).contains k.2))
      t.onSt (fun st => let st := st.correct used; { st with errs := st.errs.filter (fun y => !written y.1) })
    | _, _ => t

/-- What an issue takes of time: in lockup mode its results come due as R388 says, and it keeps the issue slot for its cycle, or for two
with a second pass (R18, R28). An instruction that has faulted or parked takes none. -/
def Dev.paced (d : Dev) (core slot : Nat) (g : Group) (x : Sel) : Dev :=
  let now := d.cycOf g.part g.core
  let d := d.modCore core (fun c => { c with busy := c.busy.set slot (now + if twoPasses g (g.gang x) x.word.toNat then 2 else 1) })
  if !d.lockup g.part then d
  else
    let bad := (d.part g.part).faults.any (fun r => r.gid == some g.gid) || (d.groups.any (fun k => k.gid == g.gid && k.parking.isSome))
    let e? : Option Env := ({ dev := { d with groups := [g], sel := some x }, st := Store.reset } : State).env?
    match e?, decodeWord x.word.toNat with
    | some e, some i =>
      if bad then d
      else d.modGroup g.gid (fun k => { k with pace := k.pace.filter (fun y => decide (now < y.2.2)) ++ paceOf e i now })
    | _, _ => d

end Sys2Proof.Machine
end

