-- ==== Sys2Proof/Machine/Sched.lean ====
section
/-!
DEFINITION. Selection for issue (R20-R29), the issue of the decoded word, what each turn of the agenda does, and the default order
of turns (log entry 2).
-/
namespace Sys2Proof.Machine
open Sys2Proof

/-! The word of the selected gang. -/

/-- A word that is no instruction faults for the whole gang (R96, R97). -/
def raiseBad (w : Word) (s : State) : Out :=
  withGang s (fun e => e.raise (match badWord w.toNat with | .opcode => .illegalOpcode | .operand => .illegalOperand) e.lids 0)

/-- The word at the selected gang's PC, decoded and executed. -/
def execWord (s : State) : Out :=
  match s.env? with
  | none => .fault .noGang
  | some e => match decodeWord e.word.toNat with
    | some i => if (e.namesHurt i).isEmpty then exec i s else e.raise .eccUncorrectable (e.namesHurt i) 0
    | none => raiseBad e.word s

/-- The selected gang's next step: its clause's header, or its word. -/
def selStep (s : State) (x : Sel) : Out :=
  let s := s.onDev (fun d => { d with sel := some x })
  if x.clause.isSome then execWord s else exec .clauseHeader s

/-! Gangs of a group (R20, R22, R23). -/

def selOf (g : Group) (l : Lane) : Sel := { gid := g.gid, pc := l.pc, depth := l.depth, clause := l.clause }

/-- R23's order: gangs that are not yielded first, then the smaller PC, then the greater call depth. Of two gangs equal in all of these,
which differ in their clause only, the one that holds the lower LID comes first (DESIGN CHOICE, log entry 47). -/
def gangFirst (a b : Bool × Sel) : Bool :=
  if a.1 != b.1 then b.1
  else if a.2.pc != b.2.pc then decide (a.2.pc.toNat < b.2.pc.toNat)
  else decide (b.2.depth < a.2.depth)

def insertGang (x : Bool × Sel) : List (Bool × Sel) → List (Bool × Sel)
  | [] => [x]
  | y :: ys => if x.2 = y.2 then y :: ys else if gangFirst x y then x :: y :: ys else y :: insertGang x ys

/-- The gangs of a group in R23's order. -/
def Group.gangs (g : Group) : List (Bool × Sel) :=
  (g.lanes.filter (fun l => l.live && l.hold.isNone)).foldl (fun acc l => insertGang (l.yielded, selOf g l) acc) []

/-- The first gang that is ready, with what its issue does: a gang is ready when its step is not blocked. -/
def firstReady (s : State) : List (Bool × Sel) → Option (Sel × Out)
  | [] => none
  | x :: xs => match selStep s x.2 with
    | .fault _ => firstReady s xs
    | o => some (x.2, o)

/-- What the issue of a group does, if it is ready: of the gangs whose operands are free of interlocks (R22). -/
def State.tryGroup (s : State) (g : Group) : Option (Sel × Out) :=
  if g.canIssue s.dev then firstReady s (g.gangs.filter (fun x => s.unpaced g x.2)) else none

/-! Selection of a group (R28, R338). -/

/-- An evaluator group counts as placed before every other group. -/
def Dev.ageOf (d : Dev) (g : Group) : Nat × Nat :=
  match d.team? g.tid with
  | some t => (if t.kind = .evaluator then 0 else 1, g.placed)
  | none => (1, g.placed)

def ageLt (a b : Nat × Nat) : Bool := decide (a.1 < b.1) || (a.1 == b.1 && decide (a.2 < b.2))

/-- Where a slot keeps the last selection among the groups of one placement. -/
def Dev.turnKey (d : Dev) (g : Group) (slot : Nat) : Nat := let a := d.ageOf g; (a.2 * 2 + a.1) * 4 + slot

/-- The group that R28 takes among some of a slot's. -/
def Dev.pickGroup (d : Dev) (core slot : Nat) (gs : List Group) : Option Group :=
  match (d.core core).starved.findSome? (fun x => if x.1 = slot then gs.find? (fun g => g.gid == x.2) else none) with
  | some g => some g
  | none => match gs with
    | [] => none
    | g0 :: _ =>
      let old := gs.foldl (fun (b : Group) g => if ageLt (d.ageOf g) (d.ageOf b) then g else b) g0
      let ties := gs.filter (fun g => d.ageOf g == d.ageOf old)
      let least := fun (l : List Group) => l.foldl (fun (b : Option Group) g => match b with
        | none => some g
        | some k => if g.gslot < k.gslot then some g else some k) none
      match (d.core core).lastSel.get? (d.turnKey old slot) with
      | some n => (match least (ties.filter (fun g => decide (n < g.gslot))) with
        | some g => some g
        | none => least ties)
      | none => least ties

/-- R28's order tried until a group is ready. -/
def State.trySlot (s : State) (core slot : Nat) : Nat → List Group → Option (Group × Sel × Out)
  | 0, _ => none
  | n + 1, gs => match s.dev.pickGroup core slot gs with
    | none => none
    | some g => match s.tryGroup g with
      | some r => some (g, r)
      | none => s.trySlot core slot n (gs.filter (fun k => k.gid != g.gid))

/-- The groups bound to an issue slot. -/
def Dev.slotGroups (d : Dev) (core slot : Nat) : List Group := (d.present core).filter (fun g => g.islot == slot)

/-- The issue slot is not taken by the second pass of an instruction (R18). -/
def Dev.slotFree (d : Dev) (core slot : Nat) : Bool := decide ((d.core core).busy.getD slot 0 ≤ d.cycOf (d.partOfCore core) core)

/-- After a selection: no gang stays selected; the group leaves the starved queue; of the slot's other groups those that were ready have
waited since the cycle in which they were first so; the instruction counts as progress. The fetch of a clause is no instruction (R52,
R23) and takes none of this. -/
def State.afterSelect (s : State) (core slot : Nat) (g : Group) (x : Sel) (others : List Nat) : State :=
  s.onDev (fun d =>
    if x.clause.isNone then { d with sel := none }
    else
    let now := d.cycOf g.part core
    let d := { d with sel := none, groups := d.groups.map (fun (k : Group) =>
      if k.core = core ∧ k.islot = slot then
        { k with since := if k.gid ≠ g.gid ∧ others.contains k.gid then some (k.since.getD now) else none }
      else k) }
    let key := d.turnKey g slot
    let d := d.modCore core (fun c => { c with starved := c.starved.filter (fun y => y.2 != g.gid),
                                               lastSel := Tab.set (c.lastSel.filter (fun y => d.groups.any (fun k => d.turnKey k (y.1 % 4) == y.1))) key g.gslot })
    ((d.modPart g.part (fun p => { p with progress := 0 })).modTeam g.tid (fun t => { t with candidateSince := none })).paced core slot g x)

/-- The slot's groups that have been ready and not selected for 256 cycles enter its starved queue before it selects (R28). -/
def State.starveAt (s : State) (core slot : Nat) : State :=
  let late := (s.dev.slotGroups core slot).filter (fun g => s.dev.starves g && (s.tryGroup g).isSome)
  if late.isEmpty then s else s.onDev (fun d => late.foldl (fun d g => d.enterStarved g) d)

/-- An issue slot selects a group and issues (R22, R23, R28), with whether an instruction issued (and no clause was fetched);
nothing is ready: `none`. -/
def State.issueAt (s : State) (core slot : Nat) : Option (Bool × Out) :=
  let s := s.starveAt core slot
  let gs := s.dev.slotGroups core slot
  if !s.dev.slotFree core slot then none
  else match s.trySlot core slot gs.length gs with
  | none => none
  | some (g, x, .next t) =>
    let others := (gs.filter (fun k => k.gid != g.gid && (s.tryGroup k).isSome)).map (·.gid)
    some (x.clause.isSome, .next ((s.regErrors g x t).afterSelect core slot g x others))
  | some (_, _, o) => some (true, o)

/-- An issue slot's turn. -/
def State.issue (s : State) (core slot : Nat) : Option Out := (s.issueAt core slot).map (·.2)

/-! Events that the units make by themselves. -/

/-- The event happens, or it cannot in this state. -/
def State.happen (s : State) (i : Instr) : Option Out := match exec i s with
  | .fault _ => none
  | o => some o

def firstEvent (s : State) : List Instr → Option Out
  | [] => none
  | i :: is => match s.happen i with
    | some o => some o
    | none => firstEvent s is

/-- Events that come before any issue: parks, replays of waiters, and what a cycle that has come releases (R218, R392, R397). -/
def Dev.urgent (d : Dev) : List Instr :=
  (d.groups.filter (·.parking.isSome)).map (fun g => .park g.gid) ++
  d.parts.flatMap (fun p => p.replaying.map (fun c => .waiterReplay c)) ++
  (d.groups.filter (fun g => g.lanes.any (fun l => match l.hold with | some (.wcyc _) => true | _ => false))).map (fun g => .timWcycRelease g.gid) ++
  d.teams.flatMap (fun t => (List.range 16).filterMap (fun b => match t.barriers[b]? with
    | some x => if x.leaving.isEmpty then none else some (Instr.barrierWaveRelease t.tid b)
    | none => none))

/-- The events of units, of the front ends and of firmware that may be due, in the default order: a halt before all others. -/
def Dev.due (d : Dev) : List Instr :=
  ((List.range 4).filter (fun q => (d.part q).halt)).map (fun q => Instr.halt q) ++
  d.parts.flatMap (fun p => p.stale.map (fun x => Instr.longLatencyCompletion x.1)) ++
  d.ops.flatMap (fun o => [Instr.longLatencyCompletion o.opid, .lockupBreach o.opid] ++ o.accs.flatMap (fun x => match x.cell with
    | some c => [Instr.deferTimeout c o.opid]
    | none => if o.kind == .strl || o.kind == .store then [Instr.writePerformed o.core (x.place.base / 128)] else [])) ++
  d.engs.flatMap (fun e => [Instr.engineCompletion e.eid, .lockupBreach e.eid]) ++
  (List.range 144).flatMap (fun c =>
    (if (d.core c).mq.isEmpty then [] else (d.core c).mq.map (fun x => Instr.lockupBreach x.opid) ++ [Instr.matrixOperation c]) ++
    (List.range 4).flatMap (fun p => match (d.core c).samplers[p]? with
      | some k => if k.order.isEmpty && k.fills.isEmpty then [] else [Instr.weightFill c p, .samplerQuad c p, .winvObserve c p]
      | none => [])) ++
  d.groups.flatMap (fun g => [Instr.groupRetire g.gid, .waitvRecheck g.gid, .starvedQueueEntry g.gid] ++
    g.lanes.filterMap (fun l => match l.hold with | some (.eng id _ _ _ _) => some (Instr.lockupBreach id) | _ => none)) ++
  d.groups.flatMap (fun g => match g.wait with
    | some (.regroup true _ _ _ _) => (d.groups.filter (fun k => k.tid == g.tid && k.gid != g.gid)).map (fun k => Instr.regroupMove g.gid k.gid)
    | _ => []) ++
  d.teams.flatMap (fun t => [Instr.jointOperationStart t.tid, .jointTimeout t.tid, .placementWave t.tid, .pendingLaunchAccept t.tid, .teamRetire t.tid]) ++
  (List.range 36).flatMap (fun c => (d.cluster c).waves.map (fun w => Instr.taskWaveTimeout c w.wno)) ++
  (List.range 4).flatMap (fun q => [Instr.evaluatorPlacement q]) ++
  (List.range 36).flatMap (fun c => [Instr.taskWavePlacement c, .fragmentGroupPlacement c]) ++
  (List.range 4).flatMap (fun q => (d.part q).launches.map (fun l => Instr.launchComplete l.lno) ++ [Instr.drawFrameAllocation q, .teamPlacement q]) ++
  d.teams.map (fun t => Instr.swapOut t.tid) ++
  (List.range 4).flatMap (fun q => (d.part q).draws.flatMap (fun x =>
    (List.range (ceilDiv x.width 32 * ceilDiv x.height 32)).flatMap (fun t =>
      if ((d.cluster (d.tileCluster q t)).frame? x.idx t).isNone then [Instr.tileFrameLoad q x.idx t]
      else
        let n := (x.ready t).length
        (if n < x.groupWidth / 4 ∧ !x.allClosed then [] else [Instr.fragmentGroupRelease q x.idx t (min (x.groupWidth / 4) n)]) ++
          [Instr.tileWriteBack q x.idx t]) ++
    x.frags.map (fun f => Instr.overprintFragment q x.idx f.px f.py))) ++
  (List.range 4).flatMap (fun q => if (d.part q).desc.isNone then [] else
    [Instr.parkedSwitchOut q, .preemptSave q, .preemptTimeout q, .watchdog q, .referencePause q] ++
    (List.range 64).flatMap (fun n => if (d.part q).queues[n]?.all (fun k => k.size == 0) then [] else
      [Instr.waitRecheck q n, .launchPacket q n, .feed q n, .wait q n, .signal q n, .draw q n, .copy q n, .fence q n, .indirect q n,
       .timestamp q n, .nop q n])) ++
  [.powerOn, .updateTakeover, .thermalStop] ++
  (if d.mbox.busy then [.create, .start, .preempt, .resume, .kill, .shootdown, .parkres, .queue, .qreset, .partition, .update, .attest, .clear] else []) ++
  (List.range 36).flatMap (fun c => [Instr.classChange c] ++ (List.range 3).flatMap (fun i =>
    [Instr.sensorFail c .thermal i, .sensorFail c .current i]) ++ (List.range 4).flatMap (fun k =>
    [Instr.limitStateChange c .thermal k, .limitStateChange c .current k, .limitStateChange c .power k]))

/-! Turns. -/

/-- A cycle or more passes: what is late at its end is a breach, the tasks that have arrived are numbered, time goes on, and barriers
whose cycle has come complete. -/
def State.pass (s : State) (cycles : List Nat) (ref : Nat) : State :=
  s.onDev (fun d => ((d.breachDue.gatherArrivals).elapse cycles ref).flipDue)

/-- A turn of the agenda. One that cannot be taken in this state passes. -/
def State.take (s : State) : Turn → Out
  | .issue core slot => (s.issue core slot).getD (.next s)
  | .event i => (s.happen i).getD (.next s)
  | .elapse cycles ref => .next (s.pass cycles ref)
  | .upset site hard => .next (s.onSt (fun st => st.upset site hard))
  | .readAhead q n u => .next (s.readAhead q n u)
  | .engineUnit e => .next (s.engUnit e)
  | .spillArea q base len => .next (s.spillArea q base len)
  | .unmappable q seq => .next (s.unmappable q seq)
  | .trace part on => .next (s.onDev (fun d => d.modPart part (fun p => { p with tracing := on })))
  | .tables w r i => .next ((s.onDev (fun d => d.writeTables i)).onSt (fun st => st.writeRoutes w r))
  | .cslope c v => .next (s.onDev (fun d => d.writeCslope c v))
  | .board f sn m v r n => .next (s.onDev (fun d => d.made f sn m v r n))
  | .debug q gid x => .next (s.debug q gid x)

/-- What a step ends with: every cache within its ways (R188, R281, R290). -/
def outFit : Out → Out
  | .next s => .next s.fit
  | o => o

/-- A turn of the agenda as a step takes it. -/
def State.turn (s : State) (t : Turn) : Out := outFit (s.take t)

def State.setPhase (s : State) (n : Nat) : State := s.onDev (fun d => { d with phase := n })

/-- The first issue slot, counted from a place, that can issue, and the place to go on from; 576 slots in all. -/
def State.firstSlot (s : State) : Nat → Nat → Option (Nat × Out)
  | 0, _ => none
  | n + 1, k => match (if (s.dev.slotGroups (k / 4) (k % 4)).isEmpty then none else s.issueAt (k / 4) (k % 4)) with
    | some (b, o) => some (if b then k + 1 else k, o)
    | none => s.firstSlot n (k + 1)

def outSetPhase (n : Nat) : Out → Out
  | .next s => .next (s.setPhase n)
  | o => o

/-- The default turn, when the agenda is empty: in each cycle every issue slot selects once, then the events that are due happen,
then one cycle passes. -/
def State.auto (s : State) : Out :=
  outFit <| match firstEvent s s.dev.urgent with
  | some o => o
  | none => match s.firstSlot (576 - s.dev.phase) s.dev.phase with
    | some (k, o) => outSetPhase k o
    | none => match firstEvent (s.setPhase 576) s.dev.due with
      | some o => o
      | none => .next ((s.setPhase 0).pass (List.replicate 36 1) 1)

/-! A word to be run at once. -/

/-- A context that runs, for `withFetchWord`: every field within its range. -/
def Desc.plain : Desc :=
  { Desc.none with ctxid := 1, ringBase := 0x1000000, ringLen := 512, stackPool := 0x10000000, stackLen := 0x10000000, root := 0x2000000,
                   heap := 0x10000000000, heapN := 16, timing := 4 }

/-- A clause of one word. -/
def oneWord (w : Nat) : Clause := { hdr := 0x10000#64, header := 0x07800001#32, words := [BitVec.ofNat 32 w] }

/-- One team of one group on core 0, its lanes at the word of a clause already fetched; the agenda issues it. -/
def State.placeWord (s : State) (w : Nat) : State :=
  let r := plainShape 0x10000#64 0 32 192 4096
  let r := { r with scratch := 65536, acc := 16 }
  let lane := fun (i : Nat) => { newLane i 192 0x10004#64 (BitVec.ofNat 64 i) (stackTop 4096) (0x10000000 + 0x2400000 + 4096 * i) [] false with
    clause := some (oneWord w) }
  let t := newTeam 0 .launch 0 0 0 r [0] 1 0
  let g := newGroup 0 0 0 0 32 192 0 0 0 0 0 [] ((List.range 32).map lane)
  s.onDev (fun d => { d with
    parts := modAt d.parts 0 (fun p => { p with desc := some Desc.plain, run := .running, halt := false, paused := false }),
    cores := modAt d.cores 0 (fun c => { c with cw := 1, starved := [], lastSel := [], busy := [0, 0, 0, 0] }),
    groups := [g], teams := [t], ops := [], engs := [], sel := none, agenda := [.issue 0 0] })

end Sys2Proof.Machine
end

