-- ==== Sys2Proof/Machine/Step.lean ====
section
/-!
DEFINITION. One step of the machine: the first turn of the agenda, or the default turn (log entry 2).
-/
namespace Sys2Proof.Machine
open Sys2Proof

/-- One step. -/
def step (s : State) : Host.Outcome State Fault Refusal :=
  match s.dev.agenda with
  | t :: rest => (s.onDev (fun d => { d with agenda := rest })).turn t
  | [] => s.auto

/-- `s` with one instruction word where the next step fetches its instruction: in a clause that a gang of core 0 has fetched. -/
def State.withFetchWord (s : State) (nbits w : Nat) : State := s.placeWord (w % 2 ^ nbits)

end Sys2Proof.Machine
end

