-- ==== Sys2Proof/Safety.lean ====
section
/-!
DEFINITION. The terms in which statements speak of a run: a gang that can issue, checks that find nothing, addresses that pass
R180, what an issue leaves alone, and the invariant of memory.
-/
namespace Sys2Proof.Machine
open Sys2Proof

/-- The selected gang of `s` stands in a clause and its group can issue (R22). -/
def Ready (s : State) (e : Env) : Prop := s.env? = some e ∧ e.g.canIssue s.dev = true

/-- The checks of R97 find neither a fault nor a register to wait for. -/
def Clean (cs : List (Nat × Chk)) : Prop := ∀ c ∈ cs, c.2.bad = [] ∧ c.2.wait = false

/-- No register read holds a handle that the read resolves (R76). -/
def NoHandles (cs : List (Nat × Chk)) : Prop := ∀ c ∈ cs, c.2.touch = []

/-- Every address is aligned and leads to a place that allows the access (R177-R180). -/
def Reaches (e : Env) (align : Nat) (need : Need) (rs : List Req) (ps : List (Req × Place)) : Prop :=
  (∀ r ∈ rs, r.va % align = 0) ∧ ps.map (·.1) = rs ∧ ∀ p ∈ ps, (e.agent p.1.lane).resolve e.s.st p.1.va need = .ok p.2

/-- No range lock meets an access (R202). -/
def Unlocked (e : Env) (n : Nat) (srcToo winLocks : Bool) (ps : List (Req × Place)) : Prop :=
  ∀ p ∈ ps, (winLocks = true ∨ p.1.va < windowBase) → e.s.dev.locked e.g.core srcToo (lockAt p.1.va p.2, n) = false

/-- The accesses pass the checks of R180 and lead to `ps`. -/
def Reached (e : Env) (n : Nat) (need : Need) (srcToo winLocks : Bool) (rs : List Req) (ps : List (Req × Place)) : Prop :=
  Reaches e n need rs ps ∧ Unlocked e n srcToo winLocks ps

/-- The bytes that a read at issue names can be had, and no deferred cell it meets must be waited for (R198, R282, R410). -/
def CellsReady (e : Env) (n : Nat) (ps : List (Req × Place)) : Prop :=
  (∀ p ∈ ps, e.s.dead e.g.core p.2 = false) ∧ ∀ x ∈ (e.holdOp .load 16 [] (cellsOf n ps)).accs, e.s.cellBar (e.holdOp .load 16 [] (cellsOf n ps)) x = none

/-- A read of `n` bytes by each lane passes them, its last byte too, and the bytes are at hand (R198, R209, R222). -/
def SpanReached (e : Env) (n : Nat) (rs : List (Lane × Nat)) (ps : List (Req × Place)) : Prop :=
  Reached e n .read false true (rs.map (fun r => { lane := r.1, va := r.2, data := [], writers := [] })) ps ∧ CellsReady e n ps ∧
  ∃ qs, Reached e 1 .read false true (rs.map (fun r => { lane := r.1, va := r.2 + n - 1, data := [], writers := [] })) qs

/-- No operation of the issuing lanes is outstanding. -/
def Quiet (e : Env) : Prop := ∀ l ∈ e.lanes, e.s.dev.laneHas e.g.gid l.lid (fun _ => true) = false

/-- The state after a fault has been taken at issue (R98, R316, R320): the one before it, with the halt line raised and the fault found recorded. -/
def faultState (e : Env) (code : FCode) (lids : List Nat) (addr : DWord) : State :=
  e.s.onDev (fun d => d.raiseFault e.g.part (faultOf d e.g e.t code e.sel.pc lids addr))

/-- What a lane holds apart from the bookkeeping of selection (R26) and of a resumption (R247). -/
def Lane.kept (l : Lane) : Lane := { l with yielded := false, spin := 0, skip := false }

/-- Nothing outside a group differs between two states. -/
def OnlyGroup (gid : Nat) (s t : State) : Prop := ∃ f : Group → Group, t = s.onDev (fun d => d.modGroup gid f)

/-- A group's lanes are the same but for the bookkeeping of selection where `f` says how each has changed. -/
def LanesBy (f : Lane → Lane) (g h : Group) : Prop := h.lanes.map Lane.kept = g.lanes.map (fun l => (f l).kept)

/-- The lane at a place of the group after an issue. -/
def LaneAfter (e : Env) (t : State) (k : Nat) (l : Lane) : Prop := ∃ g, t.dev.group? e.g.gid = some g ∧ g.lanes[k]? = some l

/-- The lane at a place of the group is one of the issuing gang, the one that its LID names. -/
def InGang (e : Env) (k : Nat) (l : Lane) : Prop :=
  e.g.lanes[k]? = some l ∧ e.lids.contains l.lid = true ∧ e.lanes.find? (fun m => m.lid == l.lid) = some l

/-- Where `out` gives the registers that each lane's operands make, an issue has written them: to the run of v registers that D
names, in every lane that passes the guard, from the lane itself or with U = 1 from the leader; to the run of s registers that D
names, from the leader (R66, R81, R83). -/
def ResultIn (e : Env) (t : State) (u : Bool) (d : Opnd) (sh : Nat × Bool) (out : Lane → List Reg) : Prop :=
  (∀ k l n j r, InGang e k l → e.m.passes l = true → (dest e l u d sh.1 sh.2).val = .v n → n + j < l.v.length →
    (out (if u then e.leader else l))[j]? = some r → ∃ l', LaneAfter e t k l' ∧ l'.v[n + j]? = some r) ∧
  (∀ n j r, u = true → e.passing ≠ [] → (dest e e.leader u d sh.1 sh.2).val = .s n → n + j < e.g.sregs.length →
    (out e.leader)[j]? = some r → ∃ g, t.dev.group? e.g.gid = some g ∧ g.sregs[n + j]? = some r)

/-! What an issue leaves alone. -/

/-- A register lies in the run that a destination names: `sreg` tells the s registers from a lane's own. -/
def InRun (d : Dst) (run r : Nat) (sreg : Bool) : Prop := match d with
  | .v n => sreg = false ∧ n ≤ r ∧ r < n + run
  | .s n => sreg = true ∧ n ≤ r ∧ r < n + run
  | .none => False

/-- The issuing group before and after: `G` relates the two, `L` each issuing lane before and after; its other lanes and every
other group are as they were, but for the bookkeeping of selection (R26). -/
def GroupFrame (e : Env) (w t : State) (G : Group → Group → Prop) (L : Lane → Lane → Prop) : Prop :=
  (∀ k, k ≠ e.g.gid → t.dev.group? k = w.dev.group? k) ∧
  ∀ g, w.dev.group? e.g.gid = some g → ∃ h, t.dev.group? e.g.gid = some h ∧ G g h ∧ h.lanes.length = g.lanes.length ∧
    ∀ (k : Nat) (a b : Lane), g.lanes[k]? = some a → h.lanes[k]? = some b →
      if e.lids.contains a.lid then L a b else b.kept = a.kept

/-- An issue that changes its own group and nothing else of the machine: no byte of memory, no other unit. -/
def GroupOnly (e : Env) (w t : State) (G : Group → Group → Prop) (L : Lane → Lane → Prop) : Prop :=
  t.st = w.st ∧ OnlyGroup e.g.gid w t ∧ GroupFrame e w t G L

/-- A lane whose place in the program alone has changed. -/
def Lane.movedOn (a b : Lane) : Prop := b.kept = { a.kept with pc := b.pc, clause := b.clause }

/-- A group of which nothing but the lanes has changed. -/
def Group.lanesOnly (g h : Group) : Prop := { h with lanes := g.lanes } = { g with since := none }

/-- A lane of which nothing has changed but the run of v registers that D names, and the stream counter if `stream`; nothing at all
if its guard is off (R83). -/
def WroteLane (e : Env) (u : Bool) (d : Opnd) (sh : Nat × Bool) (stream : Bool) (a b : Lane) : Prop :=
  b.kept = { a.kept with v := b.v, rctr := b.rctr, pc := b.pc, clause := b.clause } ∧
  (e.m.passes a = false → b.v = a.v ∧ b.rctr = a.rctr) ∧ (stream = false → b.rctr = a.rctr) ∧
  ∀ r : Nat, b.v[r]? ≠ a.v[r]? → InRun (dest e (e.source false a) u d sh.1 sh.2).val sh.1 r false

/-- A group of which nothing has changed but its lanes and, with U = 1, the run of s registers that D names. -/
def WroteGroup (e : Env) (u : Bool) (d : Opnd) (sh : Nat × Bool) (g h : Group) : Prop :=
  { h with lanes := g.lanes, sregs := g.sregs } = { g with since := none } ∧
  ∀ r : Nat, h.sregs[r]? ≠ g.sregs[r]? → u = true ∧ e.passing ≠ [] ∧ InRun (dest e e.leader u d sh.1 sh.2).val sh.1 r true

/-- A register before and after a read: unchanged, or a handle that the read has resolved to its status word (R76). -/
def HandleRead (t : Team) (x y : Reg) : Prop :=
  y = x ∨ ∃ w, x.tag = .future ∧ futView t x.bits = .status w ∧ y = { bits := w, tag := .n32 }

/-- The group's engine instructions wait for an entry (R202, R269). -/
def EngWaits (s : State) (gid : Nat) : Prop :=
  ∃ k ∈ s.dev.groups, k.gid = gid ∧ ∃ l ∈ k.lanes, ∃ n due rest sc fm, l.hold = some (.eng n due rest sc fm)

/-- They have a handle still to write to a register that `p` names with its lane. -/
def EngOwes (s : State) (gid : Nat) (p : Nat × Dst → Prop) : Prop :=
  ∃ k ∈ s.dev.groups, k.gid = gid ∧ ∃ l ∈ k.lanes, ∃ n due rest sc fm, l.hold = some (.eng n due rest sc fm) ∧ ∃ r ∈ rest, ∃ w ∈ r.writers, p w

/-- A group before and after the reads of an issue: registers of the issuing group hold their handles' status words, those of a
waiting engine instruction its handles as that goes on; nothing else has changed. -/
def ReadsKeep (e : Env) (s : State) (g h : Group) : Prop :=
  { h with lanes := g.lanes, sregs := g.sregs } = g ∧ h.lanes.length = g.lanes.length ∧ h.sregs.length = g.sregs.length ∧
  (∀ (k : Nat) (a b : Lane), g.lanes[k]? = some a → h.lanes[k]? = some b →
    b.kept = { a.kept with v := b.v, pc := b.pc, clause := b.clause, hold := b.hold } ∧ b.v.length = a.v.length ∧
    (¬ EngWaits s g.gid → b.pc = a.pc ∧ b.clause = a.clause ∧ b.hold = a.hold) ∧
    (¬ EngOwes s g.gid (fun w => w.1 = a.lid) → ∀ (r : Nat) (x y : Reg), a.v[r]? = some x → b.v[r]? = some y →
      HandleRead e.t x y ∧ (g.gid ≠ e.g.gid → y = x))) ∧
  (¬ EngOwes s g.gid (fun w => ∃ n, w.2 = .s n) → ∀ (r : Nat) (x y : Reg), g.sregs[r]? = some x → h.sregs[r]? = some y →
    HandleRead e.t x y ∧ (g.gid ≠ e.g.gid → y = x))

/-! What an instruction computes. -/

/-- An instruction that writes registers: where `when` holds and its checks find nothing it completes, and `out` gives the
registers that each lane's operands make. -/
def Gives (i : Instr) (when_ : Env → Prop) (out : Env → Lane → List Reg) : Prop :=
  ∃ f, valueForm i = some f ∧ ∀ (s : State) (e : Env), Ready s e → when_ e → Clean (valueChks e f.u f.d (f.shape e) f.val) →
    ∃ t, exec i s = .next t ∧ ResultIn e t f.u f.d (f.shape e) (out e)

/-- The same of a lane instruction. -/
def GivesAcross (i : Instr) (when_ : Env → Prop) (out : Env → Lane → List Reg) : Prop :=
  ∃ f, crossForm i = some f ∧ ∀ (s : State) (e : Env), Ready s e → when_ e → Clean (laneChks e f.d (f.shape e) f.rd) →
    ∃ t, exec i s = .next t ∧ ResultIn e t false f.d (f.shape e) (out e)

/-- Every lane that passes the guard holds a value in a predicate that exists. -/
def PredIn (e : Env) (t : State) (pd : Nat) (c : Lane → Bool) : Prop :=
  ∀ k l, InGang e k l → e.m.passes l = true → pd < 48 → ∃ l', LaneAfter e t k l' ∧ l'.p.getLsbD pd = c l

/-- An instruction of format P: where `when` holds and its checks find nothing it completes, and each lane that passes the guard
combines the condition `c` with the old value of pd by COMB (R60); `c` is taken from the leader's operands with U = 1 (R81). -/
def Sets (i : Instr) (when_ : Env → Prop) (c : Env → Lane → Bool) : Prop :=
  ∃ f, predForm i = some f ∧ ∀ (s : State) (e : Env), Ready s e → when_ e → Clean (e.readChks f.u (predRead f.p f.val e)) →
    ∃ t, exec i s = .next t ∧ PredIn e t f.p.toNat (fun l =>
      let new := c e (if f.u then e.leader else l)
      let old := l.p.getLsbD f.p.toNat
      if f.c = 0#2 then new else if f.c = 1#2 then old && new else if f.c = 2#2 then old || new else xor old new)

/-- The 32 bits a lane reads from an operand: of any tag, as a value of ETYPE, and tag-free. -/
def anyBits (e : Env) (l : Lane) (o : Opnd) : Word := (readAny e l o).val.bits
def elemBits (e : Env) (l : Lane) (o : Opnd) : Word := BitVec.ofNat 32 (readElem e l o).val
def moveBits (e : Env) (l : Lane) (o : Opnd) : Word := (readMove e l o).val.bits

/-- One register of a result. -/
def reg1 (w : Word) (t : Tag) : List Reg := [{ bits := w, tag := t }]

/-- The tag of a bit operation's result as R74 lists it. -/
def resultTag (e : Env) (l : Lane) (a b : Opnd) : Tag := match a, b with
  | .v _, _ | .s _, _ | .vx _, _ => (readAny e l a).val.tag
  | _, .v _ | _, .s _ | _, .vx _ => (readAny e l b).val.tag
  | _, _ => .n32

/-- A word of a table of the encodings: an instruction's word has its major opcode in bits 31 to 25 (R59). -/
def Major (i : Instr) (op : Nat) : Prop := ∀ w, encode i = some w → w / 2 ^ 25 = op

/-! Bytes of memory as a core reads them. -/

/-- The byte at a place as a core reads it, through its L1 or at the home. -/
def byteAt (st : Store) (core : Nat) (via : Via) (pl : Place) : List Byte := (st.read core via pl 1).2

/-- The bytes that a store of `n` bytes at a place changes: those bytes, and of a deferred cell that is not VALUE all of it,
whose other bytes become zero (R198). -/
def Touched (st : Store) (n : Nat) (pl : Place) (a : Nat) : Prop :=
  (pl.base ≤ a ∧ a < pl.base + n) ∨
  (pl.deferred = true ∧ pl.base / 16 ≤ a / 16 ∧ a / 16 ≤ (pl.base + n - 1) / 16 ∧ st.cellTag (a / 16) ≠ 0)

/-- Bytes of the area to which a partition's exact accumulators move (R292). -/
def InSpill (e : Env) : Place → Prop
  | .pa k _ _ _ => e.desc.spill ≤ k ∧ k < e.desc.spill + e.desc.spillLen
  | .scr _ => False

/-- A byte of the accumulator store that an entry of a matrix queue names: a slot, row and column of it (R249). -/
def MxEntry.owns (x : MxEntry) (a : Nat) : Prop :=
  ∃ r ∈ x.rows, ∃ j < x.ncols, accAt x.accKey x.accBase x.aux r.row j ≤ a ∧ a < accAt x.accKey x.accBase x.aux r.row j + accBytes x.aux

/-- Of the store nothing has changed but bytes of the accumulators that `own` names, and what is known of errors (R282). -/
def OnlySlots (own : Nat → Prop) (a b : Store) : Prop :=
  { b with acc := a.acc, errs := a.errs, corrected := a.corrected } = a ∧ ∀ n, ¬ own n → b.acc.get n = a.acc.get n

/-- No published cell has waiters left to be performed (R341). -/
def NoReplays (s : State) : Prop := ∀ q, (s.dev.part q).replaying = []

/-- A read of the byte that does not pass by the core's own dirty copy: at a place that an L1 may hold, or in a line that the
core's L1 does not hold. -/
def SeenPlainly (st : Store) (core : Nat) : Place → Prop
  | .scr _ => True
  | .pa k c sc df => (Place.pa k c sc df).inL1 = true ∨ lineAt st.lines core 0 (k / 128) = none

/-- The bytes of memory and of scratchpads as a core reads them at their home, whatever its L1 keeps, are the same in two stores. -/
def KeepsHome (core : Nat) (a b : Store) : Prop := ∀ pl, SeenPlainly a core pl → byteAt b core .home pl = byteAt a core .home pl

/-- The translation of an address is at hand: a TLB holds it, for a write with D set (R313, R314). -/
def Cached (st : Store) (a : Agent) (va : Nat) (wr : Bool) : Prop :=
  windowBase ≤ va ∨ ∃ k, st.tlbHit a.part a.core va = some k ∧ (wr = true → k.leaf.getLsbD 53 = true)

/-- No lane of the machine is held by a hold that `p` names. -/
def NoHold (s : State) (p : Hold → Prop) : Prop := ∀ g ∈ s.dev.groups, ∀ l ∈ g.lanes, ∀ h, l.hold = some h → ¬ p h

/-- A deferred cell that a read need not wait for: it is VALUE and its waiters have been served. -/
def SettledAt (s : State) (q : Nat) (pl : Place) : Prop :=
  pl.deferred = true → s.st.cellTag (cellOf pl.base) = 0 ∧ (s.dev.part q).replaying.contains (cellOf pl.base) = false

/-- The selected gang of `s` stands at a header and its group can issue (R22, R52); `a` is the agent that fetches for it. -/
def AtHeader (s : State) (x : Sel) (g : Group) (a : Agent) : Prop :=
  s.dev.sel = some x ∧ x.clause = none ∧ s.dev.group? x.gid = some g ∧ g.gang x ≠ [] ∧ g.canIssue s.dev = true ∧
  ∃ t, s.dev.team? g.tid = some t ∧ a = agentOf s.dev ((s.dev.part g.part).desc.getD Desc.none) t g 0

/-- A packet of a type is at hand with its words, and `u` is the state in which it may start: the front end read it before, or
chooses its queue and reads it now (R349, R354). Nothing holds it back for AFTER. -/
def PacketAt (s : State) (q n ty : Nat) (u : State) (ws : List Word) : Prop :=
  s.dev.serves q n = true ∧ (u.dev.queue q n).held ws = false ∧
  ((s.dev.queue q n).cur = some ws ∧ hdrType (ws.headD 0) = ty ∧ u = s ∨
   (s.dev.queue q n).cur = none ∧ (s.dev.part q).choice = some n ∧ packetType (s.nextHeader q n) = ty ∧
   ∃ v, s.readPacket q n = (v, .words ws) ∧ u = v.holdPacket q n ws)

/-- The mailbox holds a command that the module accepts, for a partition that exists if it names one (R408, R412, R417). -/
def Accepts (s : State) (code : Nat) (parted : Bool) : Prop :=
  s.dev.commanded code = true ∧ s.dev.barred code = false ∧ (parted = true → s.dev.cmdPart < s.dev.nparts)

/-- The response byte of a command that was carried out (R408). -/
def answered (s : State) : State := s.onDev (fun d => d.respond 0)

/-- A draw, and the cluster that owns one of its tiles (R377, R378). -/
def DrawAt (s : State) (q draw : Nat) (x : Draw) : Prop := s.dev.working q = true ∧ (s.dev.part q).draw? draw = some x

/-- A fault taken at the issue for exactly the lanes of the requests that meet it, the rest of the machine as it was; its ADDR is the first
one's address where the code has one (R97, R98; log entry 11). -/
def FaultsFor (e : Env) (out : Out) (code : FCode) (hasAddr : Bool) (rs : List Req) (p : Req → Prop) : Prop :=
  ∃ lids va, out = .next (faultState e code lids va) ∧ (∀ n, n ∈ lids ↔ ∃ r ∈ rs, r.lane.lid = n ∧ p r) ∧
    if hasAddr then ∃ (i : Nat) (r : Req), rs[i]? = some r ∧ p r ∧ va = BitVec.ofNat 64 r.va ∧ ∀ j < i, ∀ x, rs[j]? = some x → ¬ p x else va = 0

/-- The group is to park for those lanes, with nothing else done (R317). -/
def ParksFor (e : Env) (out : Out) (rs : List Req) (p : Req → Prop) : Prop :=
  ∃ r : FaultRec, out = .next (e.s.onDev (fun d => d.modGroup e.g.gid (fun g => { g with parking := some r }))) ∧
    (r.record 1 0).kind = 1 ∧ (r.record 1 0).fcode = 0x09 ∧ r.pc = e.sel.pc ∧ r.gid = some e.g.gid ∧
    (∀ n, r.mask.testBit n = true ↔ ∃ x ∈ rs, x.lane.lid = n ∧ p x) ∧
    ∃ (i : Nat) (x : Req), rs[i]? = some x ∧ p x ∧ r.addr = BitVec.ofNat 64 x.va ∧ ∀ j < i, ∀ y, rs[j]? = some y → ¬ p y

/-- The first step of R180 that some lane does not pass decides: alignment, a fatal translation, an absent one (log entry 11), permission,
a range lock. -/
def StopsByStep (e : Env) (out : Out) (align n : Nat) (need : Need) (srcToo winLocks : Bool) (refuse : Req → Place → Bool) (rs : List Req) : Prop :=
  let odd := fun (r : Req) => r.va % align ≠ 0
  let meets := fun (x : Resolved) (r : Req) => e.meets need refuse r = x
  let shut := fun (r : Req) => ∃ pl, e.meets need refuse r = .ok pl ∧ (winLocks = true ∨ r.va < windowBase) ∧
    e.s.dev.locked e.g.core srcToo (lockAt r.va pl, n) = true
  ((∃ r ∈ rs, odd r) → FaultsFor e out .align false rs odd) ∧
  ((∀ r ∈ rs, ¬ odd r) →
    ((∃ r ∈ rs, meets .fatal r) → FaultsFor e out .translation true rs (meets .fatal)) ∧
    ((∀ r ∈ rs, ¬ meets .fatal r) →
      ((∃ r ∈ rs, meets .absent r) → ParksFor e out rs (meets .absent)) ∧
      ((∀ r ∈ rs, ¬ meets .absent r) →
        ((∃ r ∈ rs, meets .perm r) → FaultsFor e out .permission true rs (meets .perm)) ∧
        ((∀ r ∈ rs, ¬ meets .perm r) → (∃ r ∈ rs, shut r) → FaultsFor e out .rangeLock true rs shut))))

/-- The invariant: memory, scratchpads and accumulators are in their canonical form, and every cached line is whole. -/
def Inv (s : State) : Prop := s.st.wf = true

end Sys2Proof.Machine
end

