-- ==== Sys2Proof/WellFormed.lean ====
section
/-!
DEFINITION. What an instruction's words alone decide (R55, R61-R67, R96, ranks 2 and 3 of R97): operand codes that name
something, runs inside the register files, number fields in range. What depends on MODE, NLIT or the register budget is checked
at issue. Of an event: the units and numbers it names exist.
-/
namespace Sys2Proof

/-- A predicate field: p0 to p47, or 63 (R60, R61). -/
def predField (p : BitVec 6) : Bool := decide (p.toNat < 48) || p == 63#6

/-- A source of a run of registers (R62, R65-R67). -/
def srcOk (o : Opnd) (run : Nat) (even : Bool) : Bool := match o with
  | .v n => !even || n.val % 2 == 0
  | .s n => (!even || n.val % 2 == 0) && decide (n.val + run ≤ 32)
  | .vx _ => true
  | .lit k => (!even || k.val % 2 == 0) && decide (k.val + run ≤ 7)
  | .const _ | .special _ => true
  | .reserved _ | .sink => false

/-- A destination of a run of registers: an s register only with U = 1 (R62, R81). -/
def destOk (o : Opnd) (run : Nat) (even u : Bool) : Bool := match o with
  | .v n => !even || n.val % 2 == 0
  | .s n => u && (!even || n.val % 2 == 0) && decide (n.val + run ≤ 32)
  | .vx _ | .sink => true
  | .lit _ | .const _ | .special _ | .reserved _ => false

/-- An even run that no constant or special can supply (R186, R195). -/
def runSrc (o : Opnd) (run : Nat) : Bool := match o with
  | .const _ | .special _ => false
  | o => srcOk o run true

/-- A vector register code (R249). -/
def vecSrc : Opnd → Bool
  | .v _ => true
  | _ => false

/-- The run of four of `omap` (R89): vector or scalar registers, or literals. -/
def omapSrc : Opnd → Bool
  | .const _ | .special _ => false
  | o => srcOk o 4 false

/-- The widths of MODE's fields in `mode`'s order (R84, R141). -/
def modeWidths : List Nat := [16, 16, 5, 3, 1, 1, 3, 3, 2, 1, 1, 1, 4]

/-- A field of `mode`, and an immediate within its width (R141). -/
def modeField (d i : Nat) : Bool := match modeWidths[d]? with
  | some w => decide (i < 2 ^ w)
  | none => false

/-- The instruction is well formed. -/
def wellFormed : Instr → Bool
  | .mode d i => modeField d.toNat i.toNat
  | .guard _ g => predField g
  | .fmt d a => decide (d.toNat < 8) && srcOk a 1 false
  | .omap d a => decide (d.toNat < 8) && omapSrc a
  | .xset _ _ b l => decide (b.toNat < 192) && decide (l.toNat < 192)
  | .xoff _ _ a => srcOk a 1 false
  | .xadd _ _ a => srcOk a 1 false
  | .mov u d a => destOk d 1 false u && srcOk a 1 false
  | .movi u d _ => destOk d 1 false u
  | .movh u d _ => destOk d 1 false u && (d != .sink)
  | .sel u d a b => destOk d 1 false u && (d != .sink) && srcOk a 1 false && srcOk b 1 false
  | .retag u d a t => destOk d 1 false u && srcOk a 1 false && decide (t.toNat ≤ 25)
  | .tagof u d a => destOk d 1 false u && srcOk a 1 false
  | .rdsr u d i => decide (i.toNat ≤ 0x13) && destOk d (if i = 0x0E#16 then 2 else 1) (i == 0x0E#16) u
  | .wrsr u d i => [0x0A, 0x0C, 0x0E].contains i.toNat && (i != 0x0A#16 || u) && srcOk d (if i = 0x0E#16 then 2 else 1) (i == 0x0E#16)
  | .add u d a b => destOk d 1 false u && srcOk a 1 false && srcOk b 1 false
  | .sub u d a b => destOk d 1 false u && srcOk a 1 false && srcOk b 1 false
  | .mul u d a b => destOk d 1 false u && srcOk a 1 false && srcOk b 1 false
  | .mulh u d a b => destOk d 1 false u && srcOk a 1 false && srcOk b 1 false
  | .mad u d a b => destOk d 1 false u && (d != .sink) && srcOk a 1 false && srcOk b 1 false
  | .div u d a b => destOk d 1 false u && srcOk a 1 false && srcOk b 1 false
  | .rem u d a b => destOk d 1 false u && srcOk a 1 false && srcOk b 1 false
  | .min u d a b => destOk d 1 false u && srcOk a 1 false && srcOk b 1 false
  | .max u d a b => destOk d 1 false u && srcOk a 1 false && srcOk b 1 false
  | .abs u d a => destOk d 1 false u && srcOk a 1 false
  | .neg u d a => destOk d 1 false u && srcOk a 1 false
  | .add64 u d a b => destOk d 2 true u && srcOk a 2 true && srcOk b 1 false
  | .mad64 u d a b => destOk d 2 true u && (d != .sink) && srcOk a 1 false && srcOk b 1 false
  | .clamp u d a b => destOk d 1 false u && (d != .sink) && srcOk a 1 false && srcOk b 1 false
  | .addi u d _ => destOk d 1 false u && (d != .sink)
  | .muli u d _ => destOk d 1 false u && (d != .sink)
  | .and u d a b => destOk d 1 false u && srcOk a 1 false && srcOk b 1 false
  | .or u d a b => destOk d 1 false u && srcOk a 1 false && srcOk b 1 false
  | .xor u d a b => destOk d 1 false u && srcOk a 1 false && srcOk b 1 false
  | .not u d a => destOk d 1 false u && srcOk a 1 false
  | .andn u d a b => destOk d 1 false u && srcOk a 1 false && srcOk b 1 false
  | .shl u d a b => destOk d 1 false u && srcOk a 1 false && srcOk b 1 false
  | .shr u d a b => destOk d 1 false u && srcOk a 1 false && srcOk b 1 false
  | .sra u d a b => destOk d 1 false u && srcOk a 1 false && srcOk b 1 false
  | .rot u d a b => destOk d 1 false u && srcOk a 1 false && srcOk b 1 false
  | .popc u d a => destOk d 1 false u && srcOk a 1 false
  | .clz u d a => destOk d 1 false u && srcOk a 1 false
  | .brev u d a => destOk d 1 false u && srcOk a 1 false
  | .bfx u d a b => destOk d 1 false u && srcOk a 1 false && srcOk b 1 false
  | .bfi u d a b => destOk d 1 false u && (d != .sink) && srcOk a 1 false && srcOk b 1 false
  | .perm u d a b => destOk d 1 false u && (d != .sink) && srcOk a 1 false && srcOk b 1 false
  | .ffs u d a => destOk d 1 false u && srcOk a 1 false
  | .ceq _ p _ a b => predField p && srcOk a 1 false && srcOk b 1 false
  | .cne _ p _ a b => predField p && srcOk a 1 false && srcOk b 1 false
  | .clt _ p _ a b => predField p && srcOk a 1 false && srcOk b 1 false
  | .cle _ p _ a b => predField p && srcOk a 1 false && srcOk b 1 false
  | .cgt _ p _ a b => predField p && srcOk a 1 false && srcOk b 1 false
  | .cge _ p _ a b => predField p && srcOk a 1 false && srcOk b 1 false
  | .cun _ p _ a b => predField p && srcOk a 1 false && srcOk b 1 false
  | .cclass _ p _ a b => predField p && srcOk a 1 false && srcOk b 1 false
  | .plog _ p _ f _ qa ib qb => predField p && predField qa && predField qb && (f != 3#2 || (!ib && qb == 0#6))
  | .ptov u d a b => destOk d 1 false u && decide (a.toNat ≤ 47) && decide (1 ≤ b.toNat ∧ b.toNat ≤ 32)
  | .vtop _ p _ a b => predField p && srcOk a 1 false && srcOk b 1 false
  | .pset _ p _ a b => predField p && srcOk a 1 false && srcOk b 1 false
  | .shfl d a b => destOk d 1 false false && srcOk a 1 false && srcOk b 1 false
  | .shfx d a b => destOk d 1 false false && srcOk a 1 false && srcOk b 1 false
  | .laneAny p _ q => predField p && predField q
  | .laneAll p _ q => predField p && predField q
  | .laneBallot d _ q => destOk d 1 false false && predField q
  | .laneBcast d a => destOk d 1 false false && srcOk a 1 false
  | .laneCount d _ q => destOk d 1 false false && predField q
  | .laneFirst d _ q => destOk d 1 false false && predField q
  | .laneRnd d => destOk d 1 false false
  | .laneRadd d a => destOk d 1 false false && srcOk a 1 false
  | .laneRmin d a => destOk d 1 false false && srcOk a 1 false
  | .laneRmax d a => destOk d 1 false false && srcOk a 1 false
  | .laneRband d a => destOk d 1 false false && srcOk a 1 false
  | .laneRbor d a => destOk d 1 false false && srcOk a 1 false
  | .laneRbxor d a => destOk d 1 false false && srcOk a 1 false
  | .laneScan d a => destOk d 1 false false && srcOk a 1 false
  | .regrpGive _ p a => predField p && srcOk a 1 false
  | .regrpTake _ p a => predField p && srcOk a 1 false
  | .fms u d a b => destOk d 1 false u && (d != .sink) && srcOk a 1 false && srcOk b 1 false
  | .fnma u d a b => destOk d 1 false u && (d != .sink) && srcOk a 1 false && srcOk b 1 false
  | .rcp u d a => destOk d 1 false u && srcOk a 1 false
  | .rsq u d a => destOk d 1 false u && srcOk a 1 false
  | .sqrt u d a => destOk d 1 false u && srcOk a 1 false
  | .exp2 u d a => destOk d 1 false u && srcOk a 1 false
  | .log2 u d a => destOk d 1 false u && srcOk a 1 false
  | .sinp u d a => destOk d 1 false u && srcOk a 1 false
  | .cosp u d a => destOk d 1 false u && srcOk a 1 false
  | .frac u d a => destOk d 1 false u && srcOk a 1 false
  | .rint u d a => destOk d 1 false u && srcOk a 1 false
  | .cvt u d a f t => destOk d 1 false u && srcOk a 1 false && decide (t.toNat ≤ 12) && (f == 0#3 || t == 8#4)
  | .pack u d a f t => destOk d 1 false u && srcOk a 1 false && decide (t.toNat ≤ 12) && (f == 0#3 || t == 8#4)
  | .unpack u d a f t => destOk d 1 false u && srcOk a 1 false && decide (t.toNat ≤ 12) && (f == 0#3 || t == 8#4)
  | .dot u d a b => destOk d 1 false u && (d != .sink) && srcOk a 1 false && srcOk b 1 false
  | .ld8 u d a _ => destOk d 1 false u && srcOk a 2 true
  | .ld16 u d a _ => destOk d 1 false u && srcOk a 2 true
  | .ld32 u d a _ => destOk d 1 false u && srcOk a 2 true
  | .ld64 u d a _ => destOk d 2 true u && srcOk a 2 true
  | .ld128 u d a _ => destOk d 4 true u && srcOk a 2 true
  | .st8 _ d a _ => srcOk d 1 false && srcOk a 2 true
  | .st16 _ d a _ => srcOk d 1 false && srcOk a 2 true
  | .st32 _ d a _ => srcOk d 1 false && srcOk a 2 true
  | .st64 _ d a _ => runSrc d 2 && srcOk a 2 true
  | .st128 _ d a _ => runSrc d 4 && srcOk a 2 true
  | .lda u d a _ => destOk d 1 false u && srcOk a 2 true
  | .strl _ d a _ => srcOk d 1 false && srcOk a 2 true
  | .fenceFull _ => true
  | .fenceAcq _ => true
  | .fenceRel _ => true
  | .fenceEngine _ => true
  | .cmoClean _ l a b => decide (l.toNat ≤ 3) && srcOk a 2 true && srcOk b 1 false
  | .cmoInv _ l a b => decide (l.toNat ≤ 3) && srcOk a 2 true && srcOk b 1 false
  | .cmoCinv _ l a b => decide (l.toNat ≤ 3) && srcOk a 2 true && srcOk b 1 false
  | .cmoSettle _ l a b => decide (l.toNat ≤ 3) && srcOk a 2 true && srcOk b 1 false
  | .pref _ _ a _ => srcOk a 2 true
  | .dtag u d a _ => destOk d 1 false u && srcOk a 2 true
  | .aadd u d a b => destOk d 1 false u && srcOk a 2 true && srcOk b 1 false
  | .amin u d a b => destOk d 1 false u && srcOk a 2 true && srcOk b 1 false
  | .amax u d a b => destOk d 1 false u && srcOk a 2 true && srcOk b 1 false
  | .aand u d a b => destOk d 1 false u && srcOk a 2 true && srcOk b 1 false
  | .aor u d a b => destOk d 1 false u && srcOk a 2 true && srcOk b 1 false
  | .axor u d a b => destOk d 1 false u && srcOk a 2 true && srcOk b 1 false
  | .axchg u d a b => destOk d 1 false u && srcOk a 2 true && srcOk b 1 false
  | .acas u d a b => destOk d 1 false u && srcOk a 2 true && runSrc b 2
  | .dplate _ d a _ => runSrc d 4 && srcOk a 2 true
  | .dpub d n => runSrc d 4 && decide (1 ≤ n.toNat ∧ n.toNat ≤ 16)
  | .galRes u d a => destOk d 2 true u && srcOk a 2 true
  | .galCom _ d a => srcOk d 2 true && srcOk a 2 true
  | .galTake u d a => destOk d 2 true u && srcOk a 2 true
  | .galFree _ d a => srcOk d 2 true && srcOk a 2 true
  | .fpop u d a p => destOk d 16 true u && srcOk a 1 false && predField p
  | .br _ p _ _ => predField p
  | .jmp _ a => srcOk a 2 true
  | .call _ p _ _ => predField p
  | .callr _ a => srcOk a 2 true
  | .ret => true
  | .exit _ => true
  | .exitSuccessor _ a => srcOk a 2 true
  | .barMeet _ d => decide (d.toNat < 16)
  | .barPost _ d => decide (d.toNat < 16)
  | .barAwait _ d => decide (d.toNat < 16)
  | .waitv u d a b => destOk d 1 false u && srcOk a 2 true && srcOk b 1 false
  | .spawn _ r a _ => decide (1 ≤ r.toNat ∧ r.toNat ≤ 24) && runSrc a 4
  | .launch _ a => srcOk a 2 true
  | .futWait u d a => destOk d 1 false u && srcOk a 1 false
  | .futTest u d a => destOk d 1 false u && srcOk a 1 false
  | .futCancel _ a => srcOk a 1 false
  | .futAdopt u d a => destOk d 1 false u && srcOk a 1 false
  | .timCyc u d => destOk d 2 true u
  | .timWcyc _ a => srcOk a 2 true
  | .timPclass _ a => srcOk a 1 false
  | .timYield _ => true
  | .timLockq u d a => destOk d 1 false u && srcOk a 1 false
  | .mma _ a _ _ _ _ => vecSrc a
  | .mmj _ a _ _ _ _ => vecSrc a
  | .accZero _ _ x => decide (x.toNat ≤ 3)
  | .accLd a _ _ x => vecSrc a && decide (x.toNat ≤ 3)
  | .accSt a _ _ x => vecSrc a && decide (x.toNat ≤ 3)
  | .accRd d _ x => vecSrc d && decide (x.toNat ≤ 3)
  | .accScale a _ _ x => vecSrc a && decide (x.toNat ≤ 3)
  | .smp d a _ => destOk d 2 true false && srcOk a 2 false
  | .engCopy u d a => destOk d 1 false u && srcOk a 2 true
  | .engColl u d a => destOk d 1 false u && srcOk a 2 true
  | .engGath u d a => destOk d 1 false u && srcOk a 2 true
  | .engXfer u d a => destOk d 1 false u && srcOk a 2 true
  | .engSmma u d a => destOk d 1 false u && srcOk a 2 true
  | .engWpin u d a => destOk d 1 false u && srcOk a 2 true
  | .engWinv u d a => destOk d 1 false u && srcOk a 2 true
  | .sysTrap _ a => srcOk a 1 false
  | .sysBrk _ a => srcOk a 1 false
  | .sysPerf _ a => srcOk a 1 false
  | .primTri d a => srcOk d 1 false && srcOk a 1 false
  | .primEll d a => srcOk d 1 false && srcOk a 1 false
  | .primPt d a => srcOk d 1 false && srcOk a 1 false
  | .primCut => true
  | .primFout a => srcOk a 1 false
  | .primKill => true
  | .clauseHeader => true
  | .starvedQueueEntry _ => true
  | .longLatencyCompletion _ => true
  | .groupRetire _ => true
  | .teamRetire _ => true
  | .regroupMove _ _ => true
  | .barrierWaveRelease _ b => decide (b < 16)
  | .placementWave _ => true
  | .taskWaveTimeout cluster _ => decide (cluster < 36)
  | .taskWavePlacement cluster => decide (cluster < 36)
  | .evaluatorPlacement part => decide (part < 4)
  | .waiterReplay _ => true
  | .deferTimeout _ _ => true
  | .matrixOperation core => decide (core < 144)
  | .jointOperationStart _ => true
  | .jointTimeout _ => true
  | .engineCompletion _ => true
  | .launchComplete _ => true
  | .pendingLaunchAccept _ => true
  | .teamPlacement part => decide (part < 4)
  | .swapOut _ => true
  | .waitvRecheck _ => true
  | .timWcycRelease _ => true
  | .translationWalk core _ _ => decide (core < 144)
  | .park _ => true
  | .parkedSwitchOut part => decide (part < 4)
  | .halt part => decide (part < 4)
  | .preemptSave part => decide (part < 4)
  | .preemptTimeout part => decide (part < 4)
  | .watchdog part => decide (part < 4)
  | .lockupBreach _ => true
  | .referencePause part => decide (part < 4)
  | .memoryRefresh => true
  | .scrubPass => true
  | .l2LineMigration part _ _ => decide (part < 4)
  | .telemetrySlot cluster thermal current _ => decide (cluster < 36) && decide (thermal.length = 3) && decide (current.length = 3)
  | .sensorFail cluster _ idx => decide (cluster < 36) && decide (idx < 3)
  | .limitStateChange cluster _ level => decide (cluster < 36) && decide (level < 4)
  | .classChange cluster => decide (cluster < 36)
  | .droopStretch cluster => decide (cluster < 36)
  | .thermalStop => true
  | .doorbell part queue _ => decide (part < 4) && decide (queue < 64)
  | .stoptail part _ => decide (part < 4)
  | .launchPacket part queue => decide (part < 4) && decide (queue < 64)
  | .feed part queue => decide (part < 4) && decide (queue < 64)
  | .wait part queue => decide (part < 4) && decide (queue < 64)
  | .waitRecheck part queue => decide (part < 4) && decide (queue < 64)
  | .signal part queue => decide (part < 4) && decide (queue < 64)
  | .draw part queue => decide (part < 4) && decide (queue < 64)
  | .copy part queue => decide (part < 4) && decide (queue < 64)
  | .fence part queue => decide (part < 4) && decide (queue < 64)
  | .indirect part queue => decide (part < 4) && decide (queue < 64)
  | .timestamp part queue => decide (part < 4) && decide (queue < 64)
  | .nop part queue => decide (part < 4) && decide (queue < 64)
  | .drawFrameAllocation part => decide (part < 4)
  | .fragmentGroupRelease part _ _ _ => decide (part < 4)
  | .fragmentGroupPlacement cluster => decide (cluster < 36)
  | .tileFrameLoad part _ _ => decide (part < 4)
  | .overprintFragment part _ _ _ => decide (part < 4)
  | .tileWriteBack part _ _ => decide (part < 4)
  | .samplerQuad core sampler => decide (core < 144) && decide (sampler < 4)
  | .weightFill core sampler => decide (core < 144) && decide (sampler < 4)
  | .winvObserve core sampler => decide (core < 144) && decide (sampler < 4)
  | .hostWrite _ _ data => !data.isEmpty
  | .hostRead _ _ n => decide (n ≠ 0)
  | .linkUnreachable port => decide (port < 12)
  | .pcieLinkTrained _ _ => true
  | .powerOn => true
  | .create => true
  | .start => true
  | .preempt => true
  | .resume => true
  | .kill => true
  | .shootdown => true
  | .parkres => true
  | .queue => true
  | .qreset => true
  | .partition => true
  | .update => true
  | .updateTakeover => true
  | .attest => true
  | .clear => true
  | .hostAtomic _ _ addr wide _ _ => decide (addr % (if wide then 8 else 4) = 0)
  | .l1LineEviction core _ => decide (core < 144)
  | .writePerformed core _ => decide (core < 144)
  | .unitFailure _ _ => true

end Sys2Proof
end

