-- ==== Sys2Proof/Certificates/Slice0/Obligations.lean ====
section
/-!
DEFINITION. The statements for the provers.
-/
open Sys2Proof Sys2Proof.Machine

/-- Decoding the encoded word of a well-formed instruction gives the instruction back. Rests on 03_instruction_words.md, R59,
R60, R61. -/
def Obligations.DecodeInvertsEncode : Prop :=
  ∀ (i : Instr) (w : Nat), wellFormed i = true → encode i = some w → decodeWord w = some i

/-- Encoding a decoded word gives the word back, well-formed or not: no two words decode alike. Rests on 03_instruction_words.md,
R59, R60, R61. -/
def Obligations.EncodeInvertsDecode : Prop :=
  ∀ (w : Nat) (i : Instr), w < 2 ^ 32 → decodeWord w = some i → encode i = some w

/-- Words written out from the encoding tables decode to their instructions. Rests on 03_instruction_words.md, R59, R60, R61,
R251, R260. -/
def Obligations.WrittenOutWordsDecode : Prop :=
  decodeWord (0x10 * 2 ^ 25 + 1 * 2 ^ 16 + 2 * 2 ^ 8 + 3) = some (.add false (.v 1) (.v 2) (.v 3)) ∧
  decodeWord (0x09 * 2 ^ 25 + 1 * 2 ^ 24 + 7 * 2 ^ 16 + 0x3FC0) = some (.movi true (.v 7) 0x3FC0#16) ∧
  decodeWord (0x36 * 2 ^ 25 + 5 * 2 ^ 18 + 1 * 2 ^ 16 + 2 * 2 ^ 8 + 3) = some (.cun false 5#6 1#2 (.v 2) (.v 3)) ∧
  decodeWord (0x05 * 2 ^ 25 + 3 * 2 ^ 21 + 10 * 2 ^ 8 + 20) = some (.xset false 3#3 10#8 20#8) ∧
  decodeWord (0x52 * 2 ^ 25 + 4 * 2 ^ 16 + 6 * 2 ^ 8 + 9) = some (.ld32 false (.v 4) (.v 6) 9#8) ∧
  decodeWord (0x67 * 2 ^ 25 + 4 * 2 ^ 16 + 6 * 2 ^ 8 + 8) = some (.acas false (.v 4) (.v 6) (.v 8)) ∧
  decodeWord (0x6C * 2 ^ 25 + 5 * 2 ^ 18 + 1 * 2 ^ 17 + 0xFFFE) = some (.br false 5#6 true 0xFFFE#16) ∧
  decodeWord (0x78 * 2 ^ 25 + 1 * 2 ^ 24 + 8 * 2 ^ 16 + 16 * 2 ^ 10 + 2 * 2 ^ 8 + 3 * 2 ^ 5 + 5) =
    some (.mma true (.v 8) 16#6 2#2 3#3 5#4) ∧
  decodeWord (0x7A * 2 ^ 25 + 8 * 2 ^ 16 + 4 * 2 ^ 10 + 1 * 2 ^ 8 + 2 * 2 ^ 5 + 1 * 2 ^ 2) = some (.accLd (.v 8) 4#6 1#2 2#3) ∧
  decodeWord (0x7D * 2 ^ 25 + 2 * 2 ^ 8 + 0) = some (.sysTrap false (.v 2)) ∧
  decodeWord (0x7D * 2 ^ 25 + 2 * 2 ^ 8 + 1) = some (.sysBrk false (.v 2))

/-- A word that is no instruction faults for the whole gang: ILLEGAL_OPCODE where R94 and R96 leave its major opcode, family sub-opcode, fence
kind, cmo kind or level unassigned, else ILLEGAL_OPERAND. Rests on R59, R61, R94, R95, R96, R97, R98. -/
def Obligations.WordsThatAreNoInstructionFault : Prop :=
  let families : List (Nat × Nat) := [(0x3E, 13), (0x3F, 1), (0x6A, 3), (0x72, 2), (0x76, 3), (0x77, 4), (0x7C, 6), (0x7D, 2), (0x7E, 5)]
  let unassigned := fun (w : Nat) => let op := w / 2 ^ 25 % 2 ^ 7
    op = 0x00 ∨ op = 0x40 ∨ op = 0x7F ∨ (∃ f ∈ families, op = f.1 ∧ f.2 < w % 2 ^ 8) ∨ (op = 0x7A ∧ 4 < w / 2 ^ 2 % 2 ^ 3) ∨
      (op = 0x5C ∧ 3 < w / 2 ^ 16 % 2 ^ 8) ∨ (op = 0x5D ∧ (3 < w / 2 ^ 20 % 2 ^ 4 ∨ 3 < w / 2 ^ 16 % 2 ^ 4))
  ∀ (s : State) (e : Env), Ready s e → let w := e.word.toNat
    (unassigned w → decodeWord w = none ∧ execWord s = .next (faultState e .illegalOpcode e.lids 0)) ∧
    (¬ unassigned w → decodeWord w = none → execWord s = .next (faultState e .illegalOperand e.lids 0)) ∧
    ∀ code, (faultState e code e.lids 0).st = s.st ∧ (faultState e code e.lids 0).dev.groups = s.dev.groups

/-- A step that issues runs the instruction that the word at the gang decodes to. Rests on R18, R20, R22, R23, R28, R51. -/
def Obligations.StepRunsTheDecodedWord : Prop :=
  ∀ (s t : State) (core slot : Nat) (rest : List Turn) (g : Group) (x : Bool × Sel) (more : List (Bool × Sel)) (e : Env) (i : Instr),
    s.dev.agenda = .issue core slot :: rest →
    let s0 := (s.onDev (fun d => { d with agenda := rest })).starveAt core slot
    let s1 := s0.onDev (fun d => { d with sel := some x.2 })
    s0.dev.slotFree core slot = true → s0.dev.pickGroup core slot (s0.dev.slotGroups core slot) = some g → g.canIssue s0.dev = true →
    g.gangs = x :: more → s0.unpaced g x.2 = true →
    x.2.clause.isSome = true → s1.env? = some e → decodeWord e.word.toNat = some i → e.namesHurt i = [] → exec i s1 = .next t →
    execWord s1 = exec i s1 ∧ ∃ others, step s = .next ((s0.regErrors g x.2 t).afterSelect core slot g x.2 others).fit

/-- A step whose turn is an event is what the event does, or passes where the event cannot happen. Rests on
95_what_each_step_holds.md. -/
def Obligations.StepTakesTheEventOfItsTurn : Prop :=
  ∀ (s : State) (i : Instr) (rest : List Turn), s.dev.agenda = .event i :: rest →
    let s0 := s.onDev (fun d => { d with agenda := rest })
    (∀ t, exec i s0 = .next t → step s = .next t.fit) ∧ (∀ f, exec i s0 = .fault f → step s = .next s0.fit)

/-- An issue turn issues: where a group of its slot is ready, the one that R28 chooses among the ready ones runs its first ready gang
(R23) to a next state; where none is, or the slot is taken, the turn passes. Rests on R18, R22, R23, R27, R28. -/
def Obligations.AnIssueTurnIssuesFromTheChosenReadyGroup : Prop :=
  ∀ (s : State) (core slot : Nat) (rest : List Turn), s.dev.agenda = .issue core slot :: rest →
    let s' := s.onDev (fun d => { d with agenda := rest })
    let s0 := s'.starveAt core slot
    let ready := (s0.dev.slotGroups core slot).filter (fun g => (s0.tryGroup g).isSome)
    (s0.dev.slotFree core slot = true → ready ≠ [] → ∃ g x t others, s0.dev.pickGroup core slot ready = some g ∧
      s0.tryGroup g = some (x, .next t) ∧ selStep s0 x = .next t ∧
      step s = .next ((s0.regErrors g x t).afterSelect core slot g x others).fit) ∧
    (s0.dev.slotFree core slot = false ∨ ready = [] → step s = .next s'.fit)

/-- Every step keeps memory, scratchpads and accumulators in canonical form and every cached line whole. Rests on
17_memory_model.md, R182, R297, R298. -/
def Obligations.MemoryStaysCanonical : Prop :=
  ∀ s t : State, Inv s → step s = .next t → Inv t

/-- Memory after reset is canonical and lists nothing; what a byte that nothing has written reads as is the model's choice, log entry 4. Rests
on 17_memory_model.md. -/
def Obligations.ResetMemoryIsCanonical : Prop :=
  Inv State.reset ∧ ∀ a, State.reset.st.mem.get a = emptyByte

/-- A MODE that holds an invalid field never exists. Rests on R84, R85. -/
def Obligations.ModeStaysLegal : Prop :=
  (∀ g ∈ State.reset.dev.groups, modeLegal g.mode.toNat = true) ∧
  ∀ s t : State, (∀ g ∈ s.dev.groups, modeLegal g.mode.toNat = true) → step s = .next t →
    ∀ g ∈ t.dev.groups, modeLegal g.mode.toNat = true

/-- Every instruction that writes registers, predicates, group state, index or special registers completes when its checks find nothing. Rests
on R60, R81, R82, R83, R92, R139, R152, R153, R154, R163, R203, R210. -/
def Obligations.ComputeInstructionsComplete : Prop :=
  (∀ (i : Instr) (f : ValueForm) (s : State) (e : Env), valueForm i = some f → Ready s e →
    Clean (valueChks e f.u f.d (f.shape e) f.val) → exec i s = .next (valueNext e f.u f.d (f.shape e) f.val)) ∧
  (∀ (i : Instr) (f : PredForm) (s : State) (e : Env), predForm i = some f → Ready s e →
    Clean (e.readChks f.u (predRead f.p f.val e)) → exec i s = .next (predNext e f.u f.p f.c f.val)) ∧
  (∀ (i : Instr) (f : CrossForm) (s : State) (e : Env), crossForm i = some f → Ready s e → Clean (laneChks e f.d (f.shape e) f.rd) →
    exec i s = .next (laneNext e f.d (f.shape e) f.rd f.res)) ∧
  (∀ (p : BitVec 6) (n : Bool) (q : BitVec 6) (s : State) (e : Env), Ready s e → predOk p.toNat = true → predOk q.toNat = true →
    exec (.laneAny p n q) s = .next (voteNext e p n q anyOf) ∧ exec (.laneAll p n q) s = .next (voteNext e p n q allOf)) ∧
  (∀ (i : Instr) (f : GroupForm) (s : State) (e : Env), groupForm i = some f → Ready s e → Clean (groupChks e f.u f.rd) →
    exec i s = .next (groupNext e f.u f.rd)) ∧
  (∀ (i : Instr) (f : LaneForm) (s : State) (e : Env), laneForm i = some f → Ready s e → Clean (e.readChks f.u (f.rd e)) →
    exec i s = .next (lanesNext e f.u f.rd)) ∧
  (∀ (u : Bool) (d : Opnd) (k : BitVec 16) (s : State) (e : Env), Ready s e → Clean (valueChks e u d (rdsrShape k e) (rdsrVal k)) →
    exec (.rdsr u d k) s = .next (rdsrNext e u d k))

/-- Loads, lda, dtag and atomics issue, and stores, strl, dplate, dpub, fences, pref and cmo complete, when their operands, addresses, flag and
ranges allow it. Rests on R57, R180, R182, R184, R186, R187, R189, R190, R194, R198, R200, R202. -/
def Obligations.MemoryInstructionsComplete : Prop :=
  (∀ (i : Instr) (f : LongForm) (s : State) (e : Env) (ps : List (Req × Place)), longForm i = some f → Ready s e →
    Clean (longChks e f.u f.d f.k) → ((f.k.spec e).takeFlag = true → e.g.flagFull e.flag = false) →
    Reached e (f.k.spec e).size f.k.need f.k.srcToo true (longReqs e f.u f.d f.k) ps → (∀ p ∈ ps, f.k.refuse e p.1 p.2 = false) →
    spillStops e f.k ps = [] → e.orderStops (f.k.spec e).size ps = false → exec i s = .next (longNext e f.u f.d f.k ps)) ∧
  (∀ (i : Instr) (f : StoreForm) (s : State) (e : Env) (ps : List (Req × Place)), storeForm i = some f → Ready s e →
    Clean (e.readChks f.u (f.k.read e)) → Reached e (f.k.size e) .write true true (storeReqs e f.u f.k) ps →
    e.orderStops (f.k.size e) ps = false → exec i s = .next (storeNext e f.u f.k ps)) ∧
  (∀ (u : Bool) (d a : Opnd) (o : BitVec 8) (s : State) (e : Env) (ps : List (Req × Place)), Ready s e →
    Clean (e.readChks u ((strlOp d a o).read e)) → Reached e (typeSize e) .write true true (storeReqs e u (strlOp d a o)) ps →
    e.orderStops (typeSize e) ps = false → exec (.strl u d a o) s = .next (strlNext e u (strlOp d a o) ps)) ∧
  (∀ (u : Bool) (d a : Opnd) (o : BitVec 8) (s : State) (e : Env) (ps : List (Req × Place)), Ready s e →
    Clean (e.readChks u ((plateOp d a o).read e)) → (∀ r ∈ storeReqs e u (plateOp d a o), field r.data 0 4 % 4 = 0) →
    Reached e 16 .write true true (storeReqs e u (plateOp d a o)) ps → (∀ p ∈ ps, notDeferred e p.2 = false) →
    e.orderStops 16 ps = false → exec (.dplate u d a o) s = .next (plateNext e u (plateOp d a o) ps)) ∧
  (∀ (d : Opnd) (n : BitVec 8) (s : State) (e : Env), Ready s e → Clean (e.readChks false (dpubRead d n e)) →
    (∀ l ∈ e.passing, l.ticket ≠ 0 ∧ l.published = false ∧ e.s.dev.locked e.g.core true (l.cellVa.toNat, 16) = false ∧
      e.s.dev.laneHas e.g.gid l.lid (fun _ => true) = false) → exec (.dpub d n) s = .next (dpubNext e d n)) ∧
  (∀ (i : Instr) (k : Nat) (s : State) (e : Env), fenceForm i = some k → Ready s e → exec i s = .next (fenceNext e k)) ∧
  (∀ (u lv : Bool) (a : Opnd) (o : BitVec 8) (s : State) (e : Env), Ready s e → Clean (e.readChks u (prefVa a o e)) →
    exec (.pref u lv a o) s = .next (prefNext e u lv a o)) ∧
  (∀ (i : Instr) (f : CmoForm) (s : State) (e : Env), cmoForm i = some f → Ready s e → Clean (e.readChks f.u (cmoRead f.level f.a f.b e)) →
    (∀ x ∈ cmoChecks e f.kind (cmoRanges e f.u f.level f.a f.b), ∃ ks, x.2 = .ok ks) →
    (∀ r ∈ cmoRanges e f.u f.level f.a f.b, r.2.2 ≠ 0 →
      e.s.dev.locked e.g.core (f.kind != 0) (if f.kind = 1 then r.2 else lineRange r.2.1 r.2.2) = false) →
    exec i s = .next (cmoNext e f.kind f.u f.level f.a f.b))

/-- Branches, jumps, calls, ret and exit complete when their operands, targets and stacks allow it; exit with a successor, where its record is
not read or is accepted. Rests on R41, R42, R43, R54, R204, R205, R206, R207, R208, R209. -/
def Obligations.TransfersAndExitsComplete : Prop :=
  (∀ (u : Bool) (p : BitVec 6) (n : Bool) (o : BitVec 16) (s : State) (e : Env), Ready s e → Clean (e.branchChks u p n) →
    exec (.br u p n o) s = .next (brNext e u p n o)) ∧
  (∀ (u : Bool) (a : Opnd) (s : State) (e : Env), Ready s e → Clean (e.readChks u (targetRead a e)) →
    (∀ t ∈ targets e u a, t.2 % 4 = 0) → exec (.jmp u a) s = .next (jmpNext e u a)) ∧
  (∀ (u : Bool) (p : BitVec 6) (n : Bool) (o : BitVec 16) (s : State) (e : Env) (ps : List (Req × Place)), Ready s e →
    Clean (e.branchChks u p n) → callDeep (callTakers e u p n o) = [] → callOdd (callTakers e u p n o) = [] →
    callLow e (callTakers e u p n o) = [] → Reached e 8 .write true false (callReqs e (callTakers e u p n o)) ps →
    e.orderStops 8 ps = false →
    exec (.call u p n o) s = .next (callNext e (e.branchChks u p n) (callTakers e u p n o) false ps)) ∧
  (∀ (u : Bool) (a : Opnd) (s : State) (e : Env) (ps : List (Req × Place)), Ready s e → Clean (e.readChks u (targetRead a e)) →
    (∀ t ∈ targets e u a, t.2 % 4 = 0) → callDeep (targets e u a) = [] → callOdd (targets e u a) = [] →
    callLow e (targets e u a) = [] → Reached e 8 .write true false (callReqs e (targets e u a)) ps → e.orderStops 8 ps = false →
    exec (.callr u a) s = .next (callNext e (e.readChks u (targetRead a e)) (targets e u a) true ps)) ∧
  (∀ (s : State) (e : Env) (ps : List (Req × Place)), Ready s e → (∀ l ∈ e.lanes, l.depth ≠ 0) →
    Reached e 8 .read false true (retReqs e) ps → e.orderStops 8 ps = false → exec .ret s = .next (retNext e ps)) ∧
  (∀ (u : Bool) (s : State) (e : Env), Ready s e → exec (.exit u) s = .next (e.exitNow s)) ∧
  (∀ (u : Bool) (a : Opnd) (s : State) (e : Env), Ready s e → Clean (e.readChks u (targetRead a e)) → e.isLast = false →
    exec (.exitSuccessor u a) s = .next (e.exitNow (e.settleReads (e.readChks u (targetRead a e)) s))) ∧
  (∀ (u : Bool) (a : Opnd) (s : State) (e : Env) (ps : List (Req × Place)), Ready s e → Clean (e.readChks u (targetRead a e)) →
    e.isLast = true → succOdd e u a = [] → e.t.kind ≠ .task → e.t.kind ≠ .evaluator → e.t.shape.quad = false →
    SpanReached e 128 [(e.leader, succVa e u a)] ps → e.recordStops ps = false →
    let t := succState e u a ps
    succOk t e (succBytes t e ps) = true → successorFits e.t.shape (LaunchRec.ofBytes (succBytes t e ps)) = true →
    exec (.exitSuccessor u a) s = .next (succNext e t (succBytes t e ps)))

/-- Regroup halves, barriers and waitv complete when the group has converged and their operands allow it, and spawn, launch, fpop and the fut
instructions when their operands allow it. Rests on R44, R45, R215, R217, R219, R220, R222, R228, R237, R239, R240, R241. -/
def Obligations.MeetingsTasksAndLaunchesComplete : Prop :=
  (∀ (u : Bool) (p : BitVec 6) (a : Opnd) (s : State) (e : Env) (peer : Group) (give : Bool), Ready s e →
    Clean (e.readChks true (regrpRead p a e)) → e.regroupPeer give (regrpVal e p a) = some peer → e.converged = .yes →
    exec (if give then .regrpGive u p a else .regrpTake u p a) s = .next (regrpNext e give p a peer)) ∧
  (∀ (i : Instr) (f : BarForm) (s : State) (e : Env), barForm i = some f → Ready s e → f.b.toNat < 16 → e.t.kind ≠ .task →
    e.t.kind ≠ .evaluator → e.converged = .yes → barStep e (f.post && !e.leader.skip) f.await f.b.toNat ≠ .bad →
    exec i s = .next (barNext e f.b.toNat (barStep e (f.post && !e.leader.skip) f.await f.b.toNat))) ∧
  (∀ (u : Bool) (d a b : Opnd) (s : State) (e : Env) (ps : List (Req × Place)), Ready s e → Clean (waitvChks e u d a b) →
    Reached e 4 .read false true (waitvReqs e u d a b) ps → e.orderStops 4 ps = false →
    exec (.waitv u d a b) s = .next (waitvNext e u d a b ps)) ∧
  (∀ (u : Bool) (r : BitVec 5) (a : Opnd) (n : BitVec 8) (s : State) (e : Env), Ready s e → Clean (e.readChks u (spawnRead r a e)) →
    spawnOdd e u r a = [] → Quiet e → exec (.spawn u r a n) s = .next (spawnNext e u r a n)) ∧
  (∀ (u : Bool) (a : Opnd) (s : State) (e : Env) (ps : List (Req × Place)), Ready s e → Clean (e.readChks u (targetRead a e)) →
    launchActs e u a ≠ [] → launchOdd e u a = [] → e.t.kind ≠ .task → e.t.kind ≠ .evaluator → SpanReached e 128 (launchActs e u a) ps →
    Quiet e → badRecs (launchState e u a ps) e (launchRecs (launchState e u a ps) e ps) = [] →
    exec (.launch u a) s = .next (launchNext e (launchState e u a ps) (launchRecs (launchState e u a ps) e ps))) ∧
  (∀ (u : Bool) (d a : Opnd) (p : BitVec 6) (s : State) (e : Env), Ready s e → Clean (fpopChks e u d a p) →
    exec (.fpop u d a p) s = .next (if (fpopFeed e a p).records = [] ∧ (fpopFeed e a p).closed = false then
      e.waitFor (e.settleReads (fpopChks e u d a p) s) (.fpop (fpopQueue e a p)) else fpopNext e u d a p)) ∧
  (∀ (u : Bool) (d a : Opnd) (s : State) (e : Env), Ready s e → Clean (futChks e u d (futRead a)) → staleLids (handles e u (futRead a)) = [] →
    exec (.futWait u d a) s = .next (if (handles e u (futRead a)).any Held.busy then e.waitFor s .futWait else futNext e u d a) ∧
    exec (.futTest u d a) s = .next (futNext e u d a)) ∧
  (∀ (u : Bool) (a : Opnd) (s : State) (e : Env), Ready s e → Clean (e.readChks u (futRead a e)) → staleLids (handles e u (futRead a)) = [] →
    exec (.futCancel u a) s = .next (cancelNext e u a)) ∧
  (∀ (u : Bool) (d a : Opnd) (s : State) (e : Env), Ready s e → Clean (futChks e u d (adoptRead a)) →
    staleLids (handles e u (adoptRead a)) = [] → exec (.futAdopt u d a) s = .next (adoptNext e u d a))

/-- tim.wcyc, tim.pclass, tim.yield and sys.perf complete, sys.trap and sys.brk take their exceptions, and the galley instructions complete when
no lane's step meets a fault. Rests on R230, R232, R233, R234, R235, R236, R242, R243, R245, R246, R320. -/
def Obligations.TimingSystemAndGalleysComplete : Prop :=
  (∀ (u : Bool) (a : Opnd) (s : State) (e : Env), Ready s e → Clean (e.readChks u (targetRead a e)) →
    exec (.timWcyc u a) s = .next (wcycNext e u a)) ∧
  (∀ (u : Bool) (a : Opnd) (s : State) (e : Env), Ready s e → Clean (e.readChks u (wordRead a e)) →
    exec (.timPclass u a) s = .next (pclassNext e u a) ∧ exec (.sysPerf u a) s = .next (perfNext e u a)) ∧
  (∀ (u : Bool) (s : State) (e : Env), Ready s e → exec (.timYield u) s = .next (yieldNext e)) ∧
  (∀ (u : Bool) (a : Opnd) (s : State) (e : Env), Ready s e → Clean (e.readChks u (trapRead a e)) → e.passing ≠ [] →
    exec (.sysTrap u a) s = .next (faultState e .softwareTrap (e.passing.map (·.lid)) ((trapRead a e e.leader).val.bits.setWidth 64)) ∧
    exec (.sysBrk u a) s = .next (faultState e .breakpoint (e.passing.map (·.lid)) ((trapRead a e e.leader).val.bits.setWidth 64))) ∧
  (∀ (u : Bool) (a : Opnd) (s : State) (e : Env), Ready s e → Clean (e.readChks u (trapRead a e)) → e.passing = [] →
    exec (.sysTrap u a) s = .next (e.done s id) ∧ exec (.sysBrk u a) s = .next (e.done s id)) ∧
  (∀ (i : Instr) (f : GalForm) (s : State) (e : Env), galForm i = some f → Ready s e → Clean (galChks e f.u f.d f.k) →
    (∀ l ∈ e.lanes, e.s.dev.laneHas e.g.gid l.lid (fun _ => f.k.rel) = false) → galFault e (galResult e f.u f.k).2.2 = none →
    exec i s = .next (galNext e f.u f.d f.k))

/-- mma, mmj and the acc instructions issue when the queue, the flag, the operands and the addresses allow it, the eng instructions and smp when
their operands, descriptors and headers do. Rests on R250, R251, R252, R253, R257, R260, R261, R265, R266, R267, R269, R364. -/
def Obligations.MatrixEnginesAndSamplerIssue : Prop :=
  (∀ (i : Instr) (x : MxOp) (s : State) (e : Env) (tile : MxTile), matrixForm i = some x → Ready s e → Clean (mxChks e x) →
    e.mxFull e.flag = false → mxTile e x = .ok tile → exec i s = .next (mxNext e x tile)) ∧
  (∀ (i : Instr) (k : AccMove) (s : State) (e : Env) (ps : List (Req × Place)), accMoveForm i = some k → Ready s e →
    Clean (accMoveChks e k) → e.mxFull e.flag = false →
    Reached e 16 (if k.store then .write else .read) k.store true (accMoveReqs e k) ps → e.orderStops 16 ps = false →
    exec i s = .next (accMoveNext e k ps)) ∧
  (∀ (c : BitVec 6) (n : BitVec 2) (x : BitVec 3) (s : State) (e : Env), Ready s e → Clean (zeroChks e c n x) → e.mxFull none = false →
    exec (.accZero c n x) s = .next (zeroNext e c n x)) ∧
  (∀ (d : Opnd) (c : BitVec 6) (x : BitVec 3) (s : State) (e : Env), Ready s e → Clean (accRdChks e d c x) → e.mxFull e.flag = false →
    exec (.accRd d c x) s = .next (accRdNext e d c x)) ∧
  (∀ (a : Opnd) (c : BitVec 6) (n : BitVec 2) (x : BitVec 3) (s : State) (e : Env), Ready s e → Clean (scaleChks e a c n x) →
    e.mxFull none = false → exec (.accScale a c n x) s = .next (scaleNext e a c n x)) ∧
  (∀ (i : Instr) (f : EngForm) (s : State) (e : Env) (ps : List (Req × Place)), engForm i = some f → Ready s e →
    Clean (engChks e f.u f.d (targetRead f.a)) → Reached e f.kind.descLen .read false true (engReqs e f.u f.d f.a) ps →
    e.orderStops f.kind.descLen ps = false → CellsReady e f.kind.descLen ps →
    engRefused e f.kind (engDescs e f.u f.d f.a f.kind.descLen ps).2 = [] →
    exec i s = .next (engNext e f.kind (engDescs e f.u f.d f.a f.kind.descLen ps))) ∧
  (∀ (i : Instr) (f : EngForm) (s : State) (e : Env) (ps : List (Req × Place)), weightForm i = some f → Ready s e →
    Clean (engChks e f.u f.d (weightRead f.a)) → overHeap e (weightActs e f.u f.a) = [] →
    Reaches e 64 .read (headerReqs e (weightActs e f.u f.a)) ps → e.headerStops ps = false → e.headersHurt ps = [] → CellsReady e 64 ps →
    notNeural (readHeaders e ps).2 = [] → exec i s = .next (weightNext e f.kind f.u f.d f.a (readHeaders e ps))) ∧
  (∀ (d a : Opnd) (b : BitVec 5) (s : State) (e : Env) (ps qs : List (Req × Place)) (l : Lane) (va : DWord) (bytes : List Byte), Ready s e →
    Clean (smpChks e d a b) → overHeap e [(e.leader, (smpIndex e b).val)] = [] →
    Reaches e 64 .read (headerReqs e [(e.leader, (smpIndex e b).val)]) ps → e.headerStops ps = false → e.headersHurt ps = [] → CellsReady e 64 ps →
    (readHeaders e ps).2 = [(l, va, bytes)] → headerOk bytes = true →
    let h := Header.ofBytes va bytes
    Clean (smpChks2 e d a b h) → e.g.flagFull e.flag = false →
    Reaches e h.point .read (smpReqs e d a b h ++ smpImage e h) qs → e.orderStops h.point qs = false →
    e.s.dev.laneHas e.g.gid e.leader.lid (· == .lda) = false → CellsReady e 16 (qs.drop (smpReqs e d a b h).length) →
    exec (.smp d a b) s = .next (smpNext e d a b h bytes (readHeaders e ps).1 qs))

/-- The prim instructions complete in the groups that may use them. Rests on R278, R279, R280, R382, R383. -/
def Obligations.PrimitivesComplete : Prop :=
  (∀ (i : Instr) (f : PrimForm) (s : State) (e : Env) (draw : Nat), primForm i = some f → Ready s e →
    Clean (e.readChks false (primRead f.run f.d f.a e)) → e.passing ≠ [] → s.dev.meshDraw e.t = some draw → e.g.primsClosed = false →
    s.dev.binFull e.g.part draw = false →
    exec i s = .next (primNext e draw f.kind f.run f.d f.a)) ∧
  (∀ (s : State) (e : Env), Ready s e → e.passing ≠ [] → (s.dev.meshDraw e.t).isSome = true → exec .primCut s = .next (cutNext e)) ∧
  (∀ (a : Opnd) (s : State) (e : Env), Ready s e → Clean (e.readChks false (foutRead a e)) → fragBad e = [] →
    exec (.primFout a) s = .next (foutNext e a)) ∧
  (∀ (s : State) (e : Env), Ready s e → fragBad e = [] → exec .primKill s = .next (killNext e))

/-- A gang at an acceptable header enters its clause. Rests on R51, R52, R53, R55, R58. -/
def Obligations.ClauseHeadersAreEntered : Prop :=
  ∀ (s : State) (x : Sel) (g : Group) (a : Agent) (h : Word) (ws : List Word), AtHeader s x g a →
    a.fetchWord s.st x.pc.toNat = .word h → clauseHeaderOk h = true →
    a.fetchWords s.st ((x.pc.toNat + 4) % 2 ^ 64) (headerLen h + headerNlit h) = (ws, none) →
    ((ws.take (headerLen h)).dropLast).any transferWord = false →
    (∀ i < 12, bit (headerWait h) i = true → g.flags.getD i 0 = 0) →
    let sound := if s.st.errs = [] then s.st else s.st.correct (a.fetchSites s.st x.pc.toNat (ws.length + 1))
    exec .clauseHeader s = .next (({ s with st := a.touch (a.touch sound x.pc.toNat false) ((x.pc.toNat + 4 * ws.length) % 2 ^ 64) false } : State).onDev
      (fun d => d.modGroup x.gid (fun g => g.enterClause x { hdr := x.pc, header := h, words := ws })))

/-- Accesses in flight complete, writes are performed, lines leave, pages are walked, waiters are served and time out. Rests on
R28, R56, R297, R298, R304, R341, R344. -/
def Obligations.MemoryEventsComplete : Prop :=
  (∀ (s : State) (op : Nat) (o : Op), s.dev.op? op = some o → s.dev.working o.part = true → o.kind.completes = true →
    o.goesOn = true → s.dev.writeHeld o = false →
    let u := State.afterAttempt op (s.attempt op false)
    (u.dev.op? op = none → exec (.longLatencyCompletion op) s = .next (u.wakeHeld o.gid)) ∧
    (∀ k, u.dev.op? op = some k → exec (.longLatencyCompletion op) s = .next (if State.allGot k && !k.tardy then u.completeOp k else u))) ∧
  (∀ (s : State) (core line : Nat),
    let mine := fun (o : Op) => o.core == core && s.dev.writeReady o && s.dev.working o.part && o.accs.any (fun x => x.place.base / 128 == line)
    ∀ o, s.dev.ops.find? mine = some o → exec (.writePerformed core line) s = .next (s.finishWrite o)) ∧
  (∀ (s : State) (core line : Nat), (s.dev.part (s.dev.partOfCore core)).paused = false →
    ((lineAt s.st.lines core 0 line).isSome = true → exec (.l1LineEviction core line) s = .next (s.onSt (fun st => st.evictLine core line))) ∧
    ((lineAt s.st.lines core 0 line).isSome = false → (∃ l ∈ s.st.lines, l.core = core ∧ l.line = line) →
      exec (.l1LineEviction core line) s =
        .next (s.onSt (fun st => { st with lines := st.lines.filter (fun l => !(l.core == core && l.line == line)) })))) ∧
  (∀ (s : State) (core : Nat) (va : DWord) (wr : Bool) (x c b : Nat),
    let q := s.dev.partOfCore core
    let root := ((s.dev.part q).desc.getD Desc.none).root
    s.dev.working q = true → s.dev.present core ≠ [] → va.toNat < windowBase → canonical va.toNat = true →
    (∀ t, s.st.tlbHit q core va.toNat = some t → wr = true ∧ bit t.leaf.toNat 53 = false) →
    s.st.walk q s.dev.nparts root va.toNat = .leaf x c b → (wr = true → bit x 4 = true) →
    exec (.translationWalk core va wr) s = .next (s.onSt (fun st => st.touchPage q s.dev.nparts root core va.toNat wr))) ∧
  (∀ (s : State) (gid : Nat) (g : Group), s.dev.group? gid = some g →
    (∃ c, g.since = some c ∧ c + 256 ≤ s.dev.cycOf g.part g.core) → g.canIssue s.dev = true →
    (s.dev.core g.core).starved.contains (g.islot, gid) = false →
    exec (.starvedQueueEntry gid) s = .next (s.onDev (fun d => d.modCore g.core (fun c => { c with starved := c.starved ++ [(g.islot, gid)] })))) ∧
  (∀ (s : State) (cell q : Nat), (List.range 4).find? (fun q => (s.dev.part q).replaying.contains cell) = some q → s.dev.working q = true →
    exec (.waiterReplay cell) s = .next (s.drainCell q cell)) ∧
  (∀ (s : State) (cell op : Nat) (o : Op), s.dev.op? op = some o → s.dev.working o.part = true →
    (s.dev.part o.part).replaying.contains cell = false →
    let xs := o.accs.filter (fun x => x.cell == some cell)
    (∃ x ∈ xs, x.joined + ((s.dev.part o.part).desc.getD Desc.none).deferTimeout * 2000 ≤ s.dev.time) →
    exec (.deferTimeout cell op) s = .next (((s.onDev (fun d => d.modPart o.part (fun p =>
      { p with waiters := p.waiters.filter (fun w => !(w.1 == op && w.2 == cell)) }))).recount o.part cell).deliver o
        (xs.map (fun x => (x.lid, .deferTimeout))) 0))

/-- Groups and teams retire, move, leave barriers, are placed, swapped and accepted when their conditions hold. Rests on R41,
R42, R43, R46, R218, R226, R357, R358, R359, R397. -/
def Obligations.GroupsAndTeamsGoOn : Prop :=
  (∀ (s : State) (gid : Nat) (g : Group), s.dev.group? gid = some g → (∀ l ∈ g.lanes, l.live = false) → (∀ n ∈ g.flags, n = 0) →
    s.dev.working g.part = true → exec (.groupRetire gid) s = .next ((s.onDev (fun d => d.closeStream gid)).retireGroup gid)) ∧
  (∀ (s : State) (tid : Nat) (t : Team), s.dev.team? tid = some t → s.dev.teamGroups tid = [] → t.pending = [] →
    (∀ e ∈ s.dev.engs, e.tid = tid → e.packet.isSome = true) → (∀ o ∈ s.dev.ops, o.tid ≠ tid) →
    (∀ c ∈ s.dev.cores, ∀ x ∈ c.mq, x.tid ≠ tid) → s.dev.working t.part = true →
    (t.succ = none → exec (.teamRetire tid) s = .next (((s.dropTeam t).fragmentOver t).endDrain t.part)) ∧
    (∀ r frames, t.succ = some r → let cores := if t.shape.pair && !r.pair then t.cores.take 1 else t.cores
      let d := { s.dev with teams := s.dev.teams.filter (fun k => k.tid != tid) }
      (s.dev.part t.part).run = .running → d.teamFits r cores = true →
      d.framesFor t.part false r.stack (r.width * r.groups) = some frames →
      exec (.teamRetire tid) s = .next (s.succeed t r cores frames))) ∧
  (∀ (s : State) (donor receiver p1 p2 m n pd td : Nat) (okG okR : List Nat) (g r : Group), s.dev.group? donor = some g →
    s.dev.group? receiver = some r → g.wait = some (.regroup true p1 m pd okG) → r.wait = some (.regroup false p2 n td okR) →
    s.dev.working g.part = true → g.tid = r.tid → p1 = r.gix → p2 = g.gix → (∀ k ∈ g.flags, k = 0) → (∀ x ∈ g.sregs, x.tag ≠ .pending) →
    (∀ l ∈ g.lanes, ∀ x ∈ l.v, x.tag ≠ .pending) →
    let moving := g.lanes.filter (·.live)
    let free := r.lanes.filter (·.exited)
    exec (.regroupMove donor receiver) s = .next (if free.length < moving.length then regroupFail s donor receiver pd okG td okR
      else regroupMoved s donor receiver moving free n pd okG td okR)) ∧
  (∀ (s : State) (tid b : Nat) (t : Team) (x : Barrier), s.dev.team? tid = some t → t.barriers[b]? = some x → x.leaving ≠ [] →
    x.due ≤ s.dev.cycOf t.part (t.cores.headD 0) →
    (∀ o ∈ s.dev.ops, ∀ m ∈ x.after, m.1 = o.gid → m.2 ≤ o.opid) → t.out = false →
    s.dev.working t.part = true → exec (.barrierWaveRelease tid b) s = .next (leaveNext s t b x)) ∧
  (∀ (s : State) (tid : Nat) (t : Team), s.dev.team? tid = some t → t.hidden ≠ [] → t.out = false → s.dev.working t.part = true →
    t.placedAt + s.dev.waveSp (t.cores.headD 0) ≤ s.dev.cycOf t.part (t.cores.headD 0) →
    exec (.placementWave tid) s = .next (waveNext s t)) ∧
  (∀ (s : State) (part : Nat) (cores : List Nat), s.dev.working part = true →
    (∀ t, s.head part = some (.back t) → s.dev.chooseSite part t.shape = some cores →
      exec (.teamPlacement part) s = .next (s.bringBack t cores)) ∧
    (∀ l frames, s.head part = some (.team l) → s.dev.chooseSite part l.shape = some cores →
      s.dev.framesFor part false l.shape.stack (l.shape.width * l.shape.groups) = some frames →
      (∀ c, l.lastPlaced = some c → c + l.shape.stagger ≤ (s.dev.part part).cyc) →
      exec (.teamPlacement part) s = .next (teamNext s part l cores frames))) ∧
  (∀ (s : State) (tid : Nat) (t : Team) (h : Head), s.dev.team? tid = some t → s.head t.part = some h → s.dev.working t.part = true →
    s.dev.headFits t.part h = false → (∃ k ∈ swappable s t.part h, k.tid = tid) →
    (∀ k ∈ swappable s t.part h, k.stamp ≤ t.stamp) → s.dev.saveRoom t = true → exec (.swapOut tid) s = .next (swapNext s t)) ∧
  (∀ (s : State) (n q : Nat) (l : Launch), (List.range 4).findSome? (fun q => ((s.dev.part q).launch? n).map (fun l => (q, l))) = some (q, l) →
    l.inTable = false → l.shape.teams ≤ l.retired → s.dev.working q = true →
    let u := releaseAll s q
    (l.shape.counter = 0 → exec (.launchComplete n) s = .next (launchOver u q l)) ∧
    (∀ k c sc df, l.shape.counter ≠ 0 → (unitAgent u.dev q).resolve u.st l.shape.counter.toNat .write = .ok (.pa k c sc df) →
      exec (.launchComplete n) s = .next (launchOver (counterDown u q l.shape.counter.toNat k c sc df) q l))) ∧
  (∀ (s : State) (tid seq : Nat) (t : Team) (bs : List Byte) (rest : List (Nat × List Byte)), s.dev.team? tid = some t →
    t.pending = (seq, bs) :: rest → s.dev.working t.part = true → s.dev.tableTakes t.part seq = true → exec (.pendingLaunchAccept tid) s = .next (acceptNext s t bs rest))

/-- Task waves time out and are placed, and evaluator waves are placed or queued. Rests on R36, R37, R38, R338, R362. -/
def Obligations.TaskAndEvaluatorWavesGoOn : Prop :=
  (∀ (s : State) (cluster wave : Nat) (w : Wave), (s.dev.cluster cluster).waves.find? (fun w => w.wno == wave) = some w →
    let q := s.dev.partOfCore (cluster * 4)
    s.dev.working q = true → w.first + ((s.dev.part q).desc.getD Desc.none).gatherWait ≤ s.dev.cycOf q (cluster * 4) →
    exec (.taskWaveTimeout cluster wave) s = .next (s.onDev (fun d => (d.modCluster cluster (fun c =>
      { c with waves := c.waves.filter (fun x => x.wno != wave), released := c.released ++ [w] })).pumpSpawns cluster))) ∧
  (∀ (s : State) (cluster core slot : Nat) (frames : List Nat) (w : Wave) (rest : List Wave),
    let q := s.dev.partOfCore (4 * cluster)
    (s.dev.cluster cluster).released = w :: rest → taskSite s q cluster w = some (core, slot, frames) → s.dev.working q = true →
    exec (.taskWavePlacement cluster) s = .next (taskNext s q cluster core slot frames w rest)) ∧
  (∀ (s : State) (part : Nat), s.dev.working part = true →
    (∀ w i, (s.dev.part part).evals.zipIdx.find? (fun w => !w.1.queued) = some (w, i) →
      let near := ((List.range 4).map (fun k => 4 * (w.core / 4) + k)).filter (fun c => !s.dev.allWaiting c)
      let core := if near.contains w.core && decide (s.dev.printSlots w.core 64 ≠ 0) then some w.core else s.dev.mostSlots near 64
      (∀ c t, core = some c → s.placeEval part c w ((s.dev.part part).evals.eraseIdx i) = some t → exec (.evaluatorPlacement part) s = .next t) ∧
      (core = none → exec (.evaluatorPlacement part) s = .next (s.onDev (fun d => d.modPart part (fun p =>
        { p with evals := modAt p.evals i (fun w => { w with queued := true }) }))))) ∧
    (∀ w rest c t, (s.dev.part part).evals = w :: rest → (∀ x ∈ w :: rest, x.queued = true) →
      s.dev.mostSlots (s.dev.coresOf part) 64 = some c → s.placeEval part c w rest = some t → exec (.evaluatorPlacement part) s = .next t))

/-- Matrix operations, joint operations and engine operations run when they are due, and the sampler serves its order; that a weight fill on an
absent page parks itself, with a record of UNIT 6, is the model's choice (log entry 17). Rests on R250, R258, R259, R270, R372, R373, R374. -/
def Obligations.MatrixAndEnginesGoOn : Prop :=
  (∀ (s : State) (core : Nat) (x : MxEntry) (rest : List MxEntry), (s.dev.core core).mq = x :: rest → s.dev.working x.part = true →
    let sound := s.onSt (fun st => st.correct x.sites)
    ((∃ y ∈ x.sites, s.st.errAt y = some true) → x.kind ∈ [.mma, .scale, .rd] →
      exec (.matrixOperation core) s = .next (s.onDev (fun d => d.mxFault [(core, x)] .eccUncorrectable))) ∧
    (x.kind = .zero → exec (.matrixOperation core) s = .next ((s.onSt (fun st => st.accZero x)).onDev (fun d => d.finishMx core x))) ∧
    ((∀ y ∈ x.sites, s.st.errAt y ≠ some true) →
      (x.kind = .mma → exec (.matrixOperation core) s = .next ((sound.onSt (fun st => st.mma x)).onDev (fun d => d.stepMx core x))) ∧
      (x.kind = .scale → exec (.matrixOperation core) s = .next ((sound.onSt (fun st => st.accScale x)).onDev (fun d => d.finishMx core x))) ∧
      (x.kind = .rd → exec (.matrixOperation core) s = .next (rdNext sound core x)) ∧
      (∀ o, x.kind = .ld ∨ x.kind = .st → s.dev.op? x.opid = some o →
        o.goesOn = true →
        exec (.matrixOperation core) s = .next (sound.runTransfer core x o))) ∧
    (∀ t, x.kind = .mmj → s.dev.team? x.tid = some t → s.dev.jointHeads (s.dev.jointEntries t) = true →
      (∀ cx ∈ s.dev.jointEntries t, cx.2.done ≠ 0) → exec (.matrixOperation core) s = .next (jointNext s (s.dev.jointEntries t)))) ∧
  (∀ (s : State) (tid : Nat) (t : Team), s.dev.team? tid = some t → s.dev.working t.part = true →
    let xs := s.dev.jointEntries t
    (xs.length = 4 → (∀ cx ∈ xs, (s.dev.core cx.1).mq.head?.map (·.opid) = some cx.2.opid) →
      exec (.jointOperationStart tid) s =
        .next (if jointAgree (xs.map (·.2)) then jointNext s xs else s.onDev (fun d => d.mxFault xs .format))) ∧
    (xs.length ≠ 4 → (∃ cx ∈ xs, cx.2.issued + ((s.dev.part t.part).desc.getD Desc.none).jointWait ≤ s.dev.cycOf t.part cx.1) →
      exec (.jointTimeout tid) s = .next (s.onDev (fun d => d.mxFault xs .jointTimeout)))) ∧
  (∀ (s : State) (eng : Nat) (e : Eng), s.dev.eng? eng = some e → s.engGoes e = true → s.engTardy e = false →
    (e.kind = .winv → 4 ≤ e.halfDone.length ∨ e.cancelled = true ∧ e.halfDone = []) → exec (.engineCompletion eng) s = .next (s.runEng e)) ∧
  (∀ (s : State) (core k opid slice : Nat) (rest : List SampItem) (o : Op), (s.dev.sampler core k).order = .quad opid slice :: rest →
    s.dev.op? opid = some o → s.dev.working o.part = true →
    let p := s.dev.sampler core k
    let h := Header.ofBytes o.hdrVa o.hdr
    let missing := if h.neural then p.missing h else []
    let starts := missing.filter (fun b => !p.fills.any (fun f => f.hdrVa == h.va && f.wver == h.wver && f.block == b))
    let mine := o.accs.filter (fun x => x.lid / 4 == slice)
    let u := State.afterAttempt opid (s.attemptOn opid false (fun x => x.lid / 4 == slice))
    (starts ≠ [] → ∃ u : State, (u = s ∨ (s.dev.lockup o.part = true ∧ u = s.onDev (fun d => d.missed core opid))) ∧
      exec (.samplerQuad core k) s = .next (u.onDev (fun d => d.modSampler core k (fun p =>
        { p with fills := p.fills ++ starts.map (fun b =>
            { hdrVa := h.va, wver := h.wver, block := b, pin := h.pin, wbase := BitVec.ofNat 64 h.wbase,
              imageLen := h.imageLen, eng := none }) })))) ∧
    (missing = [] → (o.tardy = false ∧ ∀ x ∈ mine, x.got.isSome = true) ∨ (∃ x ∈ mine, x.got = none ∧ x.cell = none) →
      (u.dev.op? opid = none → exec (.samplerQuad core k) s = .next (u.onDev Dev.purgeQuads)) ∧
      (∀ o2, u.dev.op? opid = some o2 → exec (.samplerQuad core k) s =
        .next (if (o2.accs.filter (fun x => x.lid / 4 == slice)).all (fun x => x.got.isSome) && !o2.tardy then
            (if (h.blockSites core k).any (fun y => u.st.errAt y == some true) then blockFault u o2 slice
             else (u.correctAt (h.blockSites core k)).finishQuad core k o2 slice h) else u)))) ∧
  (∀ (s u : State) (core k : Nat) (f : Fill) (more : List Fill) (bs : List Byte), (s.dev.sampler core k).fills = f :: more →
    let q := s.dev.partOfCore core
    s.dev.working q = true → (∀ x ∈ (s.dev.part q).parks, x.2 ≠ .fill core k) →
    let a := { unitAgent s.dev q with core := core }
    s.fillCells a f = [] ∨ s.fillSample core k f = none →
    let got := s.engRead a ((f.wbase.toNat + 1024 * f.block) % 2 ^ 64)
      (min 1024 (f.imageLen - 1024 * f.block))
    (got = (u, bs, .ok) → exec (.weightFill core k) s = .next (fillNext u core k f bs)) ∧
    (∀ va, got = (u, bs, .absent va) → exec (.weightFill core k) s =
      .next (u.openPark q { StopRec.blank with unit := 6, core := core, addr := va } (.fill core k)))) ∧
  (∀ (s : State) (core k id : Nat) (h : DWord) (before rest : List SampItem),
    firstObserve [] (s.dev.sampler core k).order = some (before, id, h, rest) → s.dev.working (s.dev.partOfCore core) = true →
    exec (.winvObserve core k) s = .next (observeNext s core k before id h rest))

/-- waitv is read again, tim.wcyc releases its lanes, a fault at issue parks its group; a context halts, switches out, is saved, and is
killed by its deadlines when their conditions hold. Rests on R219, R243, R316, R317, R318, R320, R321, R326, R330, R388, R389. -/
def Obligations.WaitsEndAndContextsStop : Prop :=
  (∀ (s : State) (gid opid due : Nat) (g : Group) (t : Team) (o : Op), s.dev.group? gid = some g → g.wait = some (.waitv opid due) →
    s.dev.op? opid = some o → s.dev.working g.part = true → s.dev.team? g.tid = some t → t.out = false →
    (due ≤ s.dev.cycOf g.part g.core ∨ s.waitChanged o = true) → (∀ x ∈ o.accs, x.cell = none) →
    exec (.waitvRecheck gid) s = .next ((State.afterAttempt opid (s.attempt opid false)).settleOp opid)) ∧
  (∀ (s : State) (gid : Nat) (g : Group), s.dev.group? gid = some g → s.dev.working g.part = true →
    let due := g.lanes.filter (·.wcycDue (s.dev.cycOf g.part g.core))
    due ≠ [] → exec (.timWcycRelease gid) s = .next (s.onDev (fun d => d.modGroup gid (fun g => due.foldl (fun g l => g.endHold l.lid id) g)))) ∧
  (∀ (s : State) (gid : Nat) (g : Group) (r : FaultRec), s.dev.group? gid = some g → g.parking = some r → s.dev.working g.part = true →
    exec (.park gid) s = .next (((s.openPark g.part (r.record 1 0) (.group gid)).onDev (fun d =>
      d.modGroup gid (fun g => { g with parking := none, parked := some (s.nextSeq g.part) }))).checkRing g.part)) ∧
  (∀ (s : State) (part : Nat), s.dev.working part = true → s.dev.residents part ≠ [] →
    ((s.dev.part part).desc.getD Desc.none).parkPct * (s.dev.residents part).length ≤
      100 * ((s.dev.residents part).filter (fun g => g.parked.isSome)).length →
    exec (.parkedSwitchOut part) s = .next (s.switchOut part 3)) ∧
  (∀ (s : State) (part : Nat), (s.dev.part part).halt = true →
    ((s.dev.part part).run = .running ∨ (s.dev.part part).run = .draining) →
    exec (.halt part) s = .next (if (s.dev.part part).overflow then s.checkRing part else haltNext s part)) ∧
  (∀ (s : State) (part t : Nat), s.dev.sincePreempt part = some t →
    ((s.dev.part part).run = .draining → (s.dev.part part).halt = false → ((s.dev.part part).desc.getD Desc.none).deadlineA * 2000 ≤ t →
      exec (.preemptSave part) s = .next (saveNext s part)) ∧
    (((s.dev.part part).desc.getD Desc.none).deadlineB * 2000 ≤ t →
      exec (.preemptTimeout part) s = .next (s.killContext part FCode.preemptTimeout.code 0))) ∧
  (∀ (s : State) (part : Nat), s.dev.working part = true → ((s.dev.part part).desc.getD Desc.none).watchdog ≠ 0 →
    ((s.dev.part part).desc.getD Desc.none).watchdog * 2000 ≤ (s.dev.part part).progress → s.dev.stallable part = true →
    exec (.watchdog part) s = .next (s.killContext part FCode.watchdog.code 0)) ∧
  (∀ (s : State) (op : Nat) (o : Op), s.dev.op? op = some o → (∀ c ∈ s.dev.cores, ∀ x ∈ c.mq, x.opid ≠ op) → o.breached = false →
    s.dev.lockup o.part = true → s.dev.working o.part = true → overdue (s.dev.part o.part).cyc o.deadline = true →
    exec (.lockupBreach op) s = .next (s.onDev (fun d => (d.modOp op (fun o => { o with breached := true })).breach o.tid o.gid o.core o.pc
      (if o.kind = .smp ∨ o.kind.completes then (o.accs.flatMap (fun x => x.writers.map (·.1))).eraseDups else o.accs.map (·.lid))))) ∧
  (∀ (s : State) (op core : Nat) (x : MxEntry), s.dev.op? op = none →
    s.dev.cores.zipIdx.findSome? (fun c => (c.1.mq.find? (fun x => x.opid == op)).map (fun x => (c.2, x))) = some (core, x) →
    x.breached = false → s.dev.lockup x.part = true → s.dev.working x.part = true → overdue (s.dev.part x.part).cyc x.deadline = true →
    exec (.lockupBreach op) s = .next (s.onDev (fun d => (d.modCore core (fun c =>
      { c with mq := c.mq.map (fun y => if y.opid = op then { y with breached := true } else y) })).breach x.tid x.gid core x.pc x.writers))) ∧
  (∀ (s : State) (op : Nat) (e : Eng), s.dev.op? op = none → (∀ c ∈ s.dev.cores, ∀ x ∈ c.mq, x.opid ≠ op) → s.dev.eng? op = some e →
    s.dev.lockup e.part = true → s.dev.working e.part = true → overdue (s.dev.part e.part).cyc e.deadline = true →
    exec (.lockupBreach op) s = .next (s.onDev (fun d => (d.modEng op (fun e => { e with deadline := none })).breach e.tid e.gid e.core e.pc e.lids))) ∧
  (∀ (s : State) (op : Nat) (g : Group) (l : Lane) (due : Option Nat), s.dev.op? op = none → (∀ c ∈ s.dev.cores, ∀ x ∈ c.mq, x.opid ≠ op) →
    s.dev.eng? op = none → s.dev.heldEng op = some (g, l, due) → s.dev.lockup g.part = true → s.dev.working g.part = true →
    overdue (s.dev.part g.part).cyc due = true → exec (.lockupBreach op) s = .next (s.onDev (fun d => (d.modGroup g.gid (fun g =>
      { g with lanes := g.lanes.map (fun k => if k.lid = l.lid then k.noDeadline else k) })).breach g.tid g.gid g.core l.pc ((g.held l.lid).map (·.lid)))))

/-- The events of the reference, the frame, the classes, the sensors and of failures happen when their conditions hold. Rests on
R282, R287, R386, R393, R394, R395, R398, R399, R400, R401, R403, R417. -/
def Obligations.ClocksAndHealthGoOn : Prop :=
  (∀ (s : State) (part : Nat),
    s.dev.time % usec = 0 → s.dev.stopped part ≠ (s.dev.part part).paused →
      exec (.referencePause part) s = .next (s.onDev (fun d => d.modPart part (fun p => { p with paused := s.dev.stopped part })))) ∧
  (∀ s : State, s.dev.inSlots 0 3 = true → exec .memoryRefresh s = .next s) ∧
  (∀ s : State, s.dev.inSlots 4 5 = true → exec .scrubPass s = .next (s.onSt (fun st =>
    { st with errs := st.errs.filter (fun e => e.2), corrected := st.corrected + (st.errs.filter (fun e => !e.2)).length }))) ∧
  (∀ (s : State) (part line slice : Nat) (l : L2Line), s.dev.inSlots 6 7 = true → s.dev.lockup part = false → s.dev.clocked part = true →
    s.st.l2.find? (fun l => l.part == part && l.line == line) = some l → s.dev.moveTo l = some slice →
    exec (.l2LineMigration part line slice) s = .next (s.onSt (fun st =>
      { st with l2 := st.l2.map (fun k => if k.part = part ∧ k.line = line then { k with slice := slice } else k) }))) ∧
  (∀ (s : State) (cluster power : Nat) (thermal current : List Nat), cluster < 36 → thermal.length = 3 → current.length = 3 →
    s.dev.inSlots 8 9 = true → exec (.telemetrySlot cluster thermal current power) s = .next (telemetryNext s cluster thermal current power)) ∧
  (∀ (s : State) (cluster idx t : Nat) (k : SensorKind), cluster < 36 →
    let p := match k with | .thermal => (s.dev.cluster cluster).tempSet | .current => (s.dev.cluster cluster).currSet
    p.since.getD idx none = some t → t + 10 * msec ≤ s.dev.time → s.dev.inSlots 8 9 = true → exec (.sensorFail cluster k idx) s = .next (sensorNext s cluster k idx p)) ∧
  (∀ (s : State) (cluster level : Nat), cluster < 36 → s.dev.inSlots 8 9 = true →
    ((s.dev.cluster cluster).thermal.adopts s.dev.time = some level → exec (.limitStateChange cluster .thermal level) s =
      .next (s.onDev (fun d => d.modCluster cluster (fun c => { c with thermal := c.thermal.move level s.dev.time })))) ∧
    ((s.dev.cluster cluster).current.adopts s.dev.time = some level → exec (.limitStateChange cluster .current level) s =
      .next (s.onDev (fun d => d.modCluster cluster (fun c => { c with current := c.current.move level s.dev.time })))) ∧
    (s.dev.power.adopts s.dev.time = some level → exec (.limitStateChange cluster .power level) s =
      .next (s.onDev (fun d => { d with power := d.power.move level s.dev.time })))) ∧
  (∀ (s : State) (cluster : Nat), cluster < 36 → s.dev.inLockup (s.dev.partOfCore (4 * cluster)) = false →
    exec (.droopStretch cluster) s = .next s ∧
    (∀ k t, (s.dev.cluster cluster).change = some (k, t) → t + 10 * usec ≤ s.dev.time →
      exec (.classChange cluster) s = .next (s.onDev (fun d => d.modCluster cluster (fun c => { c with cls := k, change := none })))) ∧
    ((s.dev.cluster cluster).change = none → s.dev.wantedClass cluster ≠ (s.dev.cluster cluster).cls →
      (∀ t, (s.dev.cluster cluster).lastChange = some t → t + 10 * usec ≤ s.dev.time) → s.dev.inSlots 8 9 = true →
      exec (.classChange cluster) s = .next (s.onDev (fun d => d.modCluster cluster (fun c =>
        { c with change := some (s.dev.wantedClass cluster, s.dev.time), lastChange := some s.dev.time }))))) ∧
  (∀ s : State, s.dev.health.hot = false → (∃ c ∈ s.dev.clusters, 118 * 32 ≤ c.thermal.reading) →
    exec .thermalStop s = .next (((List.range 4).foldl (fun s q => s.killContext q 0 0) s).onDev (fun d =>
      ({ d with health := { d.health with thermStop := true, hot := true } }).interrupt 2))) ∧
  (∀ (s : State) (idx : Nat), (idx < 144 → exec (.unitFailure .core idx) s = .next (s.onDev (fun d =>
      { d.modCore idx (fun c => { c with working := false }) with health := { d.health with failed := d.health.failed ||| 2 } }))) ∧
    ∃ a b, exec (.unitFailure .memoryDevice idx) s = .next (s.onDev (fun d => { d with
      health := { d.health with failed := d.health.failed ||| 4 }, freeCtr := d.freeCtr + 2, t1Gib := min d.t1Gib a, t2Gib := min d.t2Gib b }))) ∧
  (∀ (s : State) (port : Nat), port < 12 → bit s.st.portsUp port = true → exec (.linkUnreachable port) s = .next
    ((s.onSt (fun st => { st with portsUp := st.portsUp - 2 ^ port })).onDev (fun d =>
      { d with health := { d.health with failed := d.health.failed ||| 8 } }))) ∧
  (∀ (s : State) (width gen : Nat), width ∈ [1, 2, 4, 8, 16] → 1 ≤ gen → gen ≤ 7 → exec (.pcieLinkTrained width gen) s = .next (s.onDev (fun d =>
    { d with pcieWidth := width, pcieGen := gen, health := { d.health with failed :=
      d.health.failed % 16 + d.health.failed / 32 * 32 + (if width = 16 ∧ gen = 7 then 0 else 16) } })))

/-- Each packet starts when it is at hand, nothing holds it, and what it names can be read and is accepted. Rests on R348, R349,
R350, R351, R353, R354, R356, R377. -/
def Obligations.PacketsStart : Prop :=
  (∀ (s u v : State) (q n : Nat) (ws : List Word) (bs : List Byte), PacketAt s q n 1 u ws → u.dev.tableTakes q (u.dev.queue q n).stamp = true →
    addrAt ws 1 % 128 = 0 → u.engRead (frontAgent u.dev q) (addrAt ws 1) 128 = (v, bs, .ok) →
    recordOk v.dev v.st q (frontAgent v.dev q).core false bs = true → exec (.launchPacket q n) s =
      .next (((v.started q n).1.onDev (fun d => d.enterLaunch q (LaunchRec.ofBytes bs) (.packet n (v.started q n).2))).postQueue q n)) ∧
  (∀ (s u : State) (q n : Nat) (ws : List Word), PacketAt s q n 2 u ws →
    let f := fld (ws.getD 1 0).toNat 0 6
    let k := (hdrLen (ws.headD 0) - 2) / 16
    let recs := (List.range k).map (fun i => bytesOf ((ws.drop (2 + 16 * i)).take 16))
    ((u.dev.part q).feeds.getD f { records := [], closed := false }).records.length + k ≤ 16 →
    exec (.feed q n) s = .next ((((u.taken q n).onSt (fun st => st.releaseCores (u.dev.coresOf q))).onDev (fun d =>
      let d := d.modPart q (fun p => { p with feeds := modAt p.feeds f (fun k =>
        { records := k.records ++ recs, closed := bit (ws.headD 0).toNat 16 }) })
      { d with groups := d.groups.map (fun (g : Group) => if g.part = q ∧ g.wait = some (GWait.fpop f) then g.rewait else g) })).postQueue q n)) ∧
  (∀ (s u v : State) (q n : Nat) (ws : List Word) (bs : List Byte), PacketAt s q n 3 u ws → addrAt ws 1 % 8 = 0 →
    u.engRead (frontAgent u.dev q) (addrAt ws 1) 8 = (v, bs, .ok) → exec (.wait q n) s = .next ((v.onDev (fun d => d.modQueue q n (fun k =>
      if semOk ws (leNat bs) then { k with cur := none, waiting := false } else { k with waiting := true }))).postQueue q n)) ∧
  (∀ (s v : State) (q n : Nat) (ws : List Word) (bs : List Byte), (s.dev.queue q n).waiting = true → (s.dev.queue q n).cur = some ws →
    s.dev.working q = true → (s.dev.queue q n).parkSeq = none → s.engRead (frontAgent s.dev q) (addrAt ws 1) 8 = (v, bs, .ok) →
    semOk ws (leNat bs) = true →
    exec (.waitRecheck q n) s =
      .next ((v.onDev (fun d => d.modQueue q n (fun k => { k with cur := none, waiting := false }))).postQueue q n)) ∧
  (∀ (s u v w : State) (q n : Nat) (ws : List Word) (bs : List Byte), PacketAt s q n 4 u ws → addrAt ws 1 % 8 = 0 →
    let a := frontAgent u.dev q
    let add := bit (ws.headD 0).toNat 16
    a.resolve u.st (addrAt ws 1) .both ≠ .perm → (if add then u.engRead a (addrAt ws 1) 8 else (u, [], .ok)) = (v, bs, .ok) →
    v.engWrite a (addrAt ws 1) (leBytes 8 ((if add then leNat bs + addrAt ws 3 else addrAt ws 3) % 2 ^ 64)) = (w, .ok) →
    exec (.signal q n) s = .next ((w.taken q n).postQueue q n)) ∧
  (∀ (s u w : State) (q n : Nat) (ws : List Word), PacketAt s q n 9 u ws → addrAt ws 1 % 8 = 0 →
    let a := frontAgent u.dev q
    a.resolve u.st (addrAt ws 1) .both ≠ .perm → u.engWrite a (addrAt ws 1) (leBytes 8 (u.dev.time / 2 % 2 ^ 64)) = (w, .ok) →
    exec (.timestamp q n) s = .next ((w.taken q n).postQueue q n)) ∧
  (∀ (s u v w : State) (q n : Nat) (ws : List Word) (bs ms : List Byte), PacketAt s q n 5 u ws → u.dev.tableTakes q (u.dev.queue q n).stamp = true →
    addrAt ws 1 % 128 = 0 → let a := frontAgent u.dev q
    u.engRead a (addrAt ws 1) 128 = (v, bs, .ok) → drawShapeOk bs = true → v.engRead a (field bs 0 8) 128 = (w, ms, .ok) →
    recordOk w.dev w.st q a.core false ms = true → (LaunchRec.ofBytes ms).pair = false → (LaunchRec.ofBytes ms).quad = false →
    (LaunchRec.ofBytes ms).forme = false → w.targetStop a (field bs 40 8) (16 * field bs 48 2 * field bs 50 2) = .ok →
    let idx := (w.dev.part q).nextDraw
    let tiles := ceilDiv (field bs 48 2) 32 * ceilDiv (field bs 50 2) 32
    let x := drawOf bs (LaunchRec.ofBytes ms) idx n (w.started q n).2 w.dev.nextLno ((w.dev.clustersOf q).take tiles)
    exec (.draw q n) s = .next (((w.started q n).1.onDev (fun d => (d.enterLaunch q (LaunchRec.ofBytes ms) (.draw idx)).modPart q (fun p =>
      { p with draws := p.draws ++ [x], nextDraw := idx + 1 }))).postQueue q n)) ∧
  (∀ (s u v : State) (q n : Nat) (ws : List Word) (bs : List Byte), PacketAt s q n 6 u ws → addrAt ws 1 % 64 = 0 →
    let a := frontAgent u.dev q
    u.engRead a (addrAt ws 1) 64 = (v, bs, .ok) → (∀ r ∈ copyRows bs, r.1 + field bs 32 4 ≤ windowBase ∧ r.2 + field bs 32 4 ≤ windowBase) → (a.copyRanges bs).isSome = true →
    v.copyStop a bs = .ok → exec (.copy q n) s = .next (((v.started q n).1.onDev (fun d =>
      { d with engs := d.engs ++ [{ eid := v.dev.nextOp, kind := .copy, part := q, core := a.core, gid := 0, tid := 0, fut := 0, gen := 0,
                                    scope := 4, desc := bs, hdrVa := BitVec.ofNat 64 (u.dev.queue q n).curOff, fm := [], cancelled := false,
                                    progress := 0, held := [], halfDone := [], parkSeq := none, deadline := none,
                                    packet := some (n, (v.started q n).2), launch := 0, tix := 0, pc := 0, lids := [] }],
               nextOp := d.nextOp + 1 })).postQueue q n)) ∧
  (∀ (s u : State) (q n : Nat) (ws : List Word), PacketAt s q n 7 u ws → (u.dev.queue q n).live = [] → exec (.fence q n) s =
    .next (((u.onSt (fun st => (st.releaseCores (u.dev.coresOf q)).flushL2 q)).taken q n).postQueue q n)) ∧
  (∀ (s u : State) (q n : Nat) (ws : List Word), PacketAt s q n 8 u ws → addrAt ws 1 % 128 = 0 → exec (.indirect q n) s =
    .next (((u.taken q n).onDev (fun d => d.modQueue q n (fun k =>
      { k with indirect := some (BitVec.ofNat 64 (addrAt ws 1), (ws.getD 3 0).toNat) }))).postQueue q n)) ∧
  (∀ (s u : State) (q n : Nat) (ws : List Word), PacketAt s q n 10 u ws → exec (.nop q n) s = .next ((u.taken q n).postQueue q n))

/-- Frames are allocated and loaded, fragment groups are released and placed, fragments are overprinted and tiles are written
back. Rests on R377, R378, R379, R382, R383. -/
def Obligations.DrawsGoOn : Prop :=
  (∀ (s : State) (q core : Nat) (x : Draw), s.head q = some (.frames x) → s.dev.frameCore x = some core → s.dev.working q = true →
    exec (.drawFrameAllocation q) s = .next ((s.carve core 65536).onDev (fun d => d.modPart q (fun p =>
      p.modDraw x.idx (fun y => { y with allocs := y.allocs ++ [core] }))))) ∧
  (∀ (s : State) (q draw tile : Nat) (x : Draw), DrawAt s q draw x →
    let c := s.dev.cluster (s.dev.tileCluster q tile)
    (∀ count, (c.frame? draw tile).isSome = true → 1 ≤ count → count ≤ x.groupWidth / 4 → count ≤ (x.ready tile).length →
      exec (.fragmentGroupRelease q draw tile count) s = .next (releaseNext s q x tile ((x.ready tile).take count))) ∧
    (tile < x.tiles → x.ready tile ≠ [] → x.written.contains tile = false → c.frame? draw tile = none →
      (c.frames.filter (fun f => f.draw == draw)).length < 4 → (s.dev.part q).frameParked draw tile = false →
      (∀ y ∈ (s.dev.part q).draws, y.idx < x.idx → y.target = x.target → y.width = x.width → y.height = x.height → s.dev.tileOver q tile y = true) →
      exec (.tileFrameLoad q draw tile) s = .next (frameNext s q x tile)) ∧
    (∀ f, c.frame? draw tile = some f → x.allClosed = true → x.ready tile = [] → (s.dev.part q).frameParked draw tile = false →
      (∀ k ∈ x.frags, k.tile = tile → k.st.isResolved = true) → exec (.tileWriteBack q draw tile) s = .next (writeBackNext s q x f))) ∧
  (∀ (s : State) (cluster core : Nat) (x : Draw) (f : FragGroup) (rest : List FragGroup),
    let q := s.dev.partOfCore (4 * cluster)
    (s.dev.cluster cluster).frags = f :: rest → DrawAt s q f.draw x →
    s.dev.coreInCluster cluster { groups := 1, lanes := x.groupWidth, regs := x.groupWidth * x.fregs, scratch := 0, acc := 0 } = some core →
    exec (.fragmentGroupPlacement cluster) s = .next (fragNext s q cluster core x f rest)) ∧
  (∀ (s : State) (q draw px py : Nat) (x : Draw) (k : DrawFrag) (src : List Word) (f : TileFrame), DrawAt s q draw x →
    x.lowest px py = some k → k.st = .fout src → (s.dev.cluster (s.dev.tileCluster q k.tile)).frame? draw k.tile = some f →
    (∀ y ∈ (s.dev.part q).draws, y.idx < x.idx → y.allClosed = true) → (x.closedGroups.filter (· < k.key.mesh)).length = k.key.mesh →
    exec (.overprintFragment q draw px py) s = .next (overprintNext s q x f k src px py))

/-- Doorbells, STOPTAIL, host reads, writes and atomics, and power-on complete. Rests on R196, R307, R335, R404, R405, R406,
R411, R412. -/
def Obligations.TheHostReachesTheModule : Prop :=
  (∀ (s : State) (q n : Nat) (v : DWord), q < s.dev.nparts → (n < 64 → exec (.doorbell q n v) s = .next (s.doorbell q n v.toNat)) ∧
    exec (.stoptail q v) s = .next (s.onDev (fun d => d.setTail q v.toNat))) ∧
  (∀ (s : State) (addr : Nat) (data : List Byte), data ≠ [] →
    (addr + data.length ≤ bar2Bytes → s.dev.sliceWaits addr data.length = false →
      exec (.hostWrite .bar2 addr data) s = .next (s.outsideWrite addr data)) ∧
    (addr + data.length ≤ 0x100000 → exec (.hostWrite .bar0 addr data) s = .next (s.bar0Write addr data)) ∧
    (∀ p, s.dev.inbounds p addr data.length = false → exec (.hostWrite (.peer p) addr data) s = .next s.countRefused) ∧
    (∀ p, s.dev.inbounds p addr data.length = true → s.dev.sliceWaits addr data.length = false →
      exec (.hostWrite (.peer p) addr data) s = .next (s.outsideWrite addr data))) ∧
  (∀ (s : State) (addr n : Nat), n ≠ 0 →
    (addr + n ≤ bar2Bytes → s.dev.sliceWaits addr n = false → exec (.hostRead .bar2 addr n) s = .next (s.outsideRead addr n)) ∧
    (addr + n ≤ 0x100000 → exec (.hostRead .bar0 addr n) s = .next (s.answer
      (if (n = 4 ∨ n = 8) ∧ addr % n = 0 then (List.range n).map (fun i => s.dev.bar0Byte s.st.portsUp (addr + i)) else allOnes n))) ∧
    (∀ p, s.dev.inbounds p addr n = false → exec (.hostRead (.peer p) addr n) s = .next (s.countRefused.answer [])) ∧
    (∀ p, s.dev.inbounds p addr n = true → s.dev.sliceWaits addr n = false →
      exec (.hostRead (.peer p) addr n) s = .next (s.outsideRead addr n))) ∧
  (∀ (s : State) (k : HostAtom) (addr : Nat) (wide : Bool) (x y : DWord), let n := if wide then 8 else 4
    addr % n = 0 →
    (addr + n ≤ bar2Bytes → s.dev.sliceWaits addr n = false → exec (.hostAtomic .bar2 k addr wide x y) s = .next (s.outsideAtomic k addr n x y)) ∧
    (addr + n ≤ 0x100000 → exec (.hostAtomic .bar0 k addr wide x y) s = .next (s.answer (allOnes n))) ∧
    (∀ p, s.dev.inbounds p addr n = false → exec (.hostAtomic (.peer p) k addr wide x y) s = .next (s.countRefused.answer [])) ∧
    (∀ p, s.dev.inbounds p addr n = true → s.dev.sliceWaits addr n = false →
      exec (.hostAtomic (.peer p) k addr wide x y) s = .next (s.outsideAtomic k addr n x y))) ∧
  (∀ s : State, s.dev.fw.powered = false → ∃ d, exec .powerOn s = .next { s with dev := d } ∧
    (∀ k, s.dev.fw.key = some k → d.fw.key = some k) ∧ d.fw.powered = true ∧ d.fw.recovery = !s.dev.accepts s.dev.fw.flash ∧
    (s.dev.accepts s.dev.fw.flash = true → d.fw.active = 0 ∧ d.fw.digest = digest s.dev.fw.flash ∧
      d.fw.version = Config.imageVersion s.dev.fw.flash % 2 ^ 64))

/-- Each mailbox command that the module accepts and does not refuse is carried out and answered with 0. The model's choice are that QRESET
leaves ERROFF (log entry 36) and, of log entry 39, that UPDATE reads bits 49:0 of a PCI Express address and that ATTEST answers the chain.
Rests on R315, R317, R325, R326, R329, R331, R332, R347, R352, R408, R413, R415. -/
def Obligations.CommandsAreCarriedOut : Prop :=
  (∀ (s : State) (x : Desc) (ws : List (BitVec 128)), Accepts s 0x01 true → (s.dev.part s.dev.cmdPart).desc = none →
    s.readDesc s.dev.cmdPart (s.dev.operand 0) = some (x, ws) → exec .create s =
      .next (answered ((s.onSt (fun st => st.giveShare s.dev.cmdPart s.dev.nparts x)).onDev (fun d => d.modPart s.dev.cmdPart (fun p =>
      { Part.reset with desc := some x, run := .created, queues := p.queues, cyc := p.cyc,
                        wres := ws.map (fun w => { val := w, count := 0 }) }))))) ∧
  (∀ (s : State) (x : Desc), (s.dev.part s.dev.cmdPart).desc = some x →
    (Accepts s 0x02 true → (s.dev.part s.dev.cmdPart).run.resting = true → exec .start s = .next (answered (s.switchIn s.dev.cmdPart []))) ∧
    (∀ acts, Accepts s 0x04 true → (s.dev.part s.dev.cmdPart).run = .out →
      s.actions (s.dev.operand 0) (s.dev.operand 1) = some acts →
      (∀ r ∈ (s.dev.part s.dev.cmdPart).faults, r.header = true → r.hword = none → actionOf acts r ≠ 1) →
      exec .resume s = .next (answered (s.switchIn s.dev.cmdPart acts))) ∧
    (Accepts s 0x05 true → exec .kill s = .next (answered (s.killContext s.dev.cmdPart 0 0)))) ∧
  (∀ s : State, Accepts s 0x03 true → ((s.dev.part s.dev.cmdPart).run = .running ∨ (s.dev.part s.dev.cmdPart).run = .draining) →
    exec .preempt s = .next (answered ((s.onDev (fun d => d.modPart s.dev.cmdPart (fun p =>
      { p with run := .draining, preemptAt := some (p.preemptAt.getD d.time) }))).endDrain s.dev.cmdPart))) ∧
  (∀ s : State, Accepts s 0x06 true → (s.dev.unhalted s.dev.cmdPart = true → s.usesRange s.dev.cmdPart (s.dev.operand 0) (s.dev.operand 1) = false) →
    exec .shootdown s = .next (answered (s.shootRange s.dev.cmdPart (s.dev.operand 0) (s.dev.operand 1)))) ∧
  (∀ (s : State) (seq : Nat) (k : Parked), Accepts s 0x07 true →
    (s.dev.part s.dev.cmdPart).parks.find? (fun k => k.1 == s.dev.operand 0) = some (seq, k) →
    let q := s.dev.cmdPart
    let u := s.onDev (fun d => d.modPart q (fun p => { p with parks := p.parks.filter (fun x => x.1 != s.dev.operand 0) }))
    exec .parkres s = .next (answered (match k with
      | .group gid => (u.onDev (fun d => d.modGroup gid (fun g => { g with parked := none }))).reissueOf q gid
      | .engine eid => u.onDev (fun d => d.modEng eid (fun e => { e with parkSeq := none }))
      | .queue n => u.onDev (fun d => d.modQueue q n (fun x => { x with parkSeq := none }))
      | .frame _ _ | .fill _ _ => u))) ∧
  (∀ (s : State) (bs : List Byte), Accepts s 0x08 true → s.dev.operand 0 < 64 → s.fwRead (s.dev.operand 1) 64 = bs → queueDescOk bs = true →
    exec .queue s = .next (answered ((s.onDev (fun d => d.modQueue s.dev.cmdPart (s.dev.operand 0) (fun _ => { Queue.reset with
      desc := s.dev.operand 1, base := field bs 0 8, size := field bs 8 4, head := field bs 12 4 % field bs 8 4,
      tail := field bs 16 4 % field bs 8 4, tickets := field bs 20 2, state := field bs 22 1, errCode := field bs 23 1, errOff := field bs 24 4,
      serial := (s.dev.queue s.dev.cmdPart (s.dev.operand 0)).serial }))).postQueue s.dev.cmdPart (s.dev.operand 0)))) ∧
  (∀ s : State, Accepts s 0x09 true → (s.dev.queue s.dev.cmdPart (s.dev.operand 0)).state = 3 →
    exec .qreset s = .next (answered ((s.onDev (fun d => d.modQueue s.dev.cmdPart (s.dev.operand 0) (fun k =>
      { k with state := 0, errCode := 0, head := k.tail, cur := none, indirect := none, units := [], waiting := false }))).postQueue
        s.dev.cmdPart (s.dev.operand 0)))) ∧
  (∀ s : State, Accepts s 0x0A false → s.dev.operand 0 ∈ [1, 2, 4] → (∀ x ∈ s.dev.parts, x.desc = none) →
    exec .partition s = .next (answered ((s.onDev (fun d => { d with nparts := s.dev.operand 0, parts := List.replicate 4 Part.reset })).onSt
      (fun st => st.divide (s.dev.operand 0))))) ∧
  (∀ s : State, let img := s.st.homeGetN none (hostBase + s.dev.operand 0 % 2 ^ 50) (s.dev.operand 1)
    Accepts s 0x0B false → exec .update s = .next (s.onDev (fun d => if d.accepts img && Config.knowsFormat img then
      { d with fw := { d.fw with update := some img } } else d.respond 1))) ∧
  (∀ (s : State) (img : List Byte), s.dev.fw.update = some img → exec .updateTakeover s = .next (answered (s.onDev (fun d =>
    { d with fw := { d.fw with active := 1 - d.fw.active, version := Config.imageVersion img % 2 ^ 64, digest := digest img,
                               flash := img, update := none, recovery := false } })))) ∧
  (∀ s : State, Accepts s 0x0C false → let r := s.report (s.fwRead (s.dev.operand 0) 64)
    exec .attest s = .next (answered (((s.fwWrite (s.dev.operand 1) (r ++ s.dev.fw.sign r)).answer s.dev.fw.chain).onDev (fun d =>
      { d with fw := { d.fw with attests := d.fw.attests + 1 } })))) ∧
  (∀ s : State, Accepts s 0x0D false → exec .clear s = .next (answered ((s.onDev (fun d =>
    { d with health := { d.health with inRefuse := 0, cellDrop := 0, shown := d.health.shown.take 52 ++ List.replicate 16 0 } })).onSt
      (fun st => { st with corrected := 0, drops := 0 }))))

/-- An instruction that writes registers changes nothing but the run that D names, its lanes' places and their stream counters.
Rests on R59, R66, R81, R83, R125, R139, R203, R210. -/
def Obligations.RegisterWritersChangeOnlyTheirDestinations : Prop :=
  (∀ (i : Instr) (f : ValueForm) (s : State) (e : Env) (t : State), valueForm i = some f → Ready s e → exec i s = .next t →
    (∃ code lids, t = faultState e code lids 0) ∨
    GroupOnly e (e.settleReads (valueChks e f.u f.d (f.shape e) f.val) s) t (WroteGroup e f.u f.d (f.shape e))
      (WroteLane e f.u f.d (f.shape e) e.rsto)) ∧
  (∀ (i : Instr) (f : CrossForm) (s : State) (e : Env) (t : State), crossForm i = some f → Ready s e → exec i s = .next t →
    (∃ code lids, t = faultState e code lids 0) ∨
    GroupOnly e (e.settleReads (laneChks e f.d (f.shape e) f.rd) s) t Group.lanesOnly
      (WroteLane e false f.d (f.shape e) (decide (i = .laneRnd f.d)))) ∧
  (∀ (u : Bool) (d : Opnd) (k : BitVec 16) (s : State) (e : Env) (t : State), Ready s e → exec (.rdsr u d k) s = .next t →
    (∃ code lids, t = faultState e code lids 0) ∨
    GroupOnly e (e.settleReads (valueChks e u d (rdsrShape k e) (rdsrVal k)) s) t (WroteGroup e u d (rdsrShape k e))
      (fun a b => WroteLane e u d (rdsrShape k e) false a { b with cych := a.cych } ∧
        (k ≠ 0#16 ∨ e.m.passes a = false → b.cych = a.cych)))

/-- Compares, votes and the writes of group, index and special registers change only what they name. Rests on R60, R83, R85,
R92, R141, R142, R143, R144, R145, R153, R211. -/
def Obligations.StateWritersChangeOnlyTheirs : Prop :=
  let onlyPred := fun (e : Env) (pd : Nat) (a b : Lane) =>
    b.kept = { a.kept with p := b.p, pc := b.pc, clause := b.clause } ∧ (e.m.passes a = false → b.p = a.p) ∧
    ∀ r, r ≠ pd → b.p.getLsbD r = a.p.getLsbD r
  let onlyX := fun (e : Env) (k : BitVec 3) (a b : Lane) =>
    b.kept = { a.kept with x := b.x, pc := b.pc, clause := b.clause } ∧ (e.m.passes a = false → b.x = a.x) ∧
    ∀ r : Nat, r ≠ k.toNat → b.x[r]? = a.x[r]?
  let onlyMode := fun (g h : Group) => { h with lanes := g.lanes, mode := g.mode } = { g with since := none }
  (∀ (i : Instr) (f : PredForm) (s : State) (e : Env) (t : State), predForm i = some f → Ready s e → exec i s = .next t →
    (∃ code lids, t = faultState e code lids 0) ∨
    GroupOnly e (e.settleReads (e.readChks f.u (predRead f.p f.val e)) s) t Group.lanesOnly (onlyPred e f.p.toNat)) ∧
  (∀ (p : BitVec 6) (n : Bool) (q : BitVec 6) (i : Instr) (s : State) (e : Env) (t : State), i = .laneAny p n q ∨ i = .laneAll p n q →
    Ready s e → exec i s = .next t →
    (∃ code lids, t = faultState e code lids 0) ∨ GroupOnly e s t Group.lanesOnly (onlyPred e p.toNat)) ∧
  (∀ (i : Instr) (f : GroupForm) (s : State) (e : Env) (t : State), groupForm i = some f → Ready s e → exec i s = .next t →
    (∃ code lids, t = faultState e code lids 0) ∨
    GroupOnly e (e.settleReads (groupChks e f.u f.rd) s) t (fun g h => match i with
      | .fmt d _ => { h with lanes := g.lanes, fm := g.fm } = { g with since := none } ∧ ∀ r : Nat, r ≠ d.toNat → h.fm[r]? = g.fm[r]?
      | .omap d _ => { h with lanes := g.lanes, om := g.om } = { g with since := none } ∧ ∀ r : Nat, r ≠ d.toNat → h.om[r]? = g.om[r]?
      | _ => onlyMode g h) Lane.movedOn) ∧
  (∀ (i : Instr) (f : LaneForm) (s : State) (e : Env) (t : State), laneForm i = some f → Ready s e → exec i s = .next t →
    (∃ code lids, t = faultState e code lids 0) ∨
    GroupOnly e (e.settleReads (e.readChks f.u (f.rd e)) s) t Group.lanesOnly (fun a b => match i with
      | .xset _ k _ _ => onlyX e k a b
      | .xoff _ k _ => onlyX e k a b
      | .xadd _ k _ => onlyX e k a b
      | .wrsr _ _ k => b.kept = { a.kept with rctr := b.rctr, sp := b.sp, pc := b.pc, clause := b.clause } ∧
          (e.m.passes a = false ∨ k ≠ 0x0C#16 → b.rctr = a.rctr) ∧ (e.m.passes a = false ∨ k ≠ 0x0E#16 → b.sp = a.sp)
      | _ => False))

/-- A load, lda, dtag or atomic that issues marks exactly its destinations PENDING and counts its flag, and changes no byte of memory;
an exact add, which is performed at its issue (R292), changes none but those of its words, of their lines' older copies in the core's
L1, and of the area that accumulators move to. Rests on R56, R57, R77, R181, R183, R184, R185, R194, R197, R201, R292, R313. -/
def Obligations.LoadsAndAtomicsChangeNoMemoryAtIssue : Prop :=
  ∀ (i : Instr) (f : LongForm) (s : State) (e : Env) (ps : List (Req × Place)), longForm i = some f → Ready s e → Inv s →
    Clean (longChks e f.u f.d f.k) → ((f.k.spec e).takeFlag = true → e.g.flagFull e.flag = false) →
    Reached e (f.k.spec e).size f.k.need f.k.srcToo true (longReqs e f.u f.d f.k) ps → (∀ p ∈ ps, f.k.refuse e p.1 p.2 = false) →
    spillStops e f.k ps = [] → e.orderStops (f.k.spec e).size ps = false → (∀ p ∈ ps, SettledAt s e.g.part p.2) →
    let w := e.touchAll f.k.writes ps (e.settleReads (longChks e f.u f.d f.k) s)
    let run := (f.k.spec e).tags.length
    let exact := (f.k.spec e).kind.isDet
    (exact = true → ∀ p ∈ ps, w.dead e.g.core p.2 = false) →
    ∃ t, exec i s = .next t ∧ (exact = false → t.st = w.st) ∧
      (exact = true → (∀ p ∈ ps, p.2.deferred = false) → ∀ pl, ¬ InSpill e pl → (∀ p ∈ ps, pl.base / 128 ≠ p.2.base / 128) →
        byteAt t.st e.g.core .l1 pl = byteAt w.st e.g.core .l1 pl) ∧
      GroupFrame e w t
      (fun g h => { h with lanes := g.lanes, sregs := g.sregs, flags := g.flags } = { g with since := none } ∧
        (∀ r : Nat, h.sregs[r]? ≠ g.sregs[r]? → f.u = true ∧ (∃ m ∈ e.passing, InRun (longDest e f.u f.d f.k m).val run r true) ∧
          h.sregs[r]? = g.sregs[r]?.map (fun x => { x with tag := .pending })) ∧
        (∀ m ∈ e.passing, ∀ r : Nat, InRun (longDest e f.u f.d f.k m).val run r true →
          h.sregs[r]? = g.sregs[r]?.map (fun x => { x with tag := .pending })) ∧
        h.flags = (if ps = [] then g else g.addFlag (if (f.k.spec e).takeFlag then e.flag else none)).flags)
      (fun a b => b.kept = { a.kept with v := b.v, rctr := b.rctr, pc := b.pc, clause := b.clause } ∧
        (e.m.passes a = false ∨ e.rsto = false → b.rctr = a.rctr) ∧
        (∀ r : Nat, b.v[r]? ≠ a.v[r]? → (∃ m ∈ e.passing, m.lid = a.lid ∧ InRun (longDest e f.u f.d f.k m).val run r false) ∧
          b.v[r]? = a.v[r]?.map (fun x => { x with tag := .pending })) ∧
        ∀ m, e.passing.find? (fun m => m.lid == a.lid) = some m → ∀ r : Nat, InRun (longDest e f.u f.d f.k m).val run r false →
          b.v[r]? = a.v[r]?.map (fun x => { x with tag := .pending }))

/-- A store changes only the bytes it stores, and of its lanes only their places; dpub only the cells of its lanes, and marks these as
having published. Rests on R182, R186, R187, R198, R199, R200, R295, R296, R297, R313. -/
def Obligations.StoresChangeOnlyTheirBytes : Prop :=
  (∀ (i : Instr) (f : StoreForm) (s : State) (e : Env) (ps : List (Req × Place)), storeForm i = some f → Ready s e → Inv s →
    NoReplays s → Clean (e.readChks f.u (f.k.read e)) → Reached e (f.k.size e) .write true true (storeReqs e f.u f.k) ps →
    e.orderStops (f.k.size e) ps = false → (∀ p ∈ ps, s.isPrinting p.2 = false) →
    let w := e.touchAll true ps (e.settleReads (e.readChks f.u (f.k.read e)) s)
    let via := viaOf e.m false .store
    ∃ t, exec i s = .next t ∧ GroupFrame e w t Group.lanesOnly Lane.movedOn ∧
      ∀ pl, SeenPlainly w.st e.g.core pl → (∀ p ∈ ps, ¬ Touched w.st (f.k.size e) p.2 pl.base) →
        byteAt t.st e.g.core via pl = byteAt w.st e.g.core via pl) ∧
  (∀ (u : Bool) (d a : Opnd) (o : BitVec 8) (s : State) (e : Env) (ps : List (Req × Place)), Ready s e → Inv s → NoReplays s →
    Clean (e.readChks u ((strlOp d a o).read e)) → Reached e (typeSize e) .write true true (storeReqs e u (strlOp d a o)) ps →
    e.orderStops (typeSize e) ps = false → (∀ p ∈ ps, s.isPrinting p.2 = false) →
    (∀ p ∈ ps, e.s.dev.laneHas e.g.gid p.1.lane.lid (fun _ => true) = false) →
    let w := e.touchAll true ps (e.settleReads (e.readChks u ((strlOp d a o).read e)) s)
    let via := viaOf e.m false .strl
    ∃ t, exec (.strl u d a o) s = .next t ∧ GroupFrame e w t Group.lanesOnly Lane.movedOn ∧
      ∀ pl, SeenPlainly w.st e.g.core pl → (∀ p ∈ ps, ¬ Touched w.st (typeSize e) p.2 pl.base) →
        byteAt t.st e.g.core via pl = byteAt w.st e.g.core via pl) ∧
  (∀ (u : Bool) (d a : Opnd) (o : BitVec 8) (s : State) (e : Env) (ps : List (Req × Place)), Ready s e → Inv s → NoReplays s →
    Clean (e.readChks u ((plateOp d a o).read e)) → (∀ r ∈ storeReqs e u (plateOp d a o), field r.data 0 4 % 4 = 0) →
    Reached e 16 .write true true (storeReqs e u (plateOp d a o)) ps → (∀ p ∈ ps, notDeferred e p.2 = false) →
    e.orderStops 16 ps = false → (∀ p ∈ ps, s.isPrinting p.2 = false) →
    let w := e.touchAll true ps (e.settleReads (e.readChks u ((plateOp d a o).read e)) s)
    ∃ t, exec (.dplate u d a o) s = .next t ∧ GroupFrame e w t Group.lanesOnly Lane.movedOn ∧
      ∀ pl, (∀ p ∈ ps, pl.base / 16 ≠ p.2.base / 16) → byteAt t.st e.g.core .l1 pl = byteAt w.st e.g.core .l1 pl) ∧
  (∀ (d : Opnd) (n : BitVec 8) (s : State) (e : Env), Ready s e → Inv s → Clean (e.readChks false (dpubRead d n e)) →
    (∀ l ∈ e.passing, l.ticket ≠ 0 ∧ l.published = false ∧ e.s.dev.locked e.g.core true (l.cellVa.toNat, 16) = false ∧
      e.s.dev.laneHas e.g.gid l.lid (fun _ => true) = false) →
    let w := e.settleReads (e.readChks false (dpubRead d n e)) s
    ∃ t, exec (.dpub d n) s = .next t ∧ GroupFrame e w t Group.lanesOnly (fun a b =>
        b.kept = { a.kept with published := a.published || e.m.passes a, pc := b.pc, clause := b.clause }) ∧
      ∀ pl, SeenPlainly w.st e.g.core pl → (∀ l ∈ e.passing, pl.base / 16 ≠ l.cell) →
        byteAt t.st e.g.core .home pl = byteAt w.st e.g.core .home pl)

/-- br, jmp and exit change nothing but where lanes stand and which have exited; call and callr change besides only sr.sp, the depth and
the stack slots of the lanes that take them, ret only sr.sp and the depth. Rests on R20, R24, R41, R42, R205, R206, R207, R208, R209, R313. -/
def Obligations.TransfersChangeOnlyTheWay : Prop :=
  let called := fun (takers : List (Lane × Nat)) (a b : Lane) =>
    b.kept = { a.kept with sp := b.sp, depth := b.depth, pc := b.pc, clause := b.clause } ∧
    if takers.any (fun t => t.1.lid == a.lid) then b.sp = a.sp - 8#64 ∧ b.depth = a.depth + 1 else b.sp = a.sp ∧ b.depth = a.depth
  let slots := fun (e : Env) (w t : State) (ps : List (Req × Place)) => let via := viaOf e.m false .store
    ∀ pl, SeenPlainly w.st e.g.core pl → (∀ p ∈ ps, ¬ Touched w.st 8 p.2 pl.base) → byteAt t.st e.g.core via pl = byteAt w.st e.g.core via pl
  let gone := fun (g h : Group) => { h with lanes := g.lanes, primsClosed := g.primsClosed } = { g with since := none } ∧
        (h.primsClosed ≠ g.primsClosed → h.lanes.any Lane.live = false)
  let left := fun (e : Env) (a b : Lane) =>
    b.kept = { a.kept with pc := b.pc, clause := b.clause, exited := a.exited || (e.passing.map (·.lid)).contains a.lid }
  (∀ (u : Bool) (p : BitVec 6) (n : Bool) (o : BitVec 16) (s : State) (e : Env) (t : State), Ready s e →
    exec (.br u p n o) s = .next t →
    (∃ code lids, t = faultState e code lids 0) ∨ GroupOnly e s t Group.lanesOnly Lane.movedOn) ∧
  (∀ (u : Bool) (a : Opnd) (s : State) (e : Env) (t : State), Ready s e → exec (.jmp u a) s = .next t →
    (∃ code lids, t = faultState e code lids 0) ∨
    GroupOnly e (e.settleReads (e.readChks u (targetRead a e)) s) t Group.lanesOnly Lane.movedOn) ∧
  (∀ (u : Bool) (p : BitVec 6) (n : Bool) (o : BitVec 16) (s : State) (e : Env) (ps : List (Req × Place)), Ready s e → Inv s → NoReplays s →
    Clean (e.branchChks u p n) → callDeep (callTakers e u p n o) = [] → callOdd (callTakers e u p n o) = [] →
    callLow e (callTakers e u p n o) = [] → Reached e 8 .write true false (callReqs e (callTakers e u p n o)) ps →
    e.orderStops 8 ps = false → (∀ p ∈ ps, s.isPrinting p.2 = false) →
    let w := e.touchAll true ps s
    ∃ t, exec (.call u p n o) s = .next t ∧ GroupFrame e w t Group.lanesOnly (called (callTakers e u p n o)) ∧ slots e w t ps) ∧
  (∀ (u : Bool) (a : Opnd) (s : State) (e : Env) (ps : List (Req × Place)), Ready s e → Inv s → NoReplays s →
    Clean (e.readChks u (targetRead a e)) → (∀ t ∈ targets e u a, t.2 % 4 = 0) → callDeep (targets e u a) = [] →
    callOdd (targets e u a) = [] → callLow e (targets e u a) = [] → Reached e 8 .write true false (callReqs e (targets e u a)) ps →
    e.orderStops 8 ps = false → (∀ p ∈ ps, s.isPrinting p.2 = false) →
    let w := e.touchAll true ps (e.settleReads (e.readChks u (targetRead a e)) s)
    ∃ t, exec (.callr u a) s = .next t ∧ GroupFrame e w t Group.lanesOnly (called (targets e u a)) ∧ slots e w t ps) ∧
  (∀ (s : State) (e : Env) (ps : List (Req × Place)), Ready s e → (∀ l ∈ e.lanes, l.depth ≠ 0) → Reached e 8 .read false true (retReqs e) ps →
    e.orderStops 8 ps = false → let w := e.touchAll false ps s
    (∀ p ∈ ps, w.dead e.g.core p.2 = false ∧ p.2.deferred = false) →
    ∃ t, exec .ret s = .next t ∧
      GroupFrame e w t Group.lanesOnly (fun a b =>
        b.kept = { a.kept with sp := b.sp, depth := b.depth, pc := b.pc, clause := b.clause, hold := b.hold } ∧
        (a.hold = none → b.hold = none) ∧ ((b.sp = a.sp ∧ b.depth = a.depth) ∨ (b.sp = a.sp + 8#64 ∧ b.depth = a.depth - 1))) ∧
      ∀ pl, ¬ InSpill e pl → byteAt t.st e.g.core .l1 pl = byteAt w.st e.g.core .l1 pl) ∧
  (∀ (u : Bool) (s : State) (e : Env), Ready s e → (∀ l ∈ e.g.lanes, l.ticket = 0 ∧ l.frag = none) →
    ∃ t, exec (.exit u) s = .next t ∧ t.st = s.st ∧ GroupFrame e s t gone (left e)) ∧
  (∀ (u : Bool) (a : Opnd) (s : State) (e : Env), Ready s e → Inv s → Clean (e.readChks u (targetRead a e)) →
    (∀ l ∈ e.g.lanes, l.ticket = 0 ∧ l.frag = none) → let w := e.settleReads (e.readChks u (targetRead a e)) s
    (e.isLast = false → ∃ t, exec (.exitSuccessor u a) s = .next t ∧ t.st = s.st ∧ GroupFrame e w t gone (left e)) ∧
    (∀ ps, e.isLast = true → succOdd e u a = [] → e.t.kind ≠ .task → e.t.kind ≠ .evaluator → e.t.shape.quad = false →
      SpanReached e 128 [(e.leader, succVa e u a)] ps → e.recordStops ps = false → let k := succState e u a ps
      succOk k e (succBytes k e ps) = true → successorFits e.t.shape (LaunchRec.ofBytes (succBytes k e ps)) = true →
      let ag := e.agent e.leader
      ∃ t, exec (.exitSuccessor u a) s = .next t ∧ t.st = k.st ∧ GroupFrame e k t gone (left e) ∧
        (Cached s.st ag (succVa e u a) false → KeepsHome e.g.core s.st t.st) ∧
        (¬ Cached s.st ag (succVa e u a) false → ∀ x at_ sh,
          (s.st.acquire e.g.core).walk ag.part ag.nparts ag.root (succVa e u a) = .leaf x at_ sh →
          (∀ pl, SeenPlainly s.st e.g.core pl → (pl.base < at_ ∨ at_ + 8 ≤ pl.base) →
            byteAt t.st e.g.core .home pl = byteAt s.st e.g.core .home pl) ∧
          (ag.nparts ∈ [1, 2, 4] → ag.part < ag.nparts → ag.root % 2 ^ 16 = 0 → t.st.homeGetN none at_ 8 = leBytes 8 (usedLeaf false x)))))

/-- The reads of an issue resolve handles of the issuing group: no register that holds no such handle changes, nor any other state of
lanes and groups; where they free an entry, an engine instruction that waits for it goes on and writes its own handle. Rests on R76,
R237, R269. -/
def Obligations.ReadsOfHandlesKeepTheRest : Prop :=
  ∀ (e : Env) (cs : List (Nat × Chk)) (s : State), let w := e.settleReads cs s
    (NoHandles cs → w = s) ∧ w.st = s.st ∧
    w.dev.groups.length = s.dev.groups.length ∧
    (∀ (n : Nat) (g h : Group), s.dev.groups[n]? = some g → w.dev.groups[n]? = some h → ReadsKeep e s g h) ∧
    w.dev.teams.map (fun t => { t with futs := [] }) = s.dev.teams.map (fun t => { t with futs := [] }) ∧
    ((∀ gid, ¬ EngWaits s gid) → { w.dev with groups := s.dev.groups, teams := s.dev.teams } = s.dev)

/-- At issue a matrix or acc instruction changes no memory and no accumulator, and of its group only the latch, its flag, the stream counters
and, for acc.rd, the registers that become PENDING; performed, a multiply, acc.zero and acc.scale change only the slots that their entries
name, and acc.rd none (acc.ld and acc.st performed: PerformedTransfersChangeOnlyTheirs). Rests on R125, R249, R250, R254, R255, R258, R260,
R261, R262, R263, R264, R282. -/
def Obligations.MatrixInstructionsChangeOnlyTheirSlots : Prop :=
  let only := fun (flag : Option Nat) (g h : Group) =>
    { h with lanes := g.lanes, flags := g.flags } = { g with since := none } ∧ h.flags = (g.addFlag flag).flags
  let counts := fun (e : Env) (a b : Lane) => b.kept = { a.kept with rctr := b.rctr, pc := b.pc, clause := b.clause } ∧
    (e.m.passes a = false ∨ e.rsto = false → b.rctr = a.rctr)
  (∀ (i : Instr) (x : MxOp) (s : State) (e : Env) (tile : MxTile), matrixForm i = some x → Ready s e → Clean (mxChks e x) →
    e.mxFull e.flag = false → mxTile e x = .ok tile → ∃ t, exec i s = .next t ∧ t.st = s.st ∧
      GroupFrame e (e.settleReads (mxChks e x) s) t (fun g h =>
        { h with lanes := g.lanes, flags := g.flags, latch := g.latch } = { g with since := none } ∧ h.flags = (g.addFlag e.flag).flags)
        Lane.movedOn) ∧
  (∀ (i : Instr) (k : AccMove) (s : State) (e : Env) (ps : List (Req × Place)), accMoveForm i = some k → Ready s e →
    Clean (accMoveChks e k) → e.mxFull e.flag = false →
    Reached e 16 (if k.store then .write else .read) k.store true (accMoveReqs e k) ps → e.orderStops 16 ps = false →
    let w := e.touchAll k.store ps (e.settleReads (accMoveChks e k) s)
    ∃ t, exec i s = .next t ∧ t.st = w.st ∧ GroupFrame e w t (only e.flag) (counts e)) ∧
  (∀ (c : BitVec 6) (n : BitVec 2) (x : BitVec 3) (s : State) (e : Env), Ready s e → Clean (zeroChks e c n x) → e.mxFull none = false →
    ∃ t, exec (.accZero c n x) s = .next t ∧ t.st = s.st ∧ GroupFrame e s t (only none) Lane.movedOn) ∧
  (∀ (a : Opnd) (c : BitVec 6) (n : BitVec 2) (x : BitVec 3) (s : State) (e : Env), Ready s e → Clean (scaleChks e a c n x) →
    e.mxFull none = false → ∃ t, exec (.accScale a c n x) s = .next t ∧ t.st = s.st ∧
      GroupFrame e (e.settleReads (scaleChks e a c n x) s) t (only none) (counts e)) ∧
  (∀ (d : Opnd) (c : BitVec 6) (x : BitVec 3) (s : State) (e : Env), Ready s e → Clean (accRdChks e d c x) → e.mxFull e.flag = false →
    ∃ t, exec (.accRd d c x) s = .next t ∧ t.st = s.st ∧ GroupFrame e s t (only e.flag) (fun a b =>
      b.kept = { a.kept with v := b.v, pc := b.pc, clause := b.clause } ∧
      ∀ r : Nat, b.v[r]? = if (e.passing.map (·.lid)).contains a.lid ∧ vBase d ≤ r ∧ r < vBase d + accRun e
        then a.v[r]?.map (fun y => { y with tag := .pending }) else a.v[r]?)) ∧
  (∀ (s t : State) (core : Nat) (x : MxEntry) (rest : List MxEntry), Inv s → (s.dev.core core).mq = x :: rest →
    x.kind ∈ [.mma, .zero, .scale, .rd] → exec (.matrixOperation core) s = .next t →
    OnlySlots (fun a => x.kind ≠ .rd ∧ x.owns a) s.st t.st) ∧
  (∀ (s t : State) (core tid : Nat) (k : Team) (x : MxEntry) (rest : List MxEntry), Inv s → s.dev.team? tid = some k →
    exec (.jointOperationStart tid) s = .next t ∨
      ((s.dev.core core).mq = x :: rest ∧ x.kind = .mmj ∧ x.tid = tid ∧ exec (.matrixOperation core) s = .next t) →
    OnlySlots (fun a => ∃ cx ∈ s.dev.jointEntries k, cx.2.owns a) s.st t.st)

/-- Performed, acc.ld changes of the accumulators only the elements its entry names and of memory no byte (but those of the area that exact
accumulators move to), and acc.st no accumulator and of memory only the bytes of its rows. Rests on R182, R249, R254, R256, R261, R262,
R292, R297. -/
def Obligations.PerformedTransfersChangeOnlyTheirs : Prop :=
  ∀ (s t : State) (core : Nat) (x : MxEntry) (rest : List MxEntry) (o : Op), Inv s → (s.dev.core core).mq = x :: rest →
    x.kind = .ld ∨ x.kind = .st → s.dev.op? x.opid = some o → exec (.matrixOperation core) s = .next t →
    (∀ n, (x.kind = .ld → ¬ x.owns n) → t.st.acc.get n = s.st.acc.get n) ∧
    (o.core = core → o.size = 16 → o.kind = (if x.kind = .st then .accSt else .accLd) →
      (o.started = true → ∀ a ∈ o.accs, a.data.length = 16) →
      (∀ a ∈ o.accs, a.place.deferred = false ∧ a.cell = none ∧ s.dead core a.place = false) →
      (∀ g, s.dev.group? x.gid = some g → ∀ l ∈ g.lanes, l.hold = none) →
      let area := (s.dev.part o.part).desc.getD Desc.none
      ∀ pl, SeenPlainly s.st core pl →
        (x.kind = .ld → ∀ k c sc df, pl = .pa k c sc df → k < area.spill ∨ area.spill + area.spillLen ≤ k) →
        (x.kind = .st → ∀ a ∈ o.accs, ¬ Touched s.st 16 a.place pl.base) →
        byteAt t.st core .home pl = byteAt s.st core .home pl)

/-- An engine instruction that issues changes no byte of memory but as its translations do, of its group only the registers that receive
handles, tagged FUTURE, and of its lanes their places and, where entries are wanting, what they wait for. Rests on R202, R237, R238, R269,
R272, R273, R274, R275, R276, R277, R364. -/
def Obligations.EngineIssuesChangeOnlyTheirHandles : Prop :=
  let handle := fun (x : Option Reg) => ∃ h, x = some { bits := h, tag := .future }
  let onlyS := fun (e : Env) (u : Bool) (d : Opnd) (g h : Group) => { h with lanes := g.lanes, sregs := g.sregs } = { g with since := none } ∧
    ∀ r : Nat, h.sregs[r]? ≠ g.sregs[r]? → u = true ∧ (∃ m ∈ e.passing, InRun (dest e m u d 1 false).val 1 r true) ∧ handle h.sregs[r]?
  let onlyV := fun (e : Env) (u : Bool) (d : Opnd) (a b : Lane) =>
    b.kept = { a.kept with v := b.v, pc := b.pc, clause := b.clause, hold := b.hold } ∧
    ∀ r : Nat, b.v[r]? ≠ a.v[r]? → (∃ m ∈ e.passing, m.lid = a.lid ∧ InRun (dest e m u d 1 false).val 1 r false) ∧ handle b.v[r]?
  (∀ (i : Instr) (f : EngForm) (s : State) (e : Env) (ps : List (Req × Place)), engForm i = some f → Ready s e → Inv s →
    Clean (engChks e f.u f.d (targetRead f.a)) → Reached e f.kind.descLen .read false true (engReqs e f.u f.d f.a) ps →
    e.orderStops f.kind.descLen ps = false → CellsReady e f.kind.descLen ps → (∀ p ∈ ps, p.2.deferred = false) →
    engRefused e f.kind (engDescs e f.u f.d f.a f.kind.descLen ps).2 = [] →
    let w := e.touchAll false ps (e.settleReads (engChks e f.u f.d (targetRead f.a)) s)
    let via := viaOf e.m false .load
    ∃ t, exec i s = .next t ∧ GroupFrame e w t (onlyS e f.u f.d) (onlyV e f.u f.d) ∧
      ∀ pl, ¬ InSpill e pl → SeenPlainly w.st e.g.core pl → byteAt t.st e.g.core via pl = byteAt w.st e.g.core via pl) ∧
  (∀ (i : Instr) (f : EngForm) (s : State) (e : Env) (ps : List (Req × Place)), weightForm i = some f → Ready s e → Inv s →
    Clean (engChks e f.u f.d (weightRead f.a)) → overHeap e (weightActs e f.u f.a) = [] →
    Reaches e 64 .read (headerReqs e (weightActs e f.u f.a)) ps → e.headerStops ps = false → e.headersHurt ps = [] → CellsReady e 64 ps →
    notNeural (readHeaders e ps).2 = [] → let w := e.touchAll false ps (e.settleReads (engChks e f.u f.d (weightRead f.a)) s)
    ∃ t, exec i s = .next t ∧ GroupFrame e w t (onlyS e f.u f.d) (onlyV e f.u f.d) ∧
      ∀ pl, SeenPlainly w.st e.g.core pl → byteAt t.st e.g.core .l1 pl = byteAt w.st e.g.core .l1 pl)

/-- Regroup halves, barriers, waitv, spawn, launch, fpop, the fut instructions, tim.wcyc, tim.pclass, tim.yield and sys.perf change of their
group only their destinations, what the gang waits for and its place, and no byte of memory; those that acquire or release keep every
byte as it is read at its home. Rests on R215, R217, R219, R220, R222, R228, R239, R240, R241, R242, R243, R246. -/
def Obligations.MeetingsAndTasksChangeOnlyTheirs : Prop :=
  let waits := fun (g h : Group) => { h with lanes := g.lanes, wait := g.wait, waiting := g.waiting } = { g with since := none }
  let still := fun (a b : Lane) => b.kept = a.kept
  let held := fun (a b : Lane) => b.kept = { a.kept with pc := b.pc, clause := b.clause, hold := b.hold }
  let wrote := fun (a b : Lane) => b.kept = { a.kept with v := b.v, pc := b.pc, clause := b.clause }
  (∀ (u : Bool) (p : BitVec 6) (a : Opnd) (s : State) (e : Env) (peer : Group) (give : Bool), Ready s e →
    Clean (e.readChks true (regrpRead p a e)) → e.regroupPeer give (regrpVal e p a) = some peer → e.converged = .yes →
    ∃ t, exec (if give then .regrpGive u p a else .regrpTake u p a) s = .next t ∧ t.st = s.st ∧
      GroupFrame e (e.settleReads (e.readChks true (regrpRead p a e)) s) t waits still) ∧
  (∀ (i : Instr) (f : BarForm) (s : State) (e : Env), barForm i = some f → Ready s e → f.b.toNat < 16 → e.t.kind ≠ .task →
    e.t.kind ≠ .evaluator → e.converged = .yes → barStep e (f.post && !e.leader.skip) f.await f.b.toNat ≠ .bad →
    ∃ t, exec i s = .next t ∧ (e.t.shape.pair = false → t.st = s.st) ∧
      (∀ pl, (∀ c ∈ e.t.cores, lineAt s.st.lines c 0 (pl.base / 128) = none) → byteAt t.st e.g.core .home pl = byteAt s.st e.g.core .home pl) ∧
      GroupFrame e s t (fun g h => { h with lanes := g.lanes, wait := g.wait, waiting := g.waiting, barLast := g.barLast } =
          { g with since := none } ∧ ∀ r : Nat, r ≠ f.b.toNat → h.barLast[r]? = g.barLast[r]?) Lane.movedOn) ∧
  (∀ (u : Bool) (d a b : Opnd) (s : State) (e : Env) (ps : List (Req × Place)), Ready s e → Inv s → Clean (waitvChks e u d a b) →
    Reached e 4 .read false true (waitvReqs e u d a b) ps → e.orderStops 4 ps = false → (∀ p ∈ ps, p.2.deferred = false) →
    let w := e.touchAll false ps (e.settleReads (waitvChks e u d a b) s)
    (∀ p ∈ ps, w.dead e.g.core p.2 = false) →
    ∃ t, exec (.waitv u d a b) s = .next t ∧
      (∀ pl, ¬ InSpill e pl → SeenPlainly w.st e.g.core pl → byteAt t.st e.g.core .home pl = byteAt w.st e.g.core .home pl) ∧
      GroupFrame e w t (fun g h =>
        { h with lanes := g.lanes, sregs := g.sregs, wait := g.wait, waiting := g.waiting, pace := g.pace } = { g with since := none } ∧
        ∀ r : Nat, h.sregs[r]? ≠ g.sregs[r]? → ∃ m ∈ e.passing, InRun (dest e m u d 1 false).val 1 r true) (fun a b => wrote a b ∧
        ∀ r : Nat, b.v[r]? ≠ a.v[r]? → ∃ m ∈ e.passing, m.lid = a.lid ∧ InRun (dest e m u d 1 false).val 1 r false)) ∧
  (∀ (u : Bool) (r : BitVec 5) (a : Opnd) (n : BitVec 8) (s : State) (e : Env), Ready s e → Inv s → Clean (e.readChks u (spawnRead r a e)) →
    spawnOdd e u r a = [] → Quiet e → NoHold s (fun h => ∃ rest, h = .spawn rest) →
    ∃ t, exec (.spawn u r a n) s = .next t ∧ KeepsHome e.g.core s.st t.st ∧
      GroupFrame e (e.settleReads (e.readChks u (spawnRead r a e)) s) t Group.lanesOnly held) ∧
  (∀ (u : Bool) (a : Opnd) (s : State) (e : Env) (ps : List (Req × Place)), Ready s e → Inv s → Clean (e.readChks u (targetRead a e)) →
    launchActs e u a ≠ [] → launchOdd e u a = [] → e.t.kind ≠ .task → e.t.kind ≠ .evaluator → SpanReached e 128 (launchActs e u a) ps →
    Quiet e → badRecs (launchState e u a ps) e (launchRecs (launchState e u a ps) e ps) = [] →
    ∃ t, exec (.launch u a) s = .next t ∧ t.st = (launchState e u a ps).st ∧
      ((∀ p ∈ ps, Cached s.st (e.agent p.1.lane) p.1.va false) → KeepsHome e.g.core s.st t.st) ∧
      GroupFrame e (launchState e u a ps) t Group.lanesOnly held) ∧
  (∀ (u : Bool) (d a : Opnd) (p : BitVec 6) (s : State) (e : Env), Ready s e → Inv s → Clean (fpopChks e u d a p) →
    (∀ r ∈ (fpopFeed e a p).records, r.length = 64) →
    ∃ t, exec (.fpop u d a p) s = .next t ∧ KeepsHome e.g.core s.st t.st ∧
      GroupFrame e (e.settleReads (fpopChks e u d a p) s) t (fun g h =>
        { h with lanes := g.lanes, sregs := g.sregs, wait := g.wait, waiting := g.waiting } = { g with since := none } ∧
        ∀ r : Nat, h.sregs[r]? ≠ g.sregs[r]? → InRun (dest e e.leader u d 16 true).val 16 r true) (fun a b =>
        b.kept = { a.kept with v := b.v, p := b.p, pc := b.pc, clause := b.clause } ∧
        (e.m.passes a = false → b.v = a.v ∧ b.p = a.p) ∧ (∀ r, r ≠ p.toNat → b.p.getLsbD r = a.p.getLsbD r) ∧
        ∀ r : Nat, b.v[r]? ≠ a.v[r]? → InRun (dest e (e.source false a) u d 16 true).val 16 r false)) ∧
  (∀ (u wait : Bool) (d a : Opnd) (s : State) (e : Env), Ready s e → Inv s → Clean (futChks e u d (futRead a)) →
    staleLids (handles e u (futRead a)) = [] → (∀ gid, ¬ EngWaits s gid) → let hs := handles e u (futRead a)
    ∃ t, exec (if wait then .futWait u d a else .futTest u d a) s = .next t ∧ KeepsHome e.g.core s.st t.st ∧
      GroupFrame e s t (fun g h =>
        { h with lanes := g.lanes, sregs := g.sregs, wait := g.wait, waiting := g.waiting } = { g with since := none } ∧
        ∀ r : Nat, h.sregs[r]? ≠ g.sregs[r]? → hs ≠ [] ∧
          (InRun (dest e e.leader u d 1 false).val 1 r true ∨ ∃ k ∈ hs, k.busy = false ∧ k.reg = .s r)) (fun a b => wrote a b ∧
        ∀ r : Nat, b.v[r]? ≠ a.v[r]? → ∃ k ∈ hs, a.lid ∈ k.lids ∧
          (InRun (dest e (e.source false a) u d 1 false).val 1 r false ∨ k.busy = false ∧ k.reg = .v r))) ∧
  (∀ (u : Bool) (a : Opnd) (s : State) (e : Env), Ready s e → Clean (e.readChks u (futRead a e)) → staleLids (handles e u (futRead a)) = [] →
    ∃ t, exec (.futCancel u a) s = .next t ∧ t.st = s.st ∧ GroupFrame e s t Group.lanesOnly Lane.movedOn) ∧
  (∀ (u : Bool) (d a : Opnd) (s : State) (e : Env), Ready s e → Clean (futChks e u d (adoptRead a)) →
    staleLids (handles e u (adoptRead a)) = [] → ∃ t, exec (.futAdopt u d a) s = .next t ∧ t.st = s.st ∧
      GroupFrame e s t (fun g h => { h with lanes := g.lanes, sregs := g.sregs } = { g with since := none } ∧
        ∀ r : Nat, h.sregs[r]? ≠ g.sregs[r]? → e.passing ≠ [] ∧ InRun (dest e e.leader u d 1 false).val 1 r true) (fun x y => wrote x y ∧
        ∀ r : Nat, y.v[r]? ≠ x.v[r]? → (∃ k ∈ handles e u (adoptRead a), x.lid ∈ k.lids) ∧
          InRun (dest e (e.source false x) u d 1 false).val 1 r false)) ∧
  (∀ (u : Bool) (a : Opnd) (s : State) (e : Env), Ready s e → Clean (e.readChks u (targetRead a e)) →
    ∃ t, exec (.timWcyc u a) s = .next t ∧ t.st = s.st ∧ GroupFrame e (e.settleReads (e.readChks u (targetRead a e)) s) t
      (fun g h => { h with lanes := g.lanes, breach := g.breach } = { g with since := none } ∧
        (h.breach ≠ g.breach → e.s.dev.lockup e.g.part = true ∧ h.breach = min 0xFFFFFFFF (g.breach + 1))) held) ∧
  (∀ (u : Bool) (a : Opnd) (i : Instr) (s : State) (e : Env), i = .timPclass u a ∨ i = .sysPerf u a → Ready s e →
    Clean (e.readChks u (wordRead a e)) → ∃ t, exec i s = .next t ∧ t.st = s.st ∧
      GroupFrame e (e.settleReads (e.readChks u (wordRead a e)) s) t Group.lanesOnly Lane.movedOn) ∧
  (∀ (u : Bool) (s : State) (e : Env), Ready s e → ∃ t, exec (.timYield u) s = .next t ∧ t.st = s.st ∧
    GroupFrame e s t Group.lanesOnly Lane.movedOn)

/-- fence, cmo, pref, gal, prim and smp change of their group only their destinations, their streams and counts, what holds the gang and its
place; of memory fence and smp change no byte, pref none but the entries it translates by, cmo only lines of its ranges, and a galley
instruction only descriptors and headers. Rests on R188, R189, R190, R191, R193, R230, R236, R266, R267, R268, R279, R280. -/
def Obligations.MemoryUnitsChangeOnlyTheirs : Prop :=
  let held := fun (a b : Lane) => b.kept = { a.kept with pc := b.pc, clause := b.clause, hold := b.hold }
  (∀ (i : Instr) (k : Nat) (s : State) (e : Env), fenceForm i = some k → Ready s e → Inv s →
    ∃ t, exec i s = .next t ∧ KeepsHome e.g.core s.st t.st ∧ GroupFrame e s t Group.lanesOnly held) ∧
  (∀ (i : Instr) (f : CmoForm) (s : State) (e : Env), cmoForm i = some f → Ready s e → Inv s →
    Clean (e.readChks f.u (cmoRead f.level f.a f.b e)) →
    (∀ x ∈ cmoChecks e f.kind (cmoRanges e f.u f.level f.a f.b), ∃ ks, x.2 = .ok ks) →
    (∀ r ∈ cmoRanges e f.u f.level f.a f.b, r.2.2 ≠ 0 →
      e.s.dev.locked e.g.core (f.kind != 0) (if f.kind = 1 then r.2 else lineRange r.2.1 r.2.2) = false) →
    ∃ t, exec i s = .next t ∧ GroupFrame e (e.settleReads (e.readChks f.u (cmoRead f.level f.a f.b e)) s) t Group.lanesOnly held ∧
      ∀ via pl, (∀ x ∈ cmoChecks e f.kind (cmoRanges e f.u f.level f.a f.b), ∀ ks, x.2 = .ok ks → ∀ k ∈ ks, pl.base / 128 ≠ k / 128) →
        byteAt t.st e.g.core via pl = byteAt s.st e.g.core via pl) ∧
  (∀ (u lv : Bool) (a : Opnd) (o : BitVec 8) (s : State) (e : Env), Ready s e → Inv s → Clean (e.readChks u (prefVa a o e)) →
    ∃ t, exec (.pref u lv a o) s = .next t ∧ GroupFrame e (e.settleReads (e.readChks u (prefVa a o e)) s) t Group.lanesOnly Lane.movedOn ∧
      ((∀ x ∈ e.accessLanes u, Cached s.st (e.agent x.1) ((prefVa a o e x.1).val / 128 * 128) false) → KeepsHome e.g.core s.st t.st)) ∧
  (∀ (i : Instr) (f : GalForm) (s : State) (e : Env), galForm i = some f → Ready s e → Inv s → Clean (galChks e f.u f.d f.k) →
    (∀ l ∈ e.lanes, e.s.dev.laneHas e.g.gid l.lid (fun _ => f.k.rel) = false) → galFault e (galResult e f.u f.k).2.2 = none →
    ∃ t, exec i s = .next t ∧ t.st.acc = s.st.acc ∧
      GroupFrame e (e.settleReads (galChks e f.u f.d f.k) s) t (fun g h =>
        { h with lanes := g.lanes, sregs := g.sregs } = { g with since := none } ∧
        ∀ r : Nat, h.sregs[r]? ≠ g.sregs[r]? → e.passing ≠ [] ∧ InRun (galDest e f.u f.d f.k e.leader).val f.k.run r true) (fun a b =>
        b.kept = { a.kept with v := b.v, pc := b.pc, clause := b.clause } ∧ (e.m.passes a = false → b.v = a.v) ∧
        ∀ r : Nat, b.v[r]? ≠ a.v[r]? → InRun (galDest e f.u f.d f.k (e.source false a)).val f.k.run r false) ∧
      ∀ x st g, galActs e f.u f.k = [x] →
        e.openGalley x.1 (if f.k.rel && galFar [x] then s.st.release e.g.core else s.st) x.2.1 = .ok (st, g) →
        Cached s.st (e.agent x.1) x.2.1 true → (∀ off, Cached s.st (e.agent x.1) (g.addr off) true) →
        ∀ pl, SeenPlainly s.st e.g.core pl → (pl.base < g.place.base + 16 ∨ g.place.base + 48 ≤ pl.base) →
          (∀ off p, e.galPlace x.1 (g.addr off) 8 = .ok p →
            (pl.base < p.base ∨ p.base + 8 ≤ pl.base) ∧ (p.deferred = true → pl.base / 16 < p.base / 16 ∨ (p.base + 7) / 16 < pl.base / 16)) →
          byteAt t.st e.g.core .home pl = byteAt s.st e.g.core .home pl) ∧
  (∀ (d a : Opnd) (b : BitVec 5) (s : State) (e : Env) (ps qs : List (Req × Place)) (l : Lane) (va : DWord) (bytes : List Byte), Ready s e →
    Inv s → Clean (smpChks e d a b) → overHeap e [(e.leader, (smpIndex e b).val)] = [] →
    Reaches e 64 .read (headerReqs e [(e.leader, (smpIndex e b).val)]) ps → e.headerStops ps = false → e.headersHurt ps = [] → CellsReady e 64 ps →
    (readHeaders e ps).2 = [(l, va, bytes)] → headerOk bytes = true →
    let h := Header.ofBytes va bytes
    Clean (smpChks2 e d a b h) → e.g.flagFull e.flag = false →
    Reaches e h.point .read (smpReqs e d a b h ++ smpImage e h) qs → e.orderStops h.point qs = false →
    e.s.dev.laneHas e.g.gid e.leader.lid (· == .lda) = false → CellsReady e 16 (qs.drop (smpReqs e d a b h).length) →
    (∀ p ∈ qs, p.2.deferred = false) → let w := e.touchAll false qs (e.settleReads (smpChks2 e d a b h) (readHeaders e ps).1)
    ∃ t, exec (.smp d a b) s = .next t ∧ t.st = w.st ∧
      (∀ pl, byteAt (readHeaders e ps).1.st e.g.core .home pl = byteAt (e.touchAll false ps s).st e.g.core .home pl) ∧
      GroupFrame e w t (fun g k => { k with lanes := g.lanes, sregs := g.sregs, flags := g.flags } = { g with since := none } ∧
        k.flags = (if smpReqs e d a b h = [] then g else g.addFlag e.flag).flags ∧
        ∀ r : Nat, k.sregs[r]? ≠ g.sregs[r]? → ∃ m ∈ e.passing, InRun (dest e m false d 2 true).val 2 r true) (fun x y =>
        y.kept = { x.kept with v := y.v, rctr := y.rctr, pc := y.pc, clause := y.clause } ∧
        (e.m.passes x = false ∨ h.stoch = false → y.rctr = x.rctr) ∧
        ∀ r : Nat, y.v[r]? ≠ x.v[r]? → (∃ m ∈ e.passing, m.lid = x.lid ∧ InRun (dest e m false d 2 true).val 2 r false) ∧
          y.v[r]? = x.v[r]?.map (fun c => { c with tag := .pending }))) ∧
  (∀ (i : Instr) (f : PrimForm) (s : State) (e : Env) (draw : Nat), primForm i = some f → Ready s e →
    Clean (e.readChks false (primRead f.run f.d f.a e)) → e.passing ≠ [] → s.dev.meshDraw e.t = some draw → e.g.primsClosed = false →
    s.dev.binFull e.g.part draw = false →
    ∃ t, exec i s = .next t ∧ t.st = s.st ∧ GroupFrame e (e.settleReads (e.readChks false (primRead f.run f.d f.a e)) s) t
      (fun g h => { h with lanes := g.lanes, prims := g.prims } = { g with since := none } ∧ h.prims = g.prims + e.passing.length)
      Lane.movedOn) ∧
  (∀ (s : State) (e : Env), Ready s e → e.passing ≠ [] → (s.dev.meshDraw e.t).isSome = true → ∃ t, exec .primCut s = .next t ∧ t.st = s.st ∧
    GroupFrame e s t (fun g h => { h with lanes := g.lanes, primsClosed := g.primsClosed } = { g with since := none } ∧ h.primsClosed = true)
      Lane.movedOn) ∧
  (∀ (a : Opnd) (s : State) (e : Env), Ready s e → Clean (e.readChks false (foutRead a e)) → fragBad e = [] →
    ∃ t, exec (.primFout a) s = .next t ∧ t.st = s.st ∧ GroupFrame e (e.settleReads (e.readChks false (foutRead a e)) s) t Group.lanesOnly
      (fun x y => y.kept = { x.kept with frag := y.frag, pc := y.pc, clause := y.clause, hold := y.hold } ∧
        (y.frag = x.frag ∨ y.frag = x.frag.map (fun f => { f with decided := true })))) ∧
  (∀ (s : State) (e : Env), Ready s e → fragBad e = [] → NoHold s (fun h => ∃ rest, h = .fout rest) →
    ∃ t, exec .primKill s = .next t ∧ t.st = s.st ∧ GroupFrame e s t Group.lanesOnly
      (fun x y => y.kept = { x.kept with frag := y.frag, pc := y.pc, clause := y.clause } ∧
        (y.frag = x.frag ∨ y.frag = x.frag.map (fun f => { f with decided := true }))))

/-- sel gives A where the old D is nonzero and B elsewhere, bits and tag. Formalises R149. -/
def Obligations.SelChoosesByTheOldD : Prop :=
  ∀ (u : Bool) (d a b : Opnd), Major (.sel u d a b) 0x0B ∧
    Gives (.sel u d a b) (fun _ => True) (fun e l =>
      [if moveBits e l d ≠ 0 then (readMove e l a).val else (readMove e l b).val]) ∧
    (∀ (e : Env) (l : Lane) (n : Fin 192), (l.reg n.val).tag ≠ .pending → n.val + 1 ≤ e.g.budget →
      e.s.st.errAt (.reg e.g.gid l.lid n.val) ≠ some true → (readMove e l (.v n)).val = l.reg n.val ∧ (readMove e l (.v n)).chk.touch = [] ∧ (readMove e l (.v n)).chk.bad = [] ∧
      (readMove e l (.v n)).chk.wait = false) ∧
    (∀ (e : Env) (l : Lane) (k : Fin 8), (readMove e l (.lit k)).val = { bits := e.lit k.val, tag := (e.m.etype.tags e.m.fmtsel).headD .n32 }) ∧
    (∀ (e : Env) (l : Lane) (c : Const), (readMove e l (.const c)).val.tag = (e.m.etype.tags e.m.fmtsel).headD .n32) ∧
    (∀ (s : State) (e : Env), Ready s e → e.m.etype.wide = true → ((∃ k, a = .lit k ∨ b = .lit k) ∨ ∃ c, a = .const c ∨ b = .const c) →
      let cs := valueChks e u d (1, false) (selVal d a b)
      (∃ c ∈ cs, .format ∈ c.2.bad) ∧
      ((∀ c ∈ cs, c.2.wait = false ∧ ∀ f ∈ c.2.bad, f = .format) →
        ∃ lids, exec (.sel u d a b) s = .next (faultState e .format lids 0)))

/-- bfx takes a field of A, extended by its sign or by zeros; bfi puts A into a field of D. Formalises R161. -/
def Obligations.BitFieldsMoveAsDescribed : Prop :=
  let pos := fun (b : Word) => b.toNat % 32
  let len := fun (b : Word) => min (b.toNat / 256 % 64) 32
  ∀ (u : Bool) (d a b : Opnd) (x : Env → Lane → Word),
    ((∀ e l, let y := anyBits e l b
        ∀ j < 32, (x e l).getLsbD j = if j < len y then (anyBits e l a).getLsbD (pos y + j)
          else y.getLsbD 15 && decide (0 < len y) && (anyBits e l a).getLsbD (pos y + (len y - 1))) →
      Gives (.bfx u d a b) (fun _ => True) (fun e l => reg1 (x e l) (resultTag e l a b))) ∧
    ((∀ e l, let y := anyBits e l b
        ∀ j < 32, (x e l).getLsbD j = if pos y ≤ j ∧ j < pos y + len y then (anyBits e l a).getLsbD (j - pos y)
          else (anyBits e l d).getLsbD j) →
      Gives (.bfi u d a b) (fun _ => True) (fun e l => reg1 (x e l) (resultTag e l a b)))

/-- perm picks each result byte from A and the old D by a nibble of B, or zero. Formalises R162. -/
def Obligations.PermPicksPoolBytes : Prop :=
  (∀ (u : Bool) (d a b : Opnd) (x : Env → Lane → Word),
    (∀ e l, ∀ i < 4, let n := (anyBits e l b).toNat / 16 ^ i % 16
      (x e l).toNat / 256 ^ i % 256 = if 8 ≤ n then 0 else if n < 4 then (anyBits e l a).toNat / 256 ^ n % 256
        else (anyBits e l d).toNat / 256 ^ (n - 4) % 256) →
    Gives (.perm u d a b) (fun _ => True) (fun e l => reg1 (x e l) (resultTag e l a b))) ∧
  (∀ (u : Bool) (d a b : Opnd), Gives (.perm u d a b) (fun e => ∀ l, anyBits e l b = 0x0123#32) (fun e l =>
    reg1 ((anyBits e l a).extractLsb' 0 8 ++ (anyBits e l a).extractLsb' 8 8 ++ (anyBits e l a).extractLsb' 16 8 ++
      (anyBits e l a).extractLsb' 24 8) (resultTag e l a b)))

/-- ptov writes a run of the lane's predicates as the low bits of D, tagged N32. Formalises R166. -/
def Obligations.PtovPacksPredicates : Prop :=
  ∀ (u : Bool) (d : Opnd) (a b : BitVec 8), Major (.ptov u d a b) 0x39 ∧
    (∀ x : Env → Lane → Word, (∀ e l, ∀ j < 32, (x e l).getLsbD j = (decide (j < b.toNat) && decide (a.toNat + j < 48) && l.p.getLsbD (a.toNat + j))) →
      Gives (.ptov u d a b) (fun _ => True) (fun e l => reg1 (x e l) .n32)) ∧
    (48 ≤ a.toNat ∨ b.toNat = 0 ∨ 32 < b.toNat → ∀ (s : State) (e : Env), Ready s e →
      (∀ c ∈ valueChks e u d (1, false) (ptovVal a b), c.2.wait = false) →
      exec (.ptov u d a b) s = .next (faultState e .illegalOperand e.lids 0))

/-- lane.any and lane.all write the OR and the AND of q over the participating lanes to pd of each. Formalises R211. -/
def Obligations.VotesReachEveryLane : Prop :=
  ∀ (p : BitVec 6) (n : Bool) (q : BitVec 6),
    (decodeWord (0x3E * 2 ^ 25 + p.toNat * 2 ^ 16 + n.toNat * 2 ^ 14 + q.toNat * 2 ^ 8) = some (.laneAny p n q) ∧
     decodeWord (0x3E * 2 ^ 25 + p.toNat * 2 ^ 16 + n.toNat * 2 ^ 14 + q.toNat * 2 ^ 8 + 1) = some (.laneAll p n q)) ∧
    (∀ (s : State) (e : Env), Ready s e → (p.toNat < 48 ∨ p = 63#6) → (q.toNat < 48 ∨ q = 63#6) →
      let vote := fun (l : Lane) => xor (if q = 63#6 then true else l.p.getLsbD q.toNat) n
      (∃ t, exec (.laneAny p n q) s = .next t ∧ PredIn e t p.toNat (fun _ => e.passing.any vote) ∧
        (p = 63#6 → GroupOnly e s t Group.lanesOnly Lane.movedOn)) ∧
      (∃ t, exec (.laneAll p n q) s = .next t ∧ PredIn e t p.toNat (fun _ => e.passing.all vote) ∧
        (p = 63#6 → GroupOnly e s t Group.lanesOnly Lane.movedOn))) ∧
    (∀ (s : State) (e : Env), Ready s e → ((48 ≤ p.toNat ∧ p ≠ 63#6) ∨ (48 ≤ q.toNat ∧ q ≠ 63#6)) →
      exec (.laneAny p n q) s = .next (faultState e .illegalOperand e.lids 0) ∧
      exec (.laneAll p n q) s = .next (faultState e .illegalOperand e.lids 0)) ∧
    (∀ (s : State) (e : Env), Ready s e → e.word.toNat / 2 ^ 25 = 0x3E → e.word.toNat % 256 ≤ 1 →
      (e.word.getLsbD 23 = true ∨ e.word.getLsbD 22 = true ∨ e.word.getLsbD 15 = true) →
      execWord s = .next (faultState e .illegalOperand e.lids 0))

/-- mov, movh, retag and tagof give what their rules say of bits and tag. Rests on R146, R148, R150, R151. -/
def Obligations.MovesAndTagsGiveTheirSource : Prop :=
  ∀ (u : Bool) (d a : Opnd) (k : BitVec 16) (c : BitVec 8),
    Gives (.mov u d a) (fun _ => True) (fun e l => [(readMove e l a).val]) ∧
    Gives (.movh u d k) (fun _ => True) (fun e l => reg1 (k ++ (moveBits e l d).extractLsb' 0 16) (readMove e l d).val.tag) ∧
    Gives (.retag u d a c) (fun _ => True) (fun e l => reg1 (moveBits e l a) (Tag.ofCode c.toNat)) ∧
    Gives (.tagof u d a) (fun _ => True) (fun e l => reg1 (BitVec.ofNat 32 (readMove e l a).val.tag.code) .n32) ∧
    (∀ n < 24, (Tag.ofCode n).code = n)

/-- The bit operations give the 32 bits that R160 tables, with the tag that R74 gives. Rests on R74, R160. -/
def Obligations.BitOperationsActOnThirtyTwoBits : Prop :=
  ∀ (u : Bool) (d a b : Opnd),
    Gives (.and u d a b) (fun _ => True) (fun e l => reg1 (anyBits e l a &&& anyBits e l b) (resultTag e l a b)) ∧
    Gives (.or u d a b) (fun _ => True) (fun e l => reg1 (anyBits e l a ||| anyBits e l b) (resultTag e l a b)) ∧
    Gives (.xor u d a b) (fun _ => True) (fun e l => reg1 (anyBits e l a ^^^ anyBits e l b) (resultTag e l a b)) ∧
    Gives (.andn u d a b) (fun _ => True) (fun e l => reg1 (anyBits e l a &&& ~~~ anyBits e l b) (resultTag e l a b)) ∧
    Gives (.not u d a) (fun _ => True) (fun e l => reg1 (~~~ anyBits e l a) (resultTag e l a .sink)) ∧
    Gives (.shl u d a b) (fun _ => True) (fun e l =>
      reg1 (BitVec.ofNat 32 ((anyBits e l a).toNat * 2 ^ (anyBits e l b).toNat)) (resultTag e l a b)) ∧
    Gives (.shr u d a b) (fun _ => True) (fun e l =>
      reg1 (BitVec.ofNat 32 ((anyBits e l a).toNat / 2 ^ (anyBits e l b).toNat)) (resultTag e l a b)) ∧
    Gives (.sra u d a b) (fun _ => True) (fun e l =>
      reg1 (BitVec.ofInt 32 ((anyBits e l a).toInt / 2 ^ (anyBits e l b).toNat)) (resultTag e l a b)) ∧
    (∀ x : Env → Lane → Word, (∀ e l, ∀ j < 32, (x e l).getLsbD ((j + (anyBits e l b).toNat) % 32) = (anyBits e l a).getLsbD j) →
      Gives (.rot u d a b) (fun _ => True) (fun e l => reg1 (x e l) (resultTag e l a b))) ∧
    Gives (.popc u d a) (fun _ => True) (fun e l =>
      reg1 (BitVec.ofNat 32 ((List.range 32).countP (fun j => (anyBits e l a).getLsbD j))) (resultTag e l a .sink)) ∧
    (∀ x : Env → Lane → Word, (∀ e l, (x e l).toNat ≤ 32 ∧ (anyBits e l a).toNat < 2 ^ (32 - (x e l).toNat) ∧
        ((x e l).toNat < 32 → (anyBits e l a).getLsbD (31 - (x e l).toNat) = true)) →
      Gives (.clz u d a) (fun _ => True) (fun e l => reg1 (x e l) (resultTag e l a .sink))) ∧
    (∀ x : Env → Lane → Word, (∀ e l, ∀ j < 32, (x e l).getLsbD j = (anyBits e l a).getLsbD (31 - j)) →
      Gives (.brev u d a) (fun _ => True) (fun e l => reg1 (x e l) (resultTag e l a .sink))) ∧
    (∀ x : Env → Lane → Word, (∀ e l, (anyBits e l a = 0 ∧ x e l = 0xFFFFFFFF#32) ∨
        ((x e l).toNat < 32 ∧ (anyBits e l a).getLsbD (x e l).toNat = true ∧ ∀ j < (x e l).toNat, (anyBits e l a).getLsbD j = false)) →
      Gives (.ffs u d a) (fun _ => True) (fun e l => reg1 (x e l) (resultTag e l a .sink)))

/-- add, sub, mul, mad, neg, addi and muli on 32-bit integers wrap modulo 2^32, and clamp under SAT. Rests on R130, R154, R155,
R158. -/
def Obligations.IntegerArithmeticWrapsOrClamps : Prop :=
  let wrap := fun (y : EType) (e : Env) => e.m.etype = y ∧ e.m.sat = false
  let sats := fun (y : EType) (e : Env) => e.m.etype = y ∧ e.m.sat = true
  let clampS := fun (x : Int) => BitVec.ofInt 32 (max (-2147483648) (min 2147483647 x))
  let clampU := fun (x : Int) => BitVec.ofInt 32 (max 0 (min 4294967295 x))
  (∀ (u : Bool) (d a b : Opnd) (k : BitVec 16) (y : EType) (g : Tag), (y = .i32 ∧ g = .i32) ∨ (y = .n32 ∧ g = .n32) →
    Gives (.add u d a b) (wrap y) (fun e l => reg1 (elemBits e l a + elemBits e l b) g) ∧
    Gives (.sub u d a b) (wrap y) (fun e l => reg1 (elemBits e l a - elemBits e l b) g) ∧
    Gives (.mul u d a b) (wrap y) (fun e l => reg1 (elemBits e l a * elemBits e l b) g) ∧
    Gives (.mad u d a b) (wrap y) (fun e l => reg1 (elemBits e l a * elemBits e l b + elemBits e l d) g) ∧
    Gives (.neg u d a) (wrap y) (fun e l => reg1 (- elemBits e l a) g) ∧
    Gives (.addi u d k) (wrap y) (fun e l => reg1 (elemBits e l d + k.signExtend 32) g) ∧
    Gives (.muli u d k) (wrap y) (fun e l => reg1 (elemBits e l d * (if y = .i32 then k.signExtend 32 else k.setWidth 32)) g)) ∧
  (∀ (u : Bool) (d a b : Opnd),
    Gives (.add u d a b) (sats .i32) (fun e l => reg1 (clampS ((elemBits e l a).toInt + (elemBits e l b).toInt)) .i32) ∧
    Gives (.sub u d a b) (sats .i32) (fun e l => reg1 (clampS ((elemBits e l a).toInt - (elemBits e l b).toInt)) .i32) ∧
    Gives (.add u d a b) (sats .n32) (fun e l => reg1 (clampU ((elemBits e l a).toNat + (elemBits e l b).toNat : Int)) .n32) ∧
    Gives (.sub u d a b) (sats .n32) (fun e l => reg1 (clampU ((elemBits e l a).toNat - (elemBits e l b).toNat : Int)) .n32) ∧
    Gives (.mul u d a b) (sats .i32) (fun e l => reg1 (clampS ((elemBits e l a).toInt * (elemBits e l b).toInt)) .i32) ∧
    Gives (.mul u d a b) (sats .n32) (fun e l => reg1 (clampU ((elemBits e l a).toNat * (elemBits e l b).toNat : Int)) .n32) ∧
    Gives (.mad u d a b) (sats .i32) (fun e l =>
      reg1 (clampS ((elemBits e l a).toInt * (elemBits e l b).toInt + (elemBits e l d).toInt)) .i32) ∧
    Gives (.mad u d a b) (sats .n32) (fun e l =>
      reg1 (clampU ((elemBits e l a).toNat * (elemBits e l b).toNat + (elemBits e l d).toNat : Int)) .n32) ∧
    Gives (.neg u d a) (sats .i32) (fun e l => reg1 (clampS (- (elemBits e l a).toInt)) .i32) ∧
    Gives (.neg u d a) (sats .n32) (fun e l => reg1 (clampU (- ((elemBits e l a).toNat : Int))) .n32)) ∧
  (∀ (u : Bool) (d : Opnd) (k : BitVec 16),
    Gives (.addi u d k) (sats .i32) (fun e l => reg1 (clampS ((elemBits e l d).toInt + k.toInt)) .i32) ∧
    Gives (.addi u d k) (sats .n32) (fun e l => reg1 (clampU ((elemBits e l d).toNat + k.toInt)) .n32) ∧
    Gives (.muli u d k) (sats .i32) (fun e l => reg1 (clampS ((elemBits e l d).toInt * k.toInt)) .i32) ∧
    Gives (.muli u d k) (sats .n32) (fun e l => reg1 (clampU ((elemBits e l d).toNat * k.toNat : Int)) .n32))

/-- The integer instructions of every type form their results exactly and wrap or clamp them once; `movi` builds the value of its type; `add64`
and `mad64` form 64-bit sums; `cvt`, `pack` and `unpack` convert by the table of R138. Rests on R72, R114, R115, R130, R138, R147, R154, R155,
R157, R158, R159, R171. -/
def Obligations.ValuesOfEveryTypeAreFormed : Prop :=
  let ints : List (EType × Bool × Nat × Nat) := [(.i32, true, 32, 1), (.n32, false, 32, 1), (.i64, true, 64, 1), (.n64, false, 64, 1),
    (.i16p, true, 16, 2), (.n16p, false, 16, 2), (.i8q, true, 8, 4), (.n8q, false, 8, 4)]
  let under := fun (y : EType) (e : Env) => e.m.etype = y
  let value := fun (sg : Bool) (w x : Nat) => if sg = true ∧ 2 ^ (w - 1) ≤ x % 2 ^ w then (x % 2 ^ w : Int) - 2 ^ w else (x % 2 ^ w : Int)
  let least := fun (sg : Bool) (w : Nat) => if sg then -(2 ^ (w - 1) : Int) else 0
  let most := fun (sg : Bool) (w : Nat) => if sg then (2 ^ (w - 1) : Int) - 1 else (2 ^ w : Int) - 1
  let fit := fun (sg sat : Bool) (w : Nat) (x : Int) => ((if sat then max (least sg w) (min (most sg w) x) else x) % (2 ^ w : Int)).toNat
  let pair := fun (x : Nat) (lo hi : Tag) => [({ bits := BitVec.ofNat 32 x, tag := lo } : Reg), { bits := BitVec.ofNat 32 (x / 2 ^ 32), tag := hi }]
  (∀ (y : EType) (sg : Bool) (w n : Nat) (u : Bool) (d a b : Opnd), (y, sg, w, n) ∈ ints →
    let elem := fun (e : Env) (l : Lane) (o : Opnd) (i : Nat) => value sg w ((readElem e l o).val / 2 ^ (w * i))
    let gives := fun (op : Bool → Int → Int → Int → Nat) (e : Env) (l : Lane) => regsOf (y.tags 0) (joinElems w ((List.range n).map (fun i =>
      op e.m.sat (elem e l a i) (elem e l b i) (elem e l d i))))
    Gives (.add u d a b) (under y) (gives (fun sat x z _ => fit sg sat w (x + z))) ∧
    Gives (.sub u d a b) (under y) (gives (fun sat x z _ => fit sg sat w (x - z))) ∧
    Gives (.mul u d a b) (under y) (gives (fun sat x z _ => fit sg sat w (x * z))) ∧
    Gives (.mad u d a b) (under y) (gives (fun sat x z t => fit sg sat w (x * z + t))) ∧
    Gives (.min u d a b) (under y) (gives (fun _ x z _ => fit sg false w (min x z))) ∧
    Gives (.max u d a b) (under y) (gives (fun _ x z _ => fit sg false w (max x z))) ∧
    Gives (.clamp u d a b) (under y) (gives (fun _ x z t => fit sg false w (min (max t x) z))) ∧
    Gives (.abs u d a) (under y) (fun e l => regsOf (y.tags 0) (joinElems w ((List.range n).map (fun i =>
      fit sg e.m.sat w (if elem e l a i < 0 then - elem e l a i else elem e l a i))))) ∧
    Gives (.neg u d a) (under y) (fun e l => regsOf (y.tags 0) (joinElems w ((List.range n).map (fun i => fit sg e.m.sat w (- elem e l a i))))) ∧
    (w = 32 ∨ w = 16 → Gives (.mulh u d a b) (under y) (gives (fun _ x z _ => fit sg false w (x * z / 2 ^ w)))) ∧
    (n = 1 → Gives (.div u d a b) (under y) (gives (fun sat x z _ => if z = 0 then 2 ^ w - 1 else fit sg sat w (x.tdiv z))) ∧
      Gives (.rem u d a b) (under y) (gives (fun _ x z _ => fit sg false w (if z = 0 then x else x.tmod z))) ∧
      (∀ k : BitVec 16, Gives (.addi u d k) (under y) (fun e l => regsOf (y.tags 0) (fit sg e.m.sat w (elem e l d 0 + k.toInt))) ∧
        Gives (.muli u d k) (under y) (fun e l => regsOf (y.tags 0) (fit sg e.m.sat w (elem e l d 0 * (if sg then k.toInt else k.toNat))))))) ∧
  (∀ (u : Bool) (d : Opnd) (k : BitVec 16),
    Gives (.movi u d k) (under .i32) (fun _ _ => reg1 (k.signExtend 32) .i32) ∧
    Gives (.movi u d k) (under .n32) (fun _ _ => reg1 (k.setWidth 32) .n32) ∧
    Gives (.movi u d k) (under .i64) (fun _ _ => pair (k.signExtend 64).toNat .i64l .i64h) ∧
    Gives (.movi u d k) (under .n64) (fun _ _ => pair k.toNat .n64l .n64h) ∧
    Gives (.movi u d k) (under .f32) (fun _ _ => reg1 (k ++ 0#16) .f32) ∧
    Gives (.movi u d k) (under .f64) (fun _ _ => [{ bits := 0, tag := .f64l }, { bits := k ++ 0#16, tag := .f64h }]) ∧
    (∀ y ∈ [(EType.f16p, Tag.f16p), (.bf16p, .bf16p), (.i16p, .i16p), (.n16p, .n16p)], Gives (.movi u d k) (under y.1) (fun _ _ => reg1 (k ++ k) y.2)) ∧
    (∀ y ∈ [(EType.i8q, Tag.i8q), (.n8q, .n8q)], Gives (.movi u d k) (under y.1) (fun _ _ => let b := k.setWidth 8; reg1 (b ++ b ++ b ++ b) y.2) ∧
      (256 ≤ k.toNat → ∀ (s : State) (e : Env), Ready s e → e.m.etype = y.1 → (∀ c ∈ valueChks e u d (byType e) (moviVal k), c.2.wait = false) →
        exec (.movi u d k) s = .next (faultState e .illegalOperand e.lids 0))) ∧
    Gives (.movi u d k) (fun e => e.m.etype = .nar ∧ contOf e.fmSel = 0 ∧ (fmtOf e.fmSel).width ≤ 8) (fun e _ => let b := k.setWidth 8; reg1 (b ++ b ++ b ++ b) (.narrow (Fin.ofNat 8 e.m.fmtsel))) ∧
    Gives (.movi u d k) (fun e => e.m.etype = .nar ∧ contOf e.fmSel = 1 ∧ (fmtOf e.fmSel).width ≤ 4) (fun e _ => let b := k.setWidth 4
      reg1 (b ++ b ++ b ++ b ++ b ++ b ++ b ++ b) (.narrow (Fin.ofNat 8 e.m.fmtsel)))) ∧
  (∀ (u : Bool) (d a b : Opnd),
    let ext := fun (x : Word × Bool) => if x.2 then x.1.toInt else (x.1.toNat : Int)
    Gives (.add64 u d a b) (fun _ => True) (fun e l => let x := (readPair e l a).val
      pair (((x.1 : Int) + ext (read32 e l b).val) % 2 ^ 64).toNat (if x.2 then .i64l else .n64l) (if x.2 then .i64h else .n64h)) ∧
    Gives (.mad64 u d a b) (fun _ => True) (fun e l =>
      let sum := (((readPair e l d).val.1 : Int) + ext (read32 e l a).val * ext (read32 e l b).val) % 2 ^ 64
      match d with
      | .v n => if (l.reg n.val).tag = .future ∨ (l.reg (n.val + 1)).tag = .future then [] else pair sum.toNat (l.reg n.val).tag (l.reg (n.val + 1)).tag
      | _ => [])) ∧
  (∀ (c : RCtx) (fm : Word),
    (∀ (y : EType) (sg : Bool) (w n : Nat), (y, sg, w, n) ∈ ints →
      (∀ x : Int, toElem c fm y (.int x) = fit sg c.sat w x) ∧ toElem c fm y (.flt .nan) = 0 ∧
      (∀ v : FVal, toElem c fm y (.flt v) = fit sg true w (v.toInt c)) ∧
      ∀ x : Nat, numOf c.ftz fm y x = .int (value sg w x)) ∧
    (∀ (y : EType) (f : Fmt), (y, f) ∈ [(EType.f32, Fmt.f32), (.f64, .f64), (.f16p, .f16), (.bf16p, .bf16)] →
      (∀ x : Int, toElem c fm y (.int x) = f.round c c.ftz (FVal.ofInt x)) ∧ (∀ v : FVal, toElem c fm y (.flt v) = f.round c c.ftz v) ∧
      ∀ x : Nat, numOf c.ftz fm y x = .flt (f.read c.ftz x)) ∧
    (∀ v : FVal, toElem c fm .nar (.flt v) = (fmtOf fm).round c false v) ∧
    (∀ x : Int, toElem c fm .nar (.int x) = (fmtOf fm).round c false (FVal.ofInt x))) ∧
  (∀ (y z : EType) (u : Bool) (d a : Opnd) (f : BitVec 3), let code := BitVec.ofNat 4 y.code
    let scalar := fun (x : EType) => x ∈ [EType.i32, .n32, .i64, .n64, .f32, .f64]
    (scalar y → scalar z → Gives (.cvt u d a 0#3 code) (under z) (fun e l =>
      regsOf (z.tags 0) (toElem (e.rctx l 0) 0 z (numOf e.m.ftz 0 y (readTyped e l y 0 a).val)))) ∧
    (scalar y → ¬ scalar z → Gives (.pack u d a 0#3 code) (under z) (fun e l =>
      let n := z.count e.fmSel
      reg1 (BitVec.ofNat 32 (joinElems (z.width e.fmSel) ((List.range n).map (fun i =>
        toElem (e.rctx l i) e.fmSel z (numOf e.m.ftz 0 y ((readScalars e l y a n).val.getD i 0)))))) ((z.tags e.m.fmtsel).headD .n32))) ∧
    (¬ scalar y → scalar z → (y = .nar ∨ f = 0#3) → Gives (.unpack u d a f code) (under z) (fun e l =>
      let fm := e.fmReg f.toNat
      (List.range (y.count fm)).flatMap (fun i => regsOf (z.tags 0) (toElem (e.rctx l i) 0 z
        (numOf e.m.ftz fm y ((readTyped e l y f.toNat a).val / 2 ^ (y.width fm * i) % 2 ^ y.width fm)))))) ∧
    (∀ (t : BitVec 4) (s : State) (e : Env), 13 ≤ t.toNat ∨ (t.toNat ≠ 8 ∧ f ≠ 0#3) → Ready s e →
      (∀ c ∈ valueChks e u d (byType e) (cvtVal a f t), c.2.wait = false) → exec (.cvt u d a f t) s = .next (faultState e .illegalOperand e.lids 0)))

/-- The floating-point instructions compute each element exactly and round it once; their special operands, a NaN, opposite signs, zeros
and infinities give what the tables name; `dot` sums exact products; `cclass` tells the class of a code. Rests on R114, R117, R122, R124,
R126, R127, R128, R154, R156, R157, R164, R168. -/
def Obligations.FloatingPointRoundsOnce : Prop :=
  let floats : List (EType × Fmt × Nat × Nat) := [(.f32, .f32, 32, 1), (.f64, .f64, 64, 1), (.f16p, .f16, 16, 2), (.bf16p, .bf16, 16, 2)]
  let under := fun (y : EType) (e : Env) => e.m.etype = y
  let elem := fun (f : Fmt) (w : Nat) (e : Env) (l : Lane) (o : Opnd) (i : Nat) => f.read e.m.ftz ((readElem e l o).val / 2 ^ (w * i) % 2 ^ w)
  let result := fun (y : EType) (w n : Nat) (g : Nat → Nat) => regsOf (y.tags 0) (joinElems w ((List.range n).map g))
  (∀ (y : EType) (f : Fmt) (w n : Nat) (u : Bool) (d a b : Opnd), (y, f, w, n) ∈ floats →
    let rounds := fun (op : Bool → FVal → FVal → FVal → FVal) (e : Env) (l : Lane) => result y w n (fun i =>
      f.round (e.rctx l i) e.m.ftz (op (decide (e.m.rnd = .rdn)) (elem f w e l a i) (elem f w e l b i) (elem f w e l d i)))
    let rounds1 := fun (op : FVal → FVal) (e : Env) (l : Lane) => result y w n (fun i => f.round (e.rctx l i) e.m.ftz (op (elem f w e l a i)))
    Gives (.add u d a b) (under y) (rounds (fun r x z _ => FVal.add r x z)) ∧
    Gives (.sub u d a b) (under y) (rounds (fun r x z _ => FVal.add r x z.neg)) ∧
    Gives (.mul u d a b) (under y) (rounds (fun _ x z _ => FVal.mul x z)) ∧
    Gives (.mad u d a b) (under y) (rounds (fun r x z t => FVal.add r (FVal.mul x z) t)) ∧
    Gives (.fms u d a b) (under y) (rounds (fun r x z t => FVal.add r (FVal.mul x z) t.neg)) ∧
    Gives (.fnma u d a b) (under y) (rounds (fun r x z t => FVal.add r (FVal.mul x.neg z) t)) ∧
    Gives (.min u d a b) (under y) (rounds (fun _ x z _ => FVal.min x z)) ∧
    Gives (.max u d a b) (under y) (rounds (fun _ x z _ => FVal.max x z)) ∧
    Gives (.clamp u d a b) (under y) (rounds (fun _ x z t => FVal.min (FVal.max t x) z)) ∧
    (n = 1 → Gives (.div u d a b) (under y) (rounds (fun _ x z _ => FVal.div x z))) ∧
    Gives (.rcp u d a) (under y) (rounds1 (FVal.div (.fin false 1 0))) ∧
    Gives (.rsq u d a) (under y) (rounds1 FVal.rsq) ∧
    Gives (.sqrt u d a) (under y) (rounds1 FVal.sqrt) ∧
    (y ≠ .f64 → Gives (.exp2 u d a) (under y) (rounds1 FVal.exp2) ∧ Gives (.log2 u d a) (under y) (rounds1 FVal.log2) ∧
      Gives (.sinp u d a) (under y) (rounds1 FVal.sinp) ∧ Gives (.cosp u d a) (under y) (rounds1 FVal.cosp)) ∧
    (∀ one : Nat, (y, one) ∈ [(EType.f32, 0x3F800000), (.f64, 0x3FF0000000000000), (.f16p, 0x3C00), (.bf16p, 0x3F80)] →
      Gives (.frac u d a) (under y) (fun e l => result y w n (fun i =>
        let r := f.round (e.rctx l i) e.m.ftz (elem f w e l a i).frac
        if r = one then one - 1 else r))) ∧
    Gives (.rint u d a) (under y) (fun e l => result y w n (fun i =>
      f.round { e.rctx l i with rnd := .rne } e.m.ftz ((elem f w e l a i).rint (e.rctx l i))))) ∧
  (∀ (f : Fmt) (c : Nat) (x : RCtx), f ∈ [Fmt.f64, Fmt.f32, Fmt.f16, Fmt.bf16] → c < 2 ^ f.width → f.decode c ≠ .nan →
    f.round x false (f.decode c) = c) ∧
  (∀ (x : RCtx) (fl : Bool), Fmt.f64.round x fl .nan = 0x7FF8000000000000 ∧ Fmt.f32.round x fl .nan = 0x7FC00000 ∧
    Fmt.f16.round x fl .nan = 0x7E00 ∧ Fmt.bf16.round x fl .nan = 0x7FC0) ∧
  (∀ (x : RCtx), let huge := fun (neg : Bool) => Fmt.f32.overflow x neg
    (x.sat = true ∨ x.rnd = .rtz → huge false = 0x7F7FFFFF ∧ huge true = 0xFF7FFFFF) ∧
    (x.sat = false → x.rnd ∈ [Rnd.rne, .rna, .rsto] → huge false = 0x7F800000 ∧ huge true = 0xFF800000) ∧
    (x.sat = false → x.rnd = .rdn → huge false = 0x7F7FFFFF ∧ huge true = 0xFF800000) ∧
    (x.sat = false → x.rnd = .rup → huge false = 0x7F800000 ∧ huge true = 0xFF7FFFFF)) ∧
  (let expo := fun (x : Word) => x.toNat / 2 ^ 23 % 256
   let nan := fun (x : Word) => decide (expo x = 255) && decide (x.toNat % 2 ^ 23 ≠ 0)
   let inf := fun (x : Word) => decide (x &&& 0x7FFFFFFF#32 = 0x7F800000#32)
   let zero := fun (x : Word) => decide (x &&& 0x7FFFFFFF#32 = 0#32)
   let normal := fun (x : Word) => decide (expo x ≠ 0 ∧ expo x ≠ 255)
   let some1 := fun (o : Option Word) => match o with | some r => reg1 r .f32 | none => []
   let q : Word := 0x7FC00000#32
   -- what a table of special operands gives, NaN first; none where the rounding rule alone decides
   let table1 := fun (t : List (Word × Word)) (x : Word) => if nan x then some q else (t.find? (fun k => k.1 == x)).map (·.2)
   let negNaN := fun (t : List (Word × Word)) (x : Word) => if normal x && x.getLsbD 31 || x == 0xFF800000#32 then some q else table1 t x
   let order := fun (x : Word) => if x.getLsbD 31 then -((x &&& 0x7FFFFFFF#32).toNat : Int) else (x.toNat : Int)
   ∀ (u : Bool) (d a b : Opnd),
    Gives (.rcp u d a) (under .f32) (fun e l => some1 (table1
      [(0x00000000#32, 0x7F800000#32), (0x80000000#32, 0xFF800000#32), (0x7F800000#32, 0x00000000#32), (0xFF800000#32, 0x80000000#32)] (elemBits e l a))) ∧
    Gives (.rsq u d a) (under .f32) (fun e l => some1 (negNaN
      [(0x00000000#32, 0x7F800000#32), (0x80000000#32, 0xFF800000#32), (0x7F800000#32, 0x00000000#32)] (elemBits e l a))) ∧
    Gives (.sqrt u d a) (under .f32) (fun e l => some1 (negNaN
      [(0x00000000#32, 0x00000000#32), (0x80000000#32, 0x80000000#32), (0x7F800000#32, 0x7F800000#32)] (elemBits e l a))) ∧
    Gives (.exp2 u d a) (under .f32) (fun e l => some1 (table1
      [(0x00000000#32, 0x3F800000#32), (0x80000000#32, 0x3F800000#32), (0xFF800000#32, 0x00000000#32), (0x7F800000#32, 0x7F800000#32)] (elemBits e l a))) ∧
    Gives (.log2 u d a) (under .f32) (fun e l => some1 (negNaN
      [(0x00000000#32, 0xFF800000#32), (0x80000000#32, 0xFF800000#32), (0x3F800000#32, 0x00000000#32), (0x7F800000#32, 0x7F800000#32)] (elemBits e l a))) ∧
    Gives (.sinp u d a) (under .f32) (fun e l => some1 (table1
      [(0x00000000#32, 0x00000000#32), (0x80000000#32, 0x80000000#32), (0x7F800000#32, q), (0xFF800000#32, q)] (elemBits e l a))) ∧
    Gives (.cosp u d a) (under .f32) (fun e l => some1 (table1
      [(0x3F000000#32, 0x00000000#32), (0xBF000000#32, 0x00000000#32), (0x7F800000#32, q), (0xFF800000#32, q)] (elemBits e l a))) ∧
    Gives (.frac u d a) (under .f32) (fun e l => some1 (table1
      [(0x00000000#32, 0x00000000#32), (0x80000000#32, 0x00000000#32), (0x7F800000#32, q), (0xFF800000#32, q)] (elemBits e l a))) ∧
    Gives (.rint u d a) (under .f32) (fun e l => some1 (table1
      [(0x00000000#32, 0x00000000#32), (0x80000000#32, 0x80000000#32), (0x7F800000#32, 0x7F800000#32), (0xFF800000#32, 0xFF800000#32)] (elemBits e l a))) ∧
    Gives (.neg u d a) (under .f32) (fun e l => let x := elemBits e l a
      reg1 (if nan x then q else (if e.m.ftz = true ∧ expo x = 0 then x &&& 0x80000000#32 else x) ^^^ 0x80000000#32) .f32) ∧
    Gives (.abs u d a) (under .f32) (fun e l => let x := elemBits e l a
      reg1 (if nan x then q else (if e.m.ftz = true ∧ expo x = 0 then 0#32 else x) &&& 0x7FFFFFFF#32) .f32) ∧
    Gives (.min u d a b) (fun e => e.m.etype = .f32 ∧ e.m.ftz = false) (fun e l => let x := elemBits e l a; let z := elemBits e l b
      reg1 (if nan x && nan z then q else if nan x then z else if nan z then x
        else if order x < order z then x else if order z < order x then z else x ||| z) .f32) ∧
    Gives (.max u d a b) (fun e => e.m.etype = .f32 ∧ e.m.ftz = false) (fun e l => let x := elemBits e l a; let z := elemBits e l b
      reg1 (if nan x && nan z then q else if nan x then z else if nan z then x
        else if order x < order z then z else if order z < order x then x else x &&& z) .f32) ∧
    Gives (.add u d a b) (under .f32) (fun e l => let x := elemBits e l a; let z := elemBits e l b
      some1 (if nan x || nan z then some q else if inf x then some (if inf z && x != z then q else x) else if inf z then some z
        else if x = z ^^^ 0x80000000#32 then some (if e.m.rnd = .rdn then 0x80000000#32 else 0#32)
        else if zero x && zero z then some x else none)) ∧
    Gives (.mul u d a b) (under .f32) (fun e l => let x := elemBits e l a; let z := elemBits e l b
      let sign := (x ^^^ z) &&& 0x80000000#32
      some1 (if nan x || nan z || inf x && zero z || zero x && inf z then some q
        else if inf x && (inf z || normal z) || normal x && inf z then some (sign ||| 0x7F800000#32)
        else if zero x && (zero z || normal z) || normal x && zero z then some sign else none)) ∧
    Gives (.div u d a b) (under .f32) (fun e l => let x := elemBits e l a; let z := elemBits e l b
      let sign := (x ^^^ z) &&& 0x80000000#32
      some1 (if nan x || nan z || zero x && zero z || inf x && inf z then some q
        else if normal x && zero z || inf x && (zero z || normal z) then some (sign ||| 0x7F800000#32)
        else if zero x && (normal z || inf z) || normal x && inf z then some sign else none)) ∧
    (∀ (p : BitVec 6) (c : BitVec 2), Sets (.cclass u p c a b) (under .f32) (fun e l => let x := elemBits e l a; let neg := x.getLsbD 31
      (moveBits e l b).getLsbD (if nan x then 8 else if inf x then (if neg then 0 else 7) else if zero x then (if neg then 3 else 4)
        else if expo x = 0 then (if neg then 2 else 5) else (if neg then 1 else 6))))) ∧
  (∀ (u : Bool) (d a b : Opnd),
    let parts := fun (w : Nat) (xs : List Nat) => xs.flatMap (fun x => (List.range (32 / w)).map (fun i => x / 2 ^ (w * i) % 2 ^ w))
    let sums := fun (sg : Bool) (w : Nat) (e : Env) (l : Lane) =>
      narrowInt sg e.m.sat 32 ((List.zipWith (fun x z => intOf sg w x * intOf sg w z) (parts w (readA4 e l a).val) (parts w (readB4 e l b).val.1)).foldl (· + ·)
        (intOf sg 32 (readTyped e l (if sg then .i32 else .n32) 0 d).val))
    Gives (.dot u d a b) (under .i8q) (fun e l => reg1 (BitVec.ofNat 32 (sums true 8 e l)) .i32) ∧
    Gives (.dot u d a b) (under .n8q) (fun e l => reg1 (BitVec.ofNat 32 (sums false 8 e l)) .n32) ∧
    Gives (.dot u d a b) (under .i16p) (fun e l => reg1 (BitVec.ofNat 32 (sums true 16 e l)) .i32) ∧
    Gives (.dot u d a b) (under .n16p) (fun e l => reg1 (BitVec.ofNat 32 (sums false 16 e l)) .n32) ∧
    (∀ f ∈ [(EType.f16p, Fmt.f16), (EType.bf16p, Fmt.bf16)],
      Gives (.dot u d a b) (under f.1) (fun e l => match (readB4 e l b).val.2.1 with
        | .f16p => reg1 (BitVec.ofNat 32 (dotSum .f32 (e.rctx l 0) (List.zipWith FVal.mul ((parts 16 (readA4 e l a).val).map (f.2.read e.m.ftz))
            ((parts 16 (readB4 e l b).val.1).map (Fmt.f16.read e.m.ftz)) ++ [Fmt.f32.read e.m.ftz (readTyped e l .f32 0 d).val]))) .f32
        | .bf16p => reg1 (BitVec.ofNat 32 (dotSum .f32 (e.rctx l 0) (List.zipWith FVal.mul ((parts 16 (readA4 e l a).val).map (f.2.read e.m.ftz))
            ((parts 16 (readB4 e l b).val.1).map (Fmt.bf16.read e.m.ftz)) ++ [Fmt.f32.read e.m.ftz (readTyped e l .f32 0 d).val]))) .f32
        | _ => [])) ∧
    Gives (.dot u d a b) (under .nar) (fun e l => let w := if contOf e.fmSel = 1 then 4 else 8
      match (readB4 e l b).val.2.1 with
        | .nar => reg1 (BitVec.ofNat 32 (dotSum .f32 (e.rctx l 0) (List.zipWith FVal.mul
            ((parts w (readA4 e l a).val).map (fun x => (fmtOf e.fmSel).decode (x % 2 ^ (fmtOf e.fmSel).width)))
            ((parts w (readB4 e l b).val.1).map (fun x => let fm := (readB4 e l b).val.2.2
              (fmtOf fm).decode (x % 2 ^ (fmtOf fm).width))) ++ [Fmt.f32.read e.m.ftz (readTyped e l .f32 0 d).val]))) .f32
        | _ => []))

/-- The compares on 32-bit integers, cun, vtop, pset and plog set pd by their condition and COMB. Rests on R60, R163, R165,
R167. -/
def Obligations.ComparesCombineTheirResult : Prop :=
  let nan := fun (x : Word) => decide (x.toNat / 2 ^ 23 % 256 = 255) && decide (x.toNat % 2 ^ 23 ≠ 0)
  let under := fun (y : EType) (e : Env) => e.m.etype = y
  ∀ (u : Bool) (p : BitVec 6) (c : BitVec 2) (a b : Opnd),
    Sets (.ceq u p c a b) (fun e => e.m.etype = .i32 ∨ e.m.etype = .n32) (fun e l => elemBits e l a == elemBits e l b) ∧
    Sets (.cne u p c a b) (fun e => e.m.etype = .i32 ∨ e.m.etype = .n32) (fun e l => elemBits e l a != elemBits e l b) ∧
    Sets (.clt u p c a b) (under .i32) (fun e l => (elemBits e l a).slt (elemBits e l b)) ∧
    Sets (.cle u p c a b) (under .i32) (fun e l => (elemBits e l a).sle (elemBits e l b)) ∧
    Sets (.cgt u p c a b) (under .i32) (fun e l => (elemBits e l b).slt (elemBits e l a)) ∧
    Sets (.cge u p c a b) (under .i32) (fun e l => (elemBits e l b).sle (elemBits e l a)) ∧
    Sets (.clt u p c a b) (under .n32) (fun e l => (elemBits e l a).ult (elemBits e l b)) ∧
    Sets (.cle u p c a b) (under .n32) (fun e l => (elemBits e l a).ule (elemBits e l b)) ∧
    Sets (.cgt u p c a b) (under .n32) (fun e l => (elemBits e l b).ult (elemBits e l a)) ∧
    Sets (.cge u p c a b) (under .n32) (fun e l => (elemBits e l b).ule (elemBits e l a)) ∧
    Sets (.cun u p c a b) (under .f32) (fun e l => nan (elemBits e l a) || nan (elemBits e l b)) ∧
    Sets (.vtop u p c a b) (fun _ => True) (fun e l => (moveBits e l a).getLsbD ((moveBits e l b).toNat % 32)) ∧
    Sets (.pset u p c a b) (fun _ => True) (fun e l => decide (moveBits e l a &&& moveBits e l b ≠ 0)) ∧
    (∀ (fn : BitVec 2) (na nb : Bool) (qa qb : BitVec 6),
      Sets (.plog u p c fn na qa nb qb) (fun _ => True) (fun _ l =>
        let x := xor (if qa = 63#6 then true else l.p.getLsbD qa.toNat) na
        let y := xor (if qb = 63#6 then true else l.p.getLsbD qb.toNat) nb
        if fn = 0#2 then x && y else if fn = 1#2 then x || y else if fn = 2#2 then xor x y else x))

/-- shfl, shfx, lane.ballot, lane.count and lane.bcast give what the participating lanes read. Rests on R210, R212, R213. -/
def Obligations.LanesExchangeWhatTheyRead : Prop :=
  ∀ (d a b : Opnd) (n : Bool) (q : BitVec 6),
    let vote := fun (l : Lane) => xor (if q = 63#6 then true else l.p.getLsbD q.toNat) n
    let pick := fun (e : Env) (l : Lane) (src : Nat) => match e.passing.find? (fun k => k.lid == src) with
      | some k => [(readMove e k a).val]
      | none => [(readMove e l a).val]
    GivesAcross (.shfl d a b) (fun _ => True) (fun e l => pick e l ((moveBits e l b).toNat % e.g.width)) ∧
    GivesAcross (.shfx d a b) (fun _ => True) (fun e l => pick e l (l.lid ^^^ ((moveBits e l b).toNat % e.g.width))) ∧
    (∀ x : Env → Word, (∀ e, ∀ j < 32, (x e).getLsbD j = e.passing.any (fun k => k.lid == j && vote k)) →
      GivesAcross (.laneBallot d n q) (fun e => e.g.width ≠ 64) (fun e _ => reg1 (x e) .n32)) ∧
    (∀ x : Env → DWord, (∀ e, ∀ j < 64, (x e).getLsbD j = e.passing.any (fun k => k.lid == j && vote k)) →
      GivesAcross (.laneBallot d n q) (fun e => e.g.width = 64) (fun e _ =>
        [{ bits := (x e).extractLsb' 0 32, tag := .n64l }, { bits := (x e).extractLsb' 32 32, tag := .n64h }])) ∧
    GivesAcross (.laneCount d n q) (fun _ => True) (fun e _ => reg1 (BitVec.ofNat 32 (e.passing.countP vote)) .n32) ∧
    GivesAcross (.laneBcast d a) (fun _ => True) (fun e l => [(readMove e (e.passing.headD l) a).val])

/-- lane.first gives the lowest participating LID whose predicate is 1, or all ones; lane.radd, rmin, rmax and scan the chain of R214, each
step formed as an instruction of the type forms its result (the chain begins with the first lane's A as such a result, R126, R127); lane.rband,
rbor and rbxor combine the 32 bits and keep the tag of A in the lowest participating lane. Rests on R72, R122, R124, R126, R127, R128, R130,
R210, R212, R213, R214. -/
def Obligations.ReductionsChainTheParticipatingLanes : Prop :=
  let value := fun (sg : Bool) (w x : Nat) => if sg = true ∧ 2 ^ (w - 1) ≤ x % 2 ^ w then (x % 2 ^ w : Int) - 2 ^ w else (x % 2 ^ w : Int)
  let least := fun (sg : Bool) (w : Nat) => if sg then -(2 ^ (w - 1) : Int) else 0
  let most := fun (sg : Bool) (w : Nat) => if sg then (2 ^ (w - 1) : Int) - 1 else (2 ^ w : Int) - 1
  let fit := fun (sg sat : Bool) (w : Nat) (x : Int) => ((if sat then max (least sg w) (min (most sg w) x) else x) % (2 ^ w : Int)).toNat
  let under := fun (y : EType) (e : Env) => e.m.etype = y
  let upTo := fun (e : Env) (l : Lane) => e.passing.takeWhile (fun k => k.lid != l.lid) ++ [l]
  (∀ (d : Opnd) (n : Bool) (q : BitVec 6), GivesAcross (.laneFirst d n q) (fun _ => True) (fun e _ =>
    let vote := fun (l : Lane) => xor (if q = 63#6 then true else l.p.getLsbD q.toNat) n
    reg1 (match e.passing.find? vote with | some l => BitVec.ofNat 32 l.lid | none => 0xFFFFFFFF#32) .n32)) ∧
  (∀ (y : EType) (sg : Bool) (w : Nat) (d a : Opnd), (y, sg, w) ∈ [(EType.i32, true, 32), (.n32, false, 32), (.i64, true, 64), (.n64, false, 64)] →
    let chain := fun (op : Bool → Int → Int → Nat) (e : Env) (ls : List Lane) =>
      match ls.map (fun k => value sg w (readElem e k a).val) with
      | [] => []
      | x :: xs => regsOf (y.tags 0) (fit sg false w (xs.foldl (fun r z => value sg w (op e.m.sat r z)) x))
    GivesAcross (.laneRadd d a) (under y) (fun e _ => chain (fun sat r z => fit sg sat w (r + z)) e e.passing) ∧
    GivesAcross (.laneRmin d a) (under y) (fun e _ => chain (fun _ r z => fit sg false w (min r z)) e e.passing) ∧
    GivesAcross (.laneRmax d a) (under y) (fun e _ => chain (fun _ r z => fit sg false w (max r z)) e e.passing) ∧
    GivesAcross (.laneScan d a) (under y) (fun e l => chain (fun sat r z => fit sg sat w (r + z)) e (upTo e l))) ∧
  (∀ (y : EType) (f : Fmt) (d a : Opnd), (y, f) ∈ [(EType.f32, Fmt.f32), (.f64, .f64)] →
    let chain := fun (op : Bool → FVal → FVal → FVal) (e : Env) (l : Lane) (ls : List Lane) =>
      let result := fun (v : FVal) => f.round (e.rctx l 0) e.m.ftz v
      match ls.map (fun k => result (f.read e.m.ftz (readElem e k a).val)) with
      | [] => []
      | x :: xs => regsOf (y.tags 0) (xs.foldl (fun r z => result (op (decide (e.m.rnd = .rdn)) (f.read e.m.ftz r) (f.read e.m.ftz z))) x)
    GivesAcross (.laneRadd d a) (under y) (fun e l => chain FVal.add e l e.passing) ∧
    GivesAcross (.laneRmin d a) (under y) (fun e l => chain (fun _ => FVal.min) e l e.passing) ∧
    GivesAcross (.laneRmax d a) (under y) (fun e l => chain (fun _ => FVal.max) e l e.passing) ∧
    GivesAcross (.laneScan d a) (under y) (fun e l => chain FVal.add e l (upTo e l))) ∧
  (∀ (d a : Opnd), let chain := fun (op : Word → Word → Word) (e : Env) => match e.passing.map (fun k => (readMove e k a).val) with
      | [] => []
      | x :: xs => reg1 ((xs.map (·.bits)).foldl op x.bits) x.tag
    GivesAcross (.laneRband d a) (fun _ => True) (fun e _ => chain (· &&& ·) e) ∧
    GivesAcross (.laneRbor d a) (fun _ => True) (fun e _ => chain (· ||| ·) e) ∧
    GivesAcross (.laneRbxor d a) (fun _ => True) (fun e _ => chain (· ^^^ ·) e))

/-- br sends the lanes whose predicate reads 1 to its target and the others on; jmp sends each lane to its own target. Rests on
R51, R54, R81, R205, R206. -/
def Obligations.TransfersReachTheirTargets : Prop :=
  (∀ (u : Bool) (p : BitVec 6) (n : Bool) (o : BitVec 16) (s : State) (e : Env), Ready s e → Clean (e.branchChks u p n) →
    ∃ t, exec (.br u p n o) s = .next t ∧ ∀ k l, InGang e k l → ∃ l', LaneAfter e t k l' ∧
      let m := if u then e.leader else l
      let takes := if p = 63#6 then true else xor (m.p.getLsbD p.toNat) n
      (takes = true → l'.pc = e.cl.hdr + 4#64 * o.signExtend 64 ∧ l'.clause = none) ∧
      (takes = false → e.cl.slotOf l.pc + 1 = e.cl.len →
        l'.pc = e.cl.hdr + BitVec.ofNat 64 (4 * (1 + e.cl.header.toNat % 16 + e.cl.header.toNat / 16 % 8)) ∧ l'.clause = none)) ∧
  (∀ (u : Bool) (a : Opnd) (s : State) (e : Env), Ready s e → Clean (e.readChks u (targetRead a e)) → (∀ t ∈ targets e u a, t.2 % 4 = 0) →
    ∃ t, exec (.jmp u a) s = .next t ∧ ∀ k l, InGang e k l → ∃ l', LaneAfter e t k l' ∧
      l'.pc = BitVec.ofNat 64 (readPair e (if u then e.leader else l) a).val.1 ∧ l'.clause = none)

/-- mode and guard write their fields of MODE and no other bit; a MODE_FIELD value faults, with the mask of the leader alone, which is the
model's choice (log entry 28); xset, xoff and xadd write their index register. Rests on R82, R84, R85, R97, R141, R142, R145. -/
def Obligations.ModeAndIndexRegistersAreWritten : Prop :=
  let sel : List (Nat × Nat × Nat) := [(0, 0, 16), (1, 16, 16), (2, 7, 5), (3, 12, 3), (4, 15, 1), (5, 16, 1), (6, 17, 3), (7, 20, 3),
    (8, 23, 2), (9, 25, 1), (10, 26, 1), (11, 27, 1), (12, 28, 4)]
  (∀ (d : BitVec 8) (i : BitVec 16) (lo len : Nat) (s : State) (e : Env), (d.toNat, lo, len) ∈ sel → i.toNat < 2 ^ len → Ready s e →
    let new : Word := e.g.mode &&& ~~~ (BitVec.ofNat 32 ((2 ^ len - 1) * 2 ^ lo)) ||| BitVec.ofNat 32 (i.toNat * 2 ^ lo)
    (modeLegal new.toNat = true → ∃ t g, exec (.mode d i) s = .next t ∧ t.dev.group? e.g.gid = some g ∧ g.mode = new) ∧
    (modeLegal new.toNat = false → exec (.mode d i) s = .next (faultState e .modeField [e.leader.lid] 0))) ∧
  (∀ (n : Bool) (g : BitVec 6) (s : State) (e : Env), g.toNat < 48 ∨ g = 63#6 → modeLegal e.g.mode.toNat = true → Ready s e →
    ∃ t k, exec (.guard n g) s = .next t ∧ t.dev.group? e.g.gid = some k ∧ k.mode.extractLsb' 0 6 = g ∧ k.mode.getLsbD 6 = n ∧
      k.mode.extractLsb' 7 25 = e.g.mode.extractLsb' 7 25) ∧
  (∀ (u : Bool) (k : BitVec 3) (b lim : BitVec 8) (s : State) (e : Env), b.toNat < 192 → lim.toNat < 192 → Ready s e →
    ∃ t, exec (.xset u k b lim) s = .next t ∧ ∀ j l, InGang e j l → e.m.passes l = true → k.toNat < l.x.length →
      ∃ l', LaneAfter e t j l' ∧ l'.x[k.toNat]? = some { off := 0, limit := lim, base := b }) ∧
  (∀ (u : Bool) (k : BitVec 3) (a : Opnd) (s : State) (e : Env), Ready s e → Clean (e.readChks u (xoffWrite k a e)) →
    ∃ t, exec (.xoff u k a) s = .next t ∧ ∀ j l (x : XReg), InGang e j l → e.m.passes l = true → l.x[k.toNat]? = some x →
      let v := (read32 e (if u then e.leader else l) a).val.1
      ∃ l', LaneAfter e t j l' ∧ l'.x[k.toNat]? = some { x with off := if v.toNat ≤ 255 then v.setWidth 8 else 255 }) ∧
  (∀ (u : Bool) (k : BitVec 3) (a : Opnd) (s : State) (e : Env), Ready s e → Clean (e.readChks u (xaddWrite k a e)) →
    ∃ t, exec (.xadd u k a) s = .next t ∧ ∀ j l (x : XReg), InGang e j l → e.m.passes l = true → l.x[k.toNat]? = some x →
      let sum : Int := x.off.toNat + (read32 e (if u then e.leader else l) a).val.1.toInt
      ∃ l', LaneAfter e t j l' ∧ l'.x[k.toNat]? = some { x with off := if 0 ≤ sum ∧ sum ≤ 255 then BitVec.ofInt 8 sum else 255 })

/-- rdsr gives each special register's value with its tag, and latches the high half of a cycle count; wrsr writes sr.rctr and sr.sp of each lane
that passes the guard, and the group's sr.mode; the indices and accesses that R92 refuses fault ILLEGAL_OPERAND (that a refused MODE names the
leader is the model's choice, log entry 28; a team that makes no request has no stated sr.pclass, log entry 48). Rests on R58, R82, R83, R85,
R91, R92, R97, R152, R153, R375, R386, R387. -/
def Obligations.SpecialRegistersAreReadAndWritten : Prop :=
  let words : State → List (Nat × (Env → Lane → Word)) := fun s =>
    [(0x00, fun e _ => BitVec.ofNat 32 (if s.dev.lockup e.g.part then (s.dev.part e.g.part).cyc else (s.dev.cluster (e.g.core / 4)).cyc)),
     (0x01, fun _ l => l.cych), (0x02, fun _ l => l.glid.extractLsb' 0 32), (0x03, fun _ l => l.glid.extractLsb' 32 32),
     (0x04, fun _ l => BitVec.ofNat 32 l.lid), (0x05, fun e _ => BitVec.ofNat 32 e.g.gix), (0x06, fun e _ => BitVec.ofNat 32 e.t.tix),
     (0x07, fun e _ => match e.t.kind with
        | .launch => e.t.shape.launchId
        | .fragment => BitVec.ofNat 32 (e.t.draw.getD 0)
        | _ => 0),
     (0x08, fun e _ => BitVec.ofNat 32 e.g.core), (0x09, fun e _ => BitVec.ofNat 32 e.g.part), (0x0A, fun e _ => e.g.mode),
     (0x0C, fun _ l => l.rctr), (0x0F, fun e _ => BitVec.ofNat 32 (s.dev.part e.g.part).dropped), (0x10, fun _ l => BitVec.ofNat 32 l.ticket.toNat),
     (0x11, fun e _ => BitVec.ofNat 32 e.g.width),
     (0x12, fun e _ => BitVec.ofNat 32 (e.desc.timing % 2 + (if e.t.shape.breachTrap then 2 else 0))), (0x13, fun e _ => BitVec.ofNat 32 e.g.breach)]
  let odd := fun (d : Opnd) => (∃ n, d = .v n ∧ n.val % 2 = 1) ∨ ∃ n, d = .s n ∧ n.val % 2 = 1
  (∀ (u : Bool) (d : Opnd) (k : BitVec 16) (s : State) (e : Env), Ready s e → Clean (valueChks e u d (rdsrShape k e) (rdsrVal k)) →
    ∃ t, exec (.rdsr u d k) s = .next t ∧
      (∀ x ∈ words s, k.toNat = x.1 → ResultIn e t u d (1, false) (fun l => reg1 (x.2 e l) .n32)) ∧
      (k = 0x0B#16 → ∀ x : Word, (∀ i < 12, x.getLsbD i = decide (e.g.flags.getD i 0 ≠ 0) ∧ x.getLsbD (12 + i) = decide (e.g.flags.getD i 0 = 63)) →
        (∀ i, 24 ≤ i → x.getLsbD i = false) → ResultIn e t u d (1, false) (fun _ => reg1 x .n32)) ∧
      (k = 0x0D#16 → ∀ r, e.t.pclass = some r → ResultIn e t u d (1, false) (fun _ => reg1 (BitVec.ofNat 32
        ((if s.dev.lockup e.g.part then 1 else (s.dev.cluster (e.g.core / 4)).cls) + 4 * r + 16 * (e.desc.timing / 2 % 4))) .n32)) ∧
      (k = 0x0E#16 → ResultIn e t u d (2, true) (fun l =>
        [{ bits := l.sp.extractLsb' 0 32, tag := .n64l }, { bits := l.sp.extractLsb' 32 32, tag := .n64h }])) ∧
      (k = 0#16 → ∀ j l, InGang e j l → e.m.passes l = true → ∃ l', LaneAfter e t j l' ∧ l'.cych = BitVec.ofNat 32
        ((if s.dev.lockup e.g.part then (s.dev.part e.g.part).cyc else (s.dev.cluster (e.g.core / 4)).cyc) / 2 ^ 32))) ∧
  (∀ (u : Bool) (d : Opnd) (k : BitVec 16) (s : State) (e : Env), 0x13 < k.toNat ∨ k = 0x0E#16 ∧ odd d → Ready s e →
    (∀ c ∈ valueChks e u d (rdsrShape k e) (rdsrVal k), c.2.wait = false) →
    exec (.rdsr u d k) s = .next (faultState e .illegalOperand e.lids 0)) ∧
  (∀ (u : Bool) (d : Opnd) (s : State) (e : Env), Ready s e → Clean (e.readChks u (srWrite d 0x0C#16 e)) →
    ∃ t, exec (.wrsr u d 0x0C#16) s = .next t ∧ ∀ j l, InGang e j l → e.m.passes l = true →
      ∃ l', LaneAfter e t j l' ∧ l'.rctr = anyBits e (if u then e.leader else l) d) ∧
  (∀ (u : Bool) (d : Opnd) (s : State) (e : Env), Ready s e → Clean (e.readChks u (srWrite d 0x0E#16 e)) →
    ∃ t, exec (.wrsr u d 0x0E#16) s = .next t ∧ ∀ j l, InGang e j l → e.m.passes l = true →
      ∃ l', LaneAfter e t j l' ∧ l'.sp = BitVec.ofNat 64 (readPairAny e (if u then e.leader else l) d).val) ∧
  (∀ (d : Opnd) (s : State) (e : Env), Ready s e → (∀ c ∈ groupChks e true (srModeWrite d), c.2.wait = false) →
    let v := anyBits e e.leader d
    (modeLegal v.toNat = true → Clean (groupChks e true (srModeWrite d)) →
      ∃ t g, exec (.wrsr true d 0x0A#16) s = .next t ∧ t.dev.group? e.g.gid = some g ∧ g.mode = v) ∧
    (modeLegal v.toNat = false → (∀ c ∈ groupChks e true (srModeWrite d), ∀ b ∈ c.2.bad, b = .modeField) →
      exec (.wrsr true d 0x0A#16) s = .next (faultState e .modeField [e.leader.lid] 0))) ∧
  (∀ (d : Opnd) (s : State) (e : Env), Ready s e → (∀ c ∈ groupChks e false (srModeWrite d), c.2.wait = false) →
    exec (.wrsr false d 0x0A#16) s = .next (faultState e .illegalOperand e.lids 0)) ∧
  (∀ (u : Bool) (d : Opnd) (k : BitVec 16) (s : State) (e : Env), k ∉ [0x0A#16, 0x0C#16, 0x0E#16] ∨ k = 0x0E#16 ∧ odd d → Ready s e →
    (∀ c ∈ e.readChks u (srWrite d k e), c.2.wait = false) →
    exec (.wrsr u d k) s = .next (faultState e .illegalOperand e.lids 0))

/-- Bytes that a core writes at a place, the core reads back there. Rests on R186, R295, R296, R297, R298. -/
def Obligations.StoredBytesAreReadBack : Prop :=
  ∀ (st : Store) (core : Nat) (via : Via) (pl : Place) (bs : List Byte), st.wf = true → pl.deferred = false → st.placeUp pl = true →
    (∀ k c sc df, pl = .pa k c sc df → k % 128 + bs.length ≤ 128) →
    ((st.writePlace core via pl bs).read core via pl bs.length).2 = bs

/-- A translation that a TLB entry serves changes nothing; any other that goes on sets A, and D for a write, in the leaf entry it walked to,
changes no other byte, and leaves the entry in the TLB. Rests on R310, R311, R312, R313, R314. -/
def Obligations.TranslationChangesOnlyTheLeafEntry : Prop :=
  ∀ (st : Store) (q p root core va : Nat) (wr : Bool), st.wf = true → p ∈ [1, 2, 4] → q < p → root % 2 ^ 16 = 0 →
    let t := st.touchPage q p root core va wr
    let served := ∃ k, st.tlbHit q core va = some k ∧ (wr = true → k.leaf.getLsbD 53 = true)
    t.lines = st.lines ∧ t.scr = st.scr ∧ t.acc = st.acc ∧ t.cells = st.cells ∧ t.errs = st.errs ∧
    (served → t = st) ∧
    (¬ served → (∀ x at_ shift, st.walk q p root va ≠ .leaf x at_ shift) → t = st) ∧
    (¬ served → ∀ x at_ shift, st.walk q p root va = .leaf x at_ shift →
      (∀ own a, a < at_ ∨ at_ + 8 ≤ a → t.homeGet own a = st.homeGet own a) ∧
      ∃ y, (∀ j, y.testBit j = (j == 52 || (wr && j == 53) || x.testBit j)) ∧ t.homeGetN none at_ 8 = leBytes 8 y ∧
        ∃ k, t.tlbHit q core va = some k ∧ k.leaf = BitVec.ofNat 64 y ∧ k.shift = shift)

/-- Of the faults of one issue the first in the order of R97 is raised, for the whole gang up to ILLEGAL_OPERAND, else for the lanes that met
it. Which lanes meet a fault is in part the model's choice: with U = 1 the leader, of UNIFORM the lanes that differ (log entry 9), of
MODE_FIELD the leader (log entry 28), of an odd BASE + OFF the whole gang (log entry 45). Rests on R22, R77, R97, R98, R316, R320. -/
def Obligations.FaultsComeInTheirOrder : Prop :=
  let order : List (FCode × Nat) := [(.illegalOpcode, 2), (.illegalOperand, 3), (.accBounds, 4), (.regBounds, 5), (.format, 6), (.uniform, 7),
    (.modeField, 8)]
  let rank := fun (c : FCode) => match order.find? (fun x => x.1 == c) with | some x => x.2 | none => 9
  ∀ (i : Instr) (s : State) (e : Env) (cs : List (Nat × Chk)), Ready s e →
    ((∃ f, valueForm i = some f ∧ cs = valueChks e f.u f.d (f.shape e) f.val) ∨
     (∃ f, predForm i = some f ∧ cs = e.readChks f.u (predRead f.p f.val e)) ∨
     (∃ f, laneForm i = some f ∧ cs = e.readChks f.u (f.rd e)) ∨ (∃ f, groupForm i = some f ∧ cs = groupChks e f.u f.rd)) →
    ((∃ c ∈ cs, c.2.wait = true) → exec i s = .fault .blocked) ∧
    ((∀ c ∈ cs, c.2.wait = false) → (∃ c ∈ cs, c.2.bad ≠ []) → ∃ code lids, exec i s = .next (faultState e code lids 0) ∧
      (∃ c ∈ cs, code ∈ c.2.bad) ∧ (∀ c ∈ cs, ∀ b ∈ c.2.bad, rank code ≤ rank b) ∧
      (rank code ≤ 3 → lids = e.lids) ∧ (3 < rank code → ∀ n, n ∈ lids ↔ ∃ c ∈ cs, c.1 = n ∧ code ∈ c.2.bad)) ∧
    (∀ code lids, let t := faultState e code lids 0
      t.st = s.st ∧ t.dev.groups = s.dev.groups ∧ (e.g.part < s.dev.parts.length → (t.dev.part e.g.part).halt = true ∧
        ∃ r, (t.dev.part e.g.part).faults = (s.dev.part e.g.part).faults ++ [r] ∧ r.code = code ∧ r.pc = e.sel.pc ∧
          r.gid = some e.g.gid ∧ ∀ j, r.mask.testBit j = lids.contains j))

/-- A memory access that some lane cannot make stops the whole issue by the first step of R180 that fails: ALIGN, TRANSLATION, a park,
PERMISSION or RANGE_LOCK, for exactly the lanes that meet it, with the address of the first of them (log entry 11: a fatal translation comes
before an absent one, ADDR of ALIGN is 0); a multiply's tile outside the scratchpad is PERMISSION, under an engine's destination RANGE_LOCK.
A fault at issue changes nothing but the halt line and the faults found. Rests on R97, R98, R180, R182, R186, R187, R202, R208, R219, R253,
R316, R317. -/
def Obligations.AccessFaultsComeInTheirSteps : Prop :=
  let free := fun (_ : Req) (_ : Place) => false
  (∀ (i : Instr) (f : LongForm) (s : State) (e : Env), longForm i = some f → Ready s e → Clean (longChks e f.u f.d f.k) →
    ((f.k.spec e).takeFlag = true → e.g.flagFull e.flag = false) →
    StopsByStep e (exec i s) (f.k.spec e).size (f.k.spec e).size f.k.need f.k.srcToo true (f.k.refuse e) (longReqs e f.u f.d f.k)) ∧
  (∀ (i : Instr) (f : StoreForm) (s : State) (e : Env), storeForm i = some f → Ready s e → Clean (e.readChks f.u (f.k.read e)) →
    StopsByStep e (exec i s) (f.k.size e) (f.k.size e) .write true true free (storeReqs e f.u f.k)) ∧
  (∀ (u : Bool) (d a : Opnd) (o : BitVec 8) (s : State) (e : Env), Ready s e → Clean (e.readChks u ((strlOp d a o).read e)) →
    StopsByStep e (exec (.strl u d a o) s) (typeSize e) (typeSize e) .write true true free (storeReqs e u (strlOp d a o))) ∧
  (∀ (u : Bool) (d a : Opnd) (o : BitVec 8) (s : State) (e : Env), Ready s e → Clean (e.readChks u ((plateOp d a o).read e)) →
    (∀ r ∈ storeReqs e u (plateOp d a o), field r.data 0 4 % 4 = 0) →
    StopsByStep e (exec (.dplate u d a o) s) 16 16 .write true true (fun _ pl => notDeferred e pl) (storeReqs e u (plateOp d a o))) ∧
  (∀ (u : Bool) (p : BitVec 6) (n : Bool) (o : BitVec 16) (s : State) (e : Env), Ready s e → Clean (e.branchChks u p n) →
    callDeep (callTakers e u p n o) = [] → callOdd (callTakers e u p n o) = [] → callLow e (callTakers e u p n o) = [] →
    StopsByStep e (exec (.call u p n o) s) 8 8 .write true false free (callReqs e (callTakers e u p n o))) ∧
  (∀ (u : Bool) (a : Opnd) (s : State) (e : Env), Ready s e → Clean (e.readChks u (targetRead a e)) → (∀ t ∈ targets e u a, t.2 % 4 = 0) →
    callDeep (targets e u a) = [] → callOdd (targets e u a) = [] → callLow e (targets e u a) = [] →
    StopsByStep e (exec (.callr u a) s) 8 8 .write true false free (callReqs e (targets e u a))) ∧
  (∀ (s : State) (e : Env), Ready s e → (∀ l ∈ e.lanes, l.depth ≠ 0) → StopsByStep e (exec .ret s) 8 8 .read false true free (retReqs e)) ∧
  (∀ (u : Bool) (d a b : Opnd) (s : State) (e : Env), Ready s e → Clean (waitvChks e u d a b) →
    StopsByStep e (exec (.waitv u d a b) s) 4 4 .read false true free (waitvReqs e u d a b)) ∧
  (∀ (i : Instr) (k : AccMove) (s : State) (e : Env), accMoveForm i = some k → Ready s e → Clean (accMoveChks e k) → e.mxFull e.flag = false →
    StopsByStep e (exec i s) 16 16 (if k.store then .write else .read) k.store true free (accMoveReqs e k)) ∧
  (∀ (i : Instr) (f : EngForm) (s : State) (e : Env), engForm i = some f → Ready s e → Clean (engChks e f.u f.d (targetRead f.a)) →
    StopsByStep e (exec i s) f.kind.descLen f.kind.descLen .read false true free (engReqs e f.u f.d f.a)) ∧
  (∀ (i : Instr) (x : MxOp) (s : State) (e : Env) (out : Out), matrixForm i = some x → Ready s e → Clean (mxChks e x) →
    e.mxFull e.flag = false → mxTile e x = .stop out → exec i s = out ∧ ∃ code va, (code = .permission ∨ code = .rangeLock) ∧
      windowBase ≤ va ∧ out = .next (faultState e code (e.passing.map (·.lid)) (BitVec.ofNat 64 va))) ∧
  (∀ (s : State) (e : Env) (code : FCode) (lids : List Nat) (va : DWord), Ready s e → let t := faultState e code lids va
    t.st = s.st ∧ { t.dev with parts := s.dev.parts } = s.dev ∧ (e.g.part < s.dev.parts.length → (t.dev.part e.g.part).halt = true ∧
      ∃ r, (t.dev.part e.g.part).faults = (s.dev.part e.g.part).faults ++ [r] ∧ r.pc = e.sel.pc ∧ r.gid = some e.g.gid ∧
        (∀ j, r.mask.testBit j = lids.contains j) ∧ (r.record 0 0).fcode = code.code ∧ (r.record 0 0).kind = 0 ∧ (r.record 0 0).addr = va.toNat))

/-- After reset the registers to which the spec gives a value hold it: the sizes of a module with nothing failed, its identity and health
blocks, the queues, CSLOPE and CW. Rests on R1, R2, R283, R347, R396, R403, R405, R416. -/
def Obligations.ResetHoldsTheSpecsValues : Prop :=
  let d := State.reset.dev
  let ports := State.reset.st.portsUp
  let reg := fun (a n : Nat) => leNat ((List.range n).map (fun i => d.bar0Byte ports (a + i)))
  d.nparts = 1 ∧ d.parts.length = 4 ∧
  (∀ p ∈ d.parts, p.desc = none ∧ p.halt = false ∧ p.queues.length = 64 ∧
    ∀ q ∈ p.queues, q.tickets = 1 ∧ q.head = 0 ∧ q.tail = 0 ∧ q.state = 0 ∧ q.errCode = 0 ∧ q.errOff = 0) ∧
  (∀ c ∈ d.clusters, c.cslope.extractLsb' 24 8 = 60#8 ∧ c.cslope.extractLsb' 16 8 = 16#8 ∧ c.cslope.extractLsb' 0 16 = 64#16) ∧
  (∀ c ∈ d.cores, c.cw = 0 ∧ c.working = true) ∧ d.cores.length = 144 ∧ d.clusters.length = 36 ∧ d.groups = [] ∧ d.teams = [] ∧
  d.t1Gib = 192 ∧ d.t2Gib = 3072 ∧ d.slices = 48 ∧ ports = 4095 ∧ d.pcieWidth = 16 ∧ d.pcieGen = 7 ∧
  reg 0 23 = 0 ∧ reg 23 1 = 12 ∧ reg 24 2 = 48 ∧ reg 26 2 = 144 ∧ reg 28 4 = 192 ∧ reg 32 4 = 3072 ∧ reg 37 1 = 1 ∧ reg 212 44 = 0 ∧
  reg 0x1000 44 = 0 ∧ ∀ a, 0x1044 ≤ a → a < 0x2000 → d.bar0Byte ports a = 0
end

