-- ==== Sys2Proof/Laws/Decode.lean ====
section
/-!
SUPPORT. Operand codes and fields: the code of an operand is a byte, and the operand of its code is the operand.
-/
namespace Sys2Proof

theorem bool_lt (b : Bool) : b.toNat < 2 := by cases b <;> decide

theorem Const.index_lt (c : Const) : c.index < 5 := by cases c <;> decide

theorem Special.index_lt (x : Special) : x.index < 6 := by cases x <;> decide

theorem Const.ofIndex_index (c : Const) : Const.ofIndex c.index = c := by cases c <;> rfl

theorem Special.ofIndex_index (x : Special) : Special.ofIndex x.index = x := by cases x <;> rfl

/-- An operand code is a byte. -/
theorem Opnd.code_lt (o : Opnd) : o.code < 256 := by
  cases o with
  | const c => have := c.index_lt; simp only [Opnd.code]; omega
  | special x => have := x.index_lt; simp only [Opnd.code]; omega
  | _ => simp only [Opnd.code]; omega

/-- The operand of an operand's code is the operand. -/
theorem Opnd.ofCode_code (o : Opnd) : Opnd.ofCode o.code = o := by
  cases o with
  | const c => cases c <;> rfl
  | special x => cases x <;> rfl
  | sink => rfl
  | v n => simp [Opnd.code, Opnd.ofCode, n.isLt]
  | s n => revert n; decide
  | vx k => revert k; decide
  | lit k => revert k; decide
  | reserved n => revert n; decide

/-- Four bytes of a word, and the word of its bytes. -/
theorem wordOfBytes_leBytes (w : Nat) (h : w < 2 ^ 32) :
    (decodeBytes (leBytes 4 w)).map (·.1) = decodeWord w := by
  simp only [leBytes, decodeBytes, wordOfBytes, Option.map_map]
  have e : (BitVec.ofNat 8 w).toNat + (BitVec.ofNat 8 (w / 256)).toNat * 2 ^ 8 + (BitVec.ofNat 8 (w / 256 / 256)).toNat * 2 ^ 16 +
      (BitVec.ofNat 8 (w / 256 / 256 / 256)).toNat * 2 ^ 24 = w := by
    simp only [BitVec.toNat_ofNat]; omega
  rw [e]
  cases decodeWord w <;> rfl

end Sys2Proof
end

