-- ==== Sys2Proof/Laws/State.lean ====
section
/-!
SUPPORT. What each update of the state leaves in each field: one lemma for each field and update, true by definition.
-/
namespace Sys2Proof.Machine
open Sys2Proof

/-! `State.onDev` -/

@[simp] theorem State.onDev_dev (s : State) (f : Dev → Dev) : (s.onDev f).dev = f s.dev := rfl
@[simp] theorem State.onDev_st (s : State) (f : Dev → Dev) : (s.onDev f).st = s.st := rfl

/-! `State.onSt` -/

@[simp] theorem State.onSt_dev (s : State) (f : Store → Store) : (s.onSt f).dev = s.dev := rfl
@[simp] theorem State.onSt_st (s : State) (f : Store → Store) : (s.onSt f).st = f s.st := rfl

/-! `Dev.modGroup` -/

@[simp] theorem Dev.modGroup_groups (d : Dev) (k : Nat) (f : Group → Group) : (d.modGroup k f).groups = d.groups.map (fun x => if x.gid = k then f x else x) := rfl
@[simp] theorem Dev.modGroup_teams (d : Dev) (k : Nat) (f : Group → Group) : (d.modGroup k f).teams = d.teams := rfl
@[simp] theorem Dev.modGroup_ops (d : Dev) (k : Nat) (f : Group → Group) : (d.modGroup k f).ops = d.ops := rfl
@[simp] theorem Dev.modGroup_engs (d : Dev) (k : Nat) (f : Group → Group) : (d.modGroup k f).engs = d.engs := rfl
@[simp] theorem Dev.modGroup_cores (d : Dev) (k : Nat) (f : Group → Group) : (d.modGroup k f).cores = d.cores := rfl
@[simp] theorem Dev.modGroup_clusters (d : Dev) (k : Nat) (f : Group → Group) : (d.modGroup k f).clusters = d.clusters := rfl
@[simp] theorem Dev.modGroup_parts (d : Dev) (k : Nat) (f : Group → Group) : (d.modGroup k f).parts = d.parts := rfl
@[simp] theorem Dev.modGroup_nparts (d : Dev) (k : Nat) (f : Group → Group) : (d.modGroup k f).nparts = d.nparts := rfl
@[simp] theorem Dev.modGroup_fw (d : Dev) (k : Nat) (f : Group → Group) : (d.modGroup k f).fw = d.fw := rfl
@[simp] theorem Dev.modGroup_health (d : Dev) (k : Nat) (f : Group → Group) : (d.modGroup k f).health = d.health := rfl
@[simp] theorem Dev.modGroup_mbox (d : Dev) (k : Nat) (f : Group → Group) : (d.modGroup k f).mbox = d.mbox := rfl
@[simp] theorem Dev.modGroup_irqs (d : Dev) (k : Nat) (f : Group → Group) : (d.modGroup k f).irqs = d.irqs := rfl
@[simp] theorem Dev.modGroup_pcieWidth (d : Dev) (k : Nat) (f : Group → Group) : (d.modGroup k f).pcieWidth = d.pcieWidth := rfl
@[simp] theorem Dev.modGroup_pcieGen (d : Dev) (k : Nat) (f : Group → Group) : (d.modGroup k f).pcieGen = d.pcieGen := rfl
@[simp] theorem Dev.modGroup_inbound (d : Dev) (k : Nat) (f : Group → Group) : (d.modGroup k f).inbound = d.inbound := rfl
@[simp] theorem Dev.modGroup_t1Gib (d : Dev) (k : Nat) (f : Group → Group) : (d.modGroup k f).t1Gib = d.t1Gib := rfl
@[simp] theorem Dev.modGroup_t2Gib (d : Dev) (k : Nat) (f : Group → Group) : (d.modGroup k f).t2Gib = d.t2Gib := rfl
@[simp] theorem Dev.modGroup_slices (d : Dev) (k : Nat) (f : Group → Group) : (d.modGroup k f).slices = d.slices := rfl
@[simp] theorem Dev.modGroup_time (d : Dev) (k : Nat) (f : Group → Group) : (d.modGroup k f).time = d.time := rfl
@[simp] theorem Dev.modGroup_power (d : Dev) (k : Nat) (f : Group → Group) : (d.modGroup k f).power = d.power := rfl
@[simp] theorem Dev.modGroup_reads (d : Dev) (k : Nat) (f : Group → Group) : (d.modGroup k f).reads = d.reads := rfl
@[simp] theorem Dev.modGroup_agenda (d : Dev) (k : Nat) (f : Group → Group) : (d.modGroup k f).agenda = d.agenda := rfl
@[simp] theorem Dev.modGroup_phase (d : Dev) (k : Nat) (f : Group → Group) : (d.modGroup k f).phase = d.phase := rfl
@[simp] theorem Dev.modGroup_sel (d : Dev) (k : Nat) (f : Group → Group) : (d.modGroup k f).sel = d.sel := rfl
@[simp] theorem Dev.modGroup_nextGid (d : Dev) (k : Nat) (f : Group → Group) : (d.modGroup k f).nextGid = d.nextGid := rfl
@[simp] theorem Dev.modGroup_nextTid (d : Dev) (k : Nat) (f : Group → Group) : (d.modGroup k f).nextTid = d.nextTid := rfl
@[simp] theorem Dev.modGroup_nextLno (d : Dev) (k : Nat) (f : Group → Group) : (d.modGroup k f).nextLno = d.nextLno := rfl
@[simp] theorem Dev.modGroup_nextOp (d : Dev) (k : Nat) (f : Group → Group) : (d.modGroup k f).nextOp = d.nextOp := rfl
@[simp] theorem Dev.modGroup_nextStamp (d : Dev) (k : Nat) (f : Group → Group) : (d.modGroup k f).nextStamp = d.nextStamp := rfl
@[simp] theorem Dev.modGroup_freeCtr (d : Dev) (k : Nat) (f : Group → Group) : (d.modGroup k f).freeCtr = d.freeCtr := rfl

/-! `Dev.modTeam` -/

@[simp] theorem Dev.modTeam_groups (d : Dev) (k : Nat) (f : Team → Team) : (d.modTeam k f).groups = d.groups := rfl
@[simp] theorem Dev.modTeam_teams (d : Dev) (k : Nat) (f : Team → Team) : (d.modTeam k f).teams = d.teams.map (fun x => if x.tid = k then f x else x) := rfl
@[simp] theorem Dev.modTeam_ops (d : Dev) (k : Nat) (f : Team → Team) : (d.modTeam k f).ops = d.ops := rfl
@[simp] theorem Dev.modTeam_engs (d : Dev) (k : Nat) (f : Team → Team) : (d.modTeam k f).engs = d.engs := rfl
@[simp] theorem Dev.modTeam_cores (d : Dev) (k : Nat) (f : Team → Team) : (d.modTeam k f).cores = d.cores := rfl
@[simp] theorem Dev.modTeam_clusters (d : Dev) (k : Nat) (f : Team → Team) : (d.modTeam k f).clusters = d.clusters := rfl
@[simp] theorem Dev.modTeam_parts (d : Dev) (k : Nat) (f : Team → Team) : (d.modTeam k f).parts = d.parts := rfl
@[simp] theorem Dev.modTeam_nparts (d : Dev) (k : Nat) (f : Team → Team) : (d.modTeam k f).nparts = d.nparts := rfl
@[simp] theorem Dev.modTeam_fw (d : Dev) (k : Nat) (f : Team → Team) : (d.modTeam k f).fw = d.fw := rfl
@[simp] theorem Dev.modTeam_health (d : Dev) (k : Nat) (f : Team → Team) : (d.modTeam k f).health = d.health := rfl
@[simp] theorem Dev.modTeam_mbox (d : Dev) (k : Nat) (f : Team → Team) : (d.modTeam k f).mbox = d.mbox := rfl
@[simp] theorem Dev.modTeam_irqs (d : Dev) (k : Nat) (f : Team → Team) : (d.modTeam k f).irqs = d.irqs := rfl
@[simp] theorem Dev.modTeam_pcieWidth (d : Dev) (k : Nat) (f : Team → Team) : (d.modTeam k f).pcieWidth = d.pcieWidth := rfl
@[simp] theorem Dev.modTeam_pcieGen (d : Dev) (k : Nat) (f : Team → Team) : (d.modTeam k f).pcieGen = d.pcieGen := rfl
@[simp] theorem Dev.modTeam_inbound (d : Dev) (k : Nat) (f : Team → Team) : (d.modTeam k f).inbound = d.inbound := rfl
@[simp] theorem Dev.modTeam_t1Gib (d : Dev) (k : Nat) (f : Team → Team) : (d.modTeam k f).t1Gib = d.t1Gib := rfl
@[simp] theorem Dev.modTeam_t2Gib (d : Dev) (k : Nat) (f : Team → Team) : (d.modTeam k f).t2Gib = d.t2Gib := rfl
@[simp] theorem Dev.modTeam_slices (d : Dev) (k : Nat) (f : Team → Team) : (d.modTeam k f).slices = d.slices := rfl
@[simp] theorem Dev.modTeam_time (d : Dev) (k : Nat) (f : Team → Team) : (d.modTeam k f).time = d.time := rfl
@[simp] theorem Dev.modTeam_power (d : Dev) (k : Nat) (f : Team → Team) : (d.modTeam k f).power = d.power := rfl
@[simp] theorem Dev.modTeam_reads (d : Dev) (k : Nat) (f : Team → Team) : (d.modTeam k f).reads = d.reads := rfl
@[simp] theorem Dev.modTeam_agenda (d : Dev) (k : Nat) (f : Team → Team) : (d.modTeam k f).agenda = d.agenda := rfl
@[simp] theorem Dev.modTeam_phase (d : Dev) (k : Nat) (f : Team → Team) : (d.modTeam k f).phase = d.phase := rfl
@[simp] theorem Dev.modTeam_sel (d : Dev) (k : Nat) (f : Team → Team) : (d.modTeam k f).sel = d.sel := rfl
@[simp] theorem Dev.modTeam_nextGid (d : Dev) (k : Nat) (f : Team → Team) : (d.modTeam k f).nextGid = d.nextGid := rfl
@[simp] theorem Dev.modTeam_nextTid (d : Dev) (k : Nat) (f : Team → Team) : (d.modTeam k f).nextTid = d.nextTid := rfl
@[simp] theorem Dev.modTeam_nextLno (d : Dev) (k : Nat) (f : Team → Team) : (d.modTeam k f).nextLno = d.nextLno := rfl
@[simp] theorem Dev.modTeam_nextOp (d : Dev) (k : Nat) (f : Team → Team) : (d.modTeam k f).nextOp = d.nextOp := rfl
@[simp] theorem Dev.modTeam_nextStamp (d : Dev) (k : Nat) (f : Team → Team) : (d.modTeam k f).nextStamp = d.nextStamp := rfl
@[simp] theorem Dev.modTeam_freeCtr (d : Dev) (k : Nat) (f : Team → Team) : (d.modTeam k f).freeCtr = d.freeCtr := rfl

/-! `Dev.modOp` -/

@[simp] theorem Dev.modOp_groups (d : Dev) (k : Nat) (f : Op → Op) : (d.modOp k f).groups = d.groups := rfl
@[simp] theorem Dev.modOp_teams (d : Dev) (k : Nat) (f : Op → Op) : (d.modOp k f).teams = d.teams := rfl
@[simp] theorem Dev.modOp_ops (d : Dev) (k : Nat) (f : Op → Op) : (d.modOp k f).ops = d.ops.map (fun x => if x.opid = k then f x else x) := rfl
@[simp] theorem Dev.modOp_engs (d : Dev) (k : Nat) (f : Op → Op) : (d.modOp k f).engs = d.engs := rfl
@[simp] theorem Dev.modOp_cores (d : Dev) (k : Nat) (f : Op → Op) : (d.modOp k f).cores = d.cores := rfl
@[simp] theorem Dev.modOp_clusters (d : Dev) (k : Nat) (f : Op → Op) : (d.modOp k f).clusters = d.clusters := rfl
@[simp] theorem Dev.modOp_parts (d : Dev) (k : Nat) (f : Op → Op) : (d.modOp k f).parts = d.parts := rfl
@[simp] theorem Dev.modOp_nparts (d : Dev) (k : Nat) (f : Op → Op) : (d.modOp k f).nparts = d.nparts := rfl
@[simp] theorem Dev.modOp_fw (d : Dev) (k : Nat) (f : Op → Op) : (d.modOp k f).fw = d.fw := rfl
@[simp] theorem Dev.modOp_health (d : Dev) (k : Nat) (f : Op → Op) : (d.modOp k f).health = d.health := rfl
@[simp] theorem Dev.modOp_mbox (d : Dev) (k : Nat) (f : Op → Op) : (d.modOp k f).mbox = d.mbox := rfl
@[simp] theorem Dev.modOp_irqs (d : Dev) (k : Nat) (f : Op → Op) : (d.modOp k f).irqs = d.irqs := rfl
@[simp] theorem Dev.modOp_pcieWidth (d : Dev) (k : Nat) (f : Op → Op) : (d.modOp k f).pcieWidth = d.pcieWidth := rfl
@[simp] theorem Dev.modOp_pcieGen (d : Dev) (k : Nat) (f : Op → Op) : (d.modOp k f).pcieGen = d.pcieGen := rfl
@[simp] theorem Dev.modOp_inbound (d : Dev) (k : Nat) (f : Op → Op) : (d.modOp k f).inbound = d.inbound := rfl
@[simp] theorem Dev.modOp_t1Gib (d : Dev) (k : Nat) (f : Op → Op) : (d.modOp k f).t1Gib = d.t1Gib := rfl
@[simp] theorem Dev.modOp_t2Gib (d : Dev) (k : Nat) (f : Op → Op) : (d.modOp k f).t2Gib = d.t2Gib := rfl
@[simp] theorem Dev.modOp_slices (d : Dev) (k : Nat) (f : Op → Op) : (d.modOp k f).slices = d.slices := rfl
@[simp] theorem Dev.modOp_time (d : Dev) (k : Nat) (f : Op → Op) : (d.modOp k f).time = d.time := rfl
@[simp] theorem Dev.modOp_power (d : Dev) (k : Nat) (f : Op → Op) : (d.modOp k f).power = d.power := rfl
@[simp] theorem Dev.modOp_reads (d : Dev) (k : Nat) (f : Op → Op) : (d.modOp k f).reads = d.reads := rfl
@[simp] theorem Dev.modOp_agenda (d : Dev) (k : Nat) (f : Op → Op) : (d.modOp k f).agenda = d.agenda := rfl
@[simp] theorem Dev.modOp_phase (d : Dev) (k : Nat) (f : Op → Op) : (d.modOp k f).phase = d.phase := rfl
@[simp] theorem Dev.modOp_sel (d : Dev) (k : Nat) (f : Op → Op) : (d.modOp k f).sel = d.sel := rfl
@[simp] theorem Dev.modOp_nextGid (d : Dev) (k : Nat) (f : Op → Op) : (d.modOp k f).nextGid = d.nextGid := rfl
@[simp] theorem Dev.modOp_nextTid (d : Dev) (k : Nat) (f : Op → Op) : (d.modOp k f).nextTid = d.nextTid := rfl
@[simp] theorem Dev.modOp_nextLno (d : Dev) (k : Nat) (f : Op → Op) : (d.modOp k f).nextLno = d.nextLno := rfl
@[simp] theorem Dev.modOp_nextOp (d : Dev) (k : Nat) (f : Op → Op) : (d.modOp k f).nextOp = d.nextOp := rfl
@[simp] theorem Dev.modOp_nextStamp (d : Dev) (k : Nat) (f : Op → Op) : (d.modOp k f).nextStamp = d.nextStamp := rfl
@[simp] theorem Dev.modOp_freeCtr (d : Dev) (k : Nat) (f : Op → Op) : (d.modOp k f).freeCtr = d.freeCtr := rfl

/-! `Dev.modEng` -/

@[simp] theorem Dev.modEng_groups (d : Dev) (k : Nat) (f : Eng → Eng) : (d.modEng k f).groups = d.groups := rfl
@[simp] theorem Dev.modEng_teams (d : Dev) (k : Nat) (f : Eng → Eng) : (d.modEng k f).teams = d.teams := rfl
@[simp] theorem Dev.modEng_ops (d : Dev) (k : Nat) (f : Eng → Eng) : (d.modEng k f).ops = d.ops := rfl
@[simp] theorem Dev.modEng_engs (d : Dev) (k : Nat) (f : Eng → Eng) : (d.modEng k f).engs = d.engs.map (fun x => if x.eid = k then f x else x) := rfl
@[simp] theorem Dev.modEng_cores (d : Dev) (k : Nat) (f : Eng → Eng) : (d.modEng k f).cores = d.cores := rfl
@[simp] theorem Dev.modEng_clusters (d : Dev) (k : Nat) (f : Eng → Eng) : (d.modEng k f).clusters = d.clusters := rfl
@[simp] theorem Dev.modEng_parts (d : Dev) (k : Nat) (f : Eng → Eng) : (d.modEng k f).parts = d.parts := rfl
@[simp] theorem Dev.modEng_nparts (d : Dev) (k : Nat) (f : Eng → Eng) : (d.modEng k f).nparts = d.nparts := rfl
@[simp] theorem Dev.modEng_fw (d : Dev) (k : Nat) (f : Eng → Eng) : (d.modEng k f).fw = d.fw := rfl
@[simp] theorem Dev.modEng_health (d : Dev) (k : Nat) (f : Eng → Eng) : (d.modEng k f).health = d.health := rfl
@[simp] theorem Dev.modEng_mbox (d : Dev) (k : Nat) (f : Eng → Eng) : (d.modEng k f).mbox = d.mbox := rfl
@[simp] theorem Dev.modEng_irqs (d : Dev) (k : Nat) (f : Eng → Eng) : (d.modEng k f).irqs = d.irqs := rfl
@[simp] theorem Dev.modEng_pcieWidth (d : Dev) (k : Nat) (f : Eng → Eng) : (d.modEng k f).pcieWidth = d.pcieWidth := rfl
@[simp] theorem Dev.modEng_pcieGen (d : Dev) (k : Nat) (f : Eng → Eng) : (d.modEng k f).pcieGen = d.pcieGen := rfl
@[simp] theorem Dev.modEng_inbound (d : Dev) (k : Nat) (f : Eng → Eng) : (d.modEng k f).inbound = d.inbound := rfl
@[simp] theorem Dev.modEng_t1Gib (d : Dev) (k : Nat) (f : Eng → Eng) : (d.modEng k f).t1Gib = d.t1Gib := rfl
@[simp] theorem Dev.modEng_t2Gib (d : Dev) (k : Nat) (f : Eng → Eng) : (d.modEng k f).t2Gib = d.t2Gib := rfl
@[simp] theorem Dev.modEng_slices (d : Dev) (k : Nat) (f : Eng → Eng) : (d.modEng k f).slices = d.slices := rfl
@[simp] theorem Dev.modEng_time (d : Dev) (k : Nat) (f : Eng → Eng) : (d.modEng k f).time = d.time := rfl
@[simp] theorem Dev.modEng_power (d : Dev) (k : Nat) (f : Eng → Eng) : (d.modEng k f).power = d.power := rfl
@[simp] theorem Dev.modEng_reads (d : Dev) (k : Nat) (f : Eng → Eng) : (d.modEng k f).reads = d.reads := rfl
@[simp] theorem Dev.modEng_agenda (d : Dev) (k : Nat) (f : Eng → Eng) : (d.modEng k f).agenda = d.agenda := rfl
@[simp] theorem Dev.modEng_phase (d : Dev) (k : Nat) (f : Eng → Eng) : (d.modEng k f).phase = d.phase := rfl
@[simp] theorem Dev.modEng_sel (d : Dev) (k : Nat) (f : Eng → Eng) : (d.modEng k f).sel = d.sel := rfl
@[simp] theorem Dev.modEng_nextGid (d : Dev) (k : Nat) (f : Eng → Eng) : (d.modEng k f).nextGid = d.nextGid := rfl
@[simp] theorem Dev.modEng_nextTid (d : Dev) (k : Nat) (f : Eng → Eng) : (d.modEng k f).nextTid = d.nextTid := rfl
@[simp] theorem Dev.modEng_nextLno (d : Dev) (k : Nat) (f : Eng → Eng) : (d.modEng k f).nextLno = d.nextLno := rfl
@[simp] theorem Dev.modEng_nextOp (d : Dev) (k : Nat) (f : Eng → Eng) : (d.modEng k f).nextOp = d.nextOp := rfl
@[simp] theorem Dev.modEng_nextStamp (d : Dev) (k : Nat) (f : Eng → Eng) : (d.modEng k f).nextStamp = d.nextStamp := rfl
@[simp] theorem Dev.modEng_freeCtr (d : Dev) (k : Nat) (f : Eng → Eng) : (d.modEng k f).freeCtr = d.freeCtr := rfl

/-! `Dev.dropOp` -/

@[simp] theorem Dev.dropOp_groups (d : Dev) (k : Nat) : (d.dropOp k).groups = d.groups := rfl
@[simp] theorem Dev.dropOp_teams (d : Dev) (k : Nat) : (d.dropOp k).teams = d.teams := rfl
@[simp] theorem Dev.dropOp_ops (d : Dev) (k : Nat) : (d.dropOp k).ops = d.ops.filter (fun x => x.opid != k) := rfl
@[simp] theorem Dev.dropOp_engs (d : Dev) (k : Nat) : (d.dropOp k).engs = d.engs := rfl
@[simp] theorem Dev.dropOp_cores (d : Dev) (k : Nat) : (d.dropOp k).cores = d.cores := rfl
@[simp] theorem Dev.dropOp_clusters (d : Dev) (k : Nat) : (d.dropOp k).clusters = d.clusters := rfl
@[simp] theorem Dev.dropOp_parts (d : Dev) (k : Nat) : (d.dropOp k).parts = d.parts := rfl
@[simp] theorem Dev.dropOp_nparts (d : Dev) (k : Nat) : (d.dropOp k).nparts = d.nparts := rfl
@[simp] theorem Dev.dropOp_fw (d : Dev) (k : Nat) : (d.dropOp k).fw = d.fw := rfl
@[simp] theorem Dev.dropOp_health (d : Dev) (k : Nat) : (d.dropOp k).health = d.health := rfl
@[simp] theorem Dev.dropOp_mbox (d : Dev) (k : Nat) : (d.dropOp k).mbox = d.mbox := rfl
@[simp] theorem Dev.dropOp_irqs (d : Dev) (k : Nat) : (d.dropOp k).irqs = d.irqs := rfl
@[simp] theorem Dev.dropOp_pcieWidth (d : Dev) (k : Nat) : (d.dropOp k).pcieWidth = d.pcieWidth := rfl
@[simp] theorem Dev.dropOp_pcieGen (d : Dev) (k : Nat) : (d.dropOp k).pcieGen = d.pcieGen := rfl
@[simp] theorem Dev.dropOp_inbound (d : Dev) (k : Nat) : (d.dropOp k).inbound = d.inbound := rfl
@[simp] theorem Dev.dropOp_t1Gib (d : Dev) (k : Nat) : (d.dropOp k).t1Gib = d.t1Gib := rfl
@[simp] theorem Dev.dropOp_t2Gib (d : Dev) (k : Nat) : (d.dropOp k).t2Gib = d.t2Gib := rfl
@[simp] theorem Dev.dropOp_slices (d : Dev) (k : Nat) : (d.dropOp k).slices = d.slices := rfl
@[simp] theorem Dev.dropOp_time (d : Dev) (k : Nat) : (d.dropOp k).time = d.time := rfl
@[simp] theorem Dev.dropOp_power (d : Dev) (k : Nat) : (d.dropOp k).power = d.power := rfl
@[simp] theorem Dev.dropOp_reads (d : Dev) (k : Nat) : (d.dropOp k).reads = d.reads := rfl
@[simp] theorem Dev.dropOp_agenda (d : Dev) (k : Nat) : (d.dropOp k).agenda = d.agenda := rfl
@[simp] theorem Dev.dropOp_phase (d : Dev) (k : Nat) : (d.dropOp k).phase = d.phase := rfl
@[simp] theorem Dev.dropOp_sel (d : Dev) (k : Nat) : (d.dropOp k).sel = d.sel := rfl
@[simp] theorem Dev.dropOp_nextGid (d : Dev) (k : Nat) : (d.dropOp k).nextGid = d.nextGid := rfl
@[simp] theorem Dev.dropOp_nextTid (d : Dev) (k : Nat) : (d.dropOp k).nextTid = d.nextTid := rfl
@[simp] theorem Dev.dropOp_nextLno (d : Dev) (k : Nat) : (d.dropOp k).nextLno = d.nextLno := rfl
@[simp] theorem Dev.dropOp_nextOp (d : Dev) (k : Nat) : (d.dropOp k).nextOp = d.nextOp := rfl
@[simp] theorem Dev.dropOp_nextStamp (d : Dev) (k : Nat) : (d.dropOp k).nextStamp = d.nextStamp := rfl
@[simp] theorem Dev.dropOp_freeCtr (d : Dev) (k : Nat) : (d.dropOp k).freeCtr = d.freeCtr := rfl

/-! `Dev.dropEng` -/

@[simp] theorem Dev.dropEng_groups (d : Dev) (k : Nat) : (d.dropEng k).groups = d.groups := rfl
@[simp] theorem Dev.dropEng_teams (d : Dev) (k : Nat) : (d.dropEng k).teams = d.teams := rfl
@[simp] theorem Dev.dropEng_ops (d : Dev) (k : Nat) : (d.dropEng k).ops = d.ops := rfl
@[simp] theorem Dev.dropEng_engs (d : Dev) (k : Nat) : (d.dropEng k).engs = d.engs.filter (fun x => x.eid != k) := rfl
@[simp] theorem Dev.dropEng_cores (d : Dev) (k : Nat) : (d.dropEng k).cores = d.cores := rfl
@[simp] theorem Dev.dropEng_clusters (d : Dev) (k : Nat) : (d.dropEng k).clusters = d.clusters := rfl
@[simp] theorem Dev.dropEng_parts (d : Dev) (k : Nat) : (d.dropEng k).parts = d.parts := rfl
@[simp] theorem Dev.dropEng_nparts (d : Dev) (k : Nat) : (d.dropEng k).nparts = d.nparts := rfl
@[simp] theorem Dev.dropEng_fw (d : Dev) (k : Nat) : (d.dropEng k).fw = d.fw := rfl
@[simp] theorem Dev.dropEng_health (d : Dev) (k : Nat) : (d.dropEng k).health = d.health := rfl
@[simp] theorem Dev.dropEng_mbox (d : Dev) (k : Nat) : (d.dropEng k).mbox = d.mbox := rfl
@[simp] theorem Dev.dropEng_irqs (d : Dev) (k : Nat) : (d.dropEng k).irqs = d.irqs := rfl
@[simp] theorem Dev.dropEng_pcieWidth (d : Dev) (k : Nat) : (d.dropEng k).pcieWidth = d.pcieWidth := rfl
@[simp] theorem Dev.dropEng_pcieGen (d : Dev) (k : Nat) : (d.dropEng k).pcieGen = d.pcieGen := rfl
@[simp] theorem Dev.dropEng_inbound (d : Dev) (k : Nat) : (d.dropEng k).inbound = d.inbound := rfl
@[simp] theorem Dev.dropEng_t1Gib (d : Dev) (k : Nat) : (d.dropEng k).t1Gib = d.t1Gib := rfl
@[simp] theorem Dev.dropEng_t2Gib (d : Dev) (k : Nat) : (d.dropEng k).t2Gib = d.t2Gib := rfl
@[simp] theorem Dev.dropEng_slices (d : Dev) (k : Nat) : (d.dropEng k).slices = d.slices := rfl
@[simp] theorem Dev.dropEng_time (d : Dev) (k : Nat) : (d.dropEng k).time = d.time := rfl
@[simp] theorem Dev.dropEng_power (d : Dev) (k : Nat) : (d.dropEng k).power = d.power := rfl
@[simp] theorem Dev.dropEng_reads (d : Dev) (k : Nat) : (d.dropEng k).reads = d.reads := rfl
@[simp] theorem Dev.dropEng_agenda (d : Dev) (k : Nat) : (d.dropEng k).agenda = d.agenda := rfl
@[simp] theorem Dev.dropEng_phase (d : Dev) (k : Nat) : (d.dropEng k).phase = d.phase := rfl
@[simp] theorem Dev.dropEng_sel (d : Dev) (k : Nat) : (d.dropEng k).sel = d.sel := rfl
@[simp] theorem Dev.dropEng_nextGid (d : Dev) (k : Nat) : (d.dropEng k).nextGid = d.nextGid := rfl
@[simp] theorem Dev.dropEng_nextTid (d : Dev) (k : Nat) : (d.dropEng k).nextTid = d.nextTid := rfl
@[simp] theorem Dev.dropEng_nextLno (d : Dev) (k : Nat) : (d.dropEng k).nextLno = d.nextLno := rfl
@[simp] theorem Dev.dropEng_nextOp (d : Dev) (k : Nat) : (d.dropEng k).nextOp = d.nextOp := rfl
@[simp] theorem Dev.dropEng_nextStamp (d : Dev) (k : Nat) : (d.dropEng k).nextStamp = d.nextStamp := rfl
@[simp] theorem Dev.dropEng_freeCtr (d : Dev) (k : Nat) : (d.dropEng k).freeCtr = d.freeCtr := rfl

/-! `Dev.modPart` -/

@[simp] theorem Dev.modPart_groups (d : Dev) (k : Nat) (f : Part → Part) : (d.modPart k f).groups = d.groups := rfl
@[simp] theorem Dev.modPart_teams (d : Dev) (k : Nat) (f : Part → Part) : (d.modPart k f).teams = d.teams := rfl
@[simp] theorem Dev.modPart_ops (d : Dev) (k : Nat) (f : Part → Part) : (d.modPart k f).ops = d.ops := rfl
@[simp] theorem Dev.modPart_engs (d : Dev) (k : Nat) (f : Part → Part) : (d.modPart k f).engs = d.engs := rfl
@[simp] theorem Dev.modPart_cores (d : Dev) (k : Nat) (f : Part → Part) : (d.modPart k f).cores = d.cores := rfl
@[simp] theorem Dev.modPart_clusters (d : Dev) (k : Nat) (f : Part → Part) : (d.modPart k f).clusters = d.clusters := rfl
@[simp] theorem Dev.modPart_parts (d : Dev) (k : Nat) (f : Part → Part) : (d.modPart k f).parts = modAt d.parts k f := rfl
@[simp] theorem Dev.modPart_nparts (d : Dev) (k : Nat) (f : Part → Part) : (d.modPart k f).nparts = d.nparts := rfl
@[simp] theorem Dev.modPart_fw (d : Dev) (k : Nat) (f : Part → Part) : (d.modPart k f).fw = d.fw := rfl
@[simp] theorem Dev.modPart_health (d : Dev) (k : Nat) (f : Part → Part) : (d.modPart k f).health = d.health := rfl
@[simp] theorem Dev.modPart_mbox (d : Dev) (k : Nat) (f : Part → Part) : (d.modPart k f).mbox = d.mbox := rfl
@[simp] theorem Dev.modPart_irqs (d : Dev) (k : Nat) (f : Part → Part) : (d.modPart k f).irqs = d.irqs := rfl
@[simp] theorem Dev.modPart_pcieWidth (d : Dev) (k : Nat) (f : Part → Part) : (d.modPart k f).pcieWidth = d.pcieWidth := rfl
@[simp] theorem Dev.modPart_pcieGen (d : Dev) (k : Nat) (f : Part → Part) : (d.modPart k f).pcieGen = d.pcieGen := rfl
@[simp] theorem Dev.modPart_inbound (d : Dev) (k : Nat) (f : Part → Part) : (d.modPart k f).inbound = d.inbound := rfl
@[simp] theorem Dev.modPart_t1Gib (d : Dev) (k : Nat) (f : Part → Part) : (d.modPart k f).t1Gib = d.t1Gib := rfl
@[simp] theorem Dev.modPart_t2Gib (d : Dev) (k : Nat) (f : Part → Part) : (d.modPart k f).t2Gib = d.t2Gib := rfl
@[simp] theorem Dev.modPart_slices (d : Dev) (k : Nat) (f : Part → Part) : (d.modPart k f).slices = d.slices := rfl
@[simp] theorem Dev.modPart_time (d : Dev) (k : Nat) (f : Part → Part) : (d.modPart k f).time = d.time := rfl
@[simp] theorem Dev.modPart_power (d : Dev) (k : Nat) (f : Part → Part) : (d.modPart k f).power = d.power := rfl
@[simp] theorem Dev.modPart_reads (d : Dev) (k : Nat) (f : Part → Part) : (d.modPart k f).reads = d.reads := rfl
@[simp] theorem Dev.modPart_agenda (d : Dev) (k : Nat) (f : Part → Part) : (d.modPart k f).agenda = d.agenda := rfl
@[simp] theorem Dev.modPart_phase (d : Dev) (k : Nat) (f : Part → Part) : (d.modPart k f).phase = d.phase := rfl
@[simp] theorem Dev.modPart_sel (d : Dev) (k : Nat) (f : Part → Part) : (d.modPart k f).sel = d.sel := rfl
@[simp] theorem Dev.modPart_nextGid (d : Dev) (k : Nat) (f : Part → Part) : (d.modPart k f).nextGid = d.nextGid := rfl
@[simp] theorem Dev.modPart_nextTid (d : Dev) (k : Nat) (f : Part → Part) : (d.modPart k f).nextTid = d.nextTid := rfl
@[simp] theorem Dev.modPart_nextLno (d : Dev) (k : Nat) (f : Part → Part) : (d.modPart k f).nextLno = d.nextLno := rfl
@[simp] theorem Dev.modPart_nextOp (d : Dev) (k : Nat) (f : Part → Part) : (d.modPart k f).nextOp = d.nextOp := rfl
@[simp] theorem Dev.modPart_nextStamp (d : Dev) (k : Nat) (f : Part → Part) : (d.modPart k f).nextStamp = d.nextStamp := rfl
@[simp] theorem Dev.modPart_freeCtr (d : Dev) (k : Nat) (f : Part → Part) : (d.modPart k f).freeCtr = d.freeCtr := rfl

/-! `Dev.modCore` -/

@[simp] theorem Dev.modCore_groups (d : Dev) (k : Nat) (f : Core → Core) : (d.modCore k f).groups = d.groups := rfl
@[simp] theorem Dev.modCore_teams (d : Dev) (k : Nat) (f : Core → Core) : (d.modCore k f).teams = d.teams := rfl
@[simp] theorem Dev.modCore_ops (d : Dev) (k : Nat) (f : Core → Core) : (d.modCore k f).ops = d.ops := rfl
@[simp] theorem Dev.modCore_engs (d : Dev) (k : Nat) (f : Core → Core) : (d.modCore k f).engs = d.engs := rfl
@[simp] theorem Dev.modCore_cores (d : Dev) (k : Nat) (f : Core → Core) : (d.modCore k f).cores = modAt d.cores k f := rfl
@[simp] theorem Dev.modCore_clusters (d : Dev) (k : Nat) (f : Core → Core) : (d.modCore k f).clusters = d.clusters := rfl
@[simp] theorem Dev.modCore_parts (d : Dev) (k : Nat) (f : Core → Core) : (d.modCore k f).parts = d.parts := rfl
@[simp] theorem Dev.modCore_nparts (d : Dev) (k : Nat) (f : Core → Core) : (d.modCore k f).nparts = d.nparts := rfl
@[simp] theorem Dev.modCore_fw (d : Dev) (k : Nat) (f : Core → Core) : (d.modCore k f).fw = d.fw := rfl
@[simp] theorem Dev.modCore_health (d : Dev) (k : Nat) (f : Core → Core) : (d.modCore k f).health = d.health := rfl
@[simp] theorem Dev.modCore_mbox (d : Dev) (k : Nat) (f : Core → Core) : (d.modCore k f).mbox = d.mbox := rfl
@[simp] theorem Dev.modCore_irqs (d : Dev) (k : Nat) (f : Core → Core) : (d.modCore k f).irqs = d.irqs := rfl
@[simp] theorem Dev.modCore_pcieWidth (d : Dev) (k : Nat) (f : Core → Core) : (d.modCore k f).pcieWidth = d.pcieWidth := rfl
@[simp] theorem Dev.modCore_pcieGen (d : Dev) (k : Nat) (f : Core → Core) : (d.modCore k f).pcieGen = d.pcieGen := rfl
@[simp] theorem Dev.modCore_inbound (d : Dev) (k : Nat) (f : Core → Core) : (d.modCore k f).inbound = d.inbound := rfl
@[simp] theorem Dev.modCore_t1Gib (d : Dev) (k : Nat) (f : Core → Core) : (d.modCore k f).t1Gib = d.t1Gib := rfl
@[simp] theorem Dev.modCore_t2Gib (d : Dev) (k : Nat) (f : Core → Core) : (d.modCore k f).t2Gib = d.t2Gib := rfl
@[simp] theorem Dev.modCore_slices (d : Dev) (k : Nat) (f : Core → Core) : (d.modCore k f).slices = d.slices := rfl
@[simp] theorem Dev.modCore_time (d : Dev) (k : Nat) (f : Core → Core) : (d.modCore k f).time = d.time := rfl
@[simp] theorem Dev.modCore_power (d : Dev) (k : Nat) (f : Core → Core) : (d.modCore k f).power = d.power := rfl
@[simp] theorem Dev.modCore_reads (d : Dev) (k : Nat) (f : Core → Core) : (d.modCore k f).reads = d.reads := rfl
@[simp] theorem Dev.modCore_agenda (d : Dev) (k : Nat) (f : Core → Core) : (d.modCore k f).agenda = d.agenda := rfl
@[simp] theorem Dev.modCore_phase (d : Dev) (k : Nat) (f : Core → Core) : (d.modCore k f).phase = d.phase := rfl
@[simp] theorem Dev.modCore_sel (d : Dev) (k : Nat) (f : Core → Core) : (d.modCore k f).sel = d.sel := rfl
@[simp] theorem Dev.modCore_nextGid (d : Dev) (k : Nat) (f : Core → Core) : (d.modCore k f).nextGid = d.nextGid := rfl
@[simp] theorem Dev.modCore_nextTid (d : Dev) (k : Nat) (f : Core → Core) : (d.modCore k f).nextTid = d.nextTid := rfl
@[simp] theorem Dev.modCore_nextLno (d : Dev) (k : Nat) (f : Core → Core) : (d.modCore k f).nextLno = d.nextLno := rfl
@[simp] theorem Dev.modCore_nextOp (d : Dev) (k : Nat) (f : Core → Core) : (d.modCore k f).nextOp = d.nextOp := rfl
@[simp] theorem Dev.modCore_nextStamp (d : Dev) (k : Nat) (f : Core → Core) : (d.modCore k f).nextStamp = d.nextStamp := rfl
@[simp] theorem Dev.modCore_freeCtr (d : Dev) (k : Nat) (f : Core → Core) : (d.modCore k f).freeCtr = d.freeCtr := rfl

/-! `Dev.modCluster` -/

@[simp] theorem Dev.modCluster_groups (d : Dev) (k : Nat) (f : Cluster → Cluster) : (d.modCluster k f).groups = d.groups := rfl
@[simp] theorem Dev.modCluster_teams (d : Dev) (k : Nat) (f : Cluster → Cluster) : (d.modCluster k f).teams = d.teams := rfl
@[simp] theorem Dev.modCluster_ops (d : Dev) (k : Nat) (f : Cluster → Cluster) : (d.modCluster k f).ops = d.ops := rfl
@[simp] theorem Dev.modCluster_engs (d : Dev) (k : Nat) (f : Cluster → Cluster) : (d.modCluster k f).engs = d.engs := rfl
@[simp] theorem Dev.modCluster_cores (d : Dev) (k : Nat) (f : Cluster → Cluster) : (d.modCluster k f).cores = d.cores := rfl
@[simp] theorem Dev.modCluster_clusters (d : Dev) (k : Nat) (f : Cluster → Cluster) : (d.modCluster k f).clusters = modAt d.clusters k f := rfl
@[simp] theorem Dev.modCluster_parts (d : Dev) (k : Nat) (f : Cluster → Cluster) : (d.modCluster k f).parts = d.parts := rfl
@[simp] theorem Dev.modCluster_nparts (d : Dev) (k : Nat) (f : Cluster → Cluster) : (d.modCluster k f).nparts = d.nparts := rfl
@[simp] theorem Dev.modCluster_fw (d : Dev) (k : Nat) (f : Cluster → Cluster) : (d.modCluster k f).fw = d.fw := rfl
@[simp] theorem Dev.modCluster_health (d : Dev) (k : Nat) (f : Cluster → Cluster) : (d.modCluster k f).health = d.health := rfl
@[simp] theorem Dev.modCluster_mbox (d : Dev) (k : Nat) (f : Cluster → Cluster) : (d.modCluster k f).mbox = d.mbox := rfl
@[simp] theorem Dev.modCluster_irqs (d : Dev) (k : Nat) (f : Cluster → Cluster) : (d.modCluster k f).irqs = d.irqs := rfl
@[simp] theorem Dev.modCluster_pcieWidth (d : Dev) (k : Nat) (f : Cluster → Cluster) : (d.modCluster k f).pcieWidth = d.pcieWidth := rfl
@[simp] theorem Dev.modCluster_pcieGen (d : Dev) (k : Nat) (f : Cluster → Cluster) : (d.modCluster k f).pcieGen = d.pcieGen := rfl
@[simp] theorem Dev.modCluster_inbound (d : Dev) (k : Nat) (f : Cluster → Cluster) : (d.modCluster k f).inbound = d.inbound := rfl
@[simp] theorem Dev.modCluster_t1Gib (d : Dev) (k : Nat) (f : Cluster → Cluster) : (d.modCluster k f).t1Gib = d.t1Gib := rfl
@[simp] theorem Dev.modCluster_t2Gib (d : Dev) (k : Nat) (f : Cluster → Cluster) : (d.modCluster k f).t2Gib = d.t2Gib := rfl
@[simp] theorem Dev.modCluster_slices (d : Dev) (k : Nat) (f : Cluster → Cluster) : (d.modCluster k f).slices = d.slices := rfl
@[simp] theorem Dev.modCluster_time (d : Dev) (k : Nat) (f : Cluster → Cluster) : (d.modCluster k f).time = d.time := rfl
@[simp] theorem Dev.modCluster_power (d : Dev) (k : Nat) (f : Cluster → Cluster) : (d.modCluster k f).power = d.power := rfl
@[simp] theorem Dev.modCluster_reads (d : Dev) (k : Nat) (f : Cluster → Cluster) : (d.modCluster k f).reads = d.reads := rfl
@[simp] theorem Dev.modCluster_agenda (d : Dev) (k : Nat) (f : Cluster → Cluster) : (d.modCluster k f).agenda = d.agenda := rfl
@[simp] theorem Dev.modCluster_phase (d : Dev) (k : Nat) (f : Cluster → Cluster) : (d.modCluster k f).phase = d.phase := rfl
@[simp] theorem Dev.modCluster_sel (d : Dev) (k : Nat) (f : Cluster → Cluster) : (d.modCluster k f).sel = d.sel := rfl
@[simp] theorem Dev.modCluster_nextGid (d : Dev) (k : Nat) (f : Cluster → Cluster) : (d.modCluster k f).nextGid = d.nextGid := rfl
@[simp] theorem Dev.modCluster_nextTid (d : Dev) (k : Nat) (f : Cluster → Cluster) : (d.modCluster k f).nextTid = d.nextTid := rfl
@[simp] theorem Dev.modCluster_nextLno (d : Dev) (k : Nat) (f : Cluster → Cluster) : (d.modCluster k f).nextLno = d.nextLno := rfl
@[simp] theorem Dev.modCluster_nextOp (d : Dev) (k : Nat) (f : Cluster → Cluster) : (d.modCluster k f).nextOp = d.nextOp := rfl
@[simp] theorem Dev.modCluster_nextStamp (d : Dev) (k : Nat) (f : Cluster → Cluster) : (d.modCluster k f).nextStamp = d.nextStamp := rfl
@[simp] theorem Dev.modCluster_freeCtr (d : Dev) (k : Nat) (f : Cluster → Cluster) : (d.modCluster k f).freeCtr = d.freeCtr := rfl

/-! `Part.modLaunch` -/

@[simp] theorem Part.modLaunch_desc (p : Part) (k : Nat) (f : Launch → Launch) : (p.modLaunch k f).desc = p.desc := rfl
@[simp] theorem Part.modLaunch_run (p : Part) (k : Nat) (f : Launch → Launch) : (p.modLaunch k f).run = p.run := rfl
@[simp] theorem Part.modLaunch_halt (p : Part) (k : Nat) (f : Launch → Launch) : (p.modLaunch k f).halt = p.halt := rfl
@[simp] theorem Part.modLaunch_faults (p : Part) (k : Nat) (f : Launch → Launch) : (p.modLaunch k f).faults = p.faults := rfl
@[simp] theorem Part.modLaunch_replays (p : Part) (k : Nat) (f : Launch → Launch) : (p.modLaunch k f).replays = p.replays := rfl
@[simp] theorem Part.modLaunch_nextCapture (p : Part) (k : Nat) (f : Launch → Launch) : (p.modLaunch k f).nextCapture = p.nextCapture := rfl
@[simp] theorem Part.modLaunch_seq (p : Part) (k : Nat) (f : Launch → Launch) : (p.modLaunch k f).seq = p.seq := rfl
@[simp] theorem Part.modLaunch_ringTail (p : Part) (k : Nat) (f : Launch → Launch) : (p.modLaunch k f).ringTail = p.ringTail := rfl
@[simp] theorem Part.modLaunch_parks (p : Part) (k : Nat) (f : Launch → Launch) : (p.modLaunch k f).parks = p.parks := rfl
@[simp] theorem Part.modLaunch_nextTicket (p : Part) (k : Nat) (f : Launch → Launch) : (p.modLaunch k f).nextTicket = p.nextTicket := rfl
@[simp] theorem Part.modLaunch_tasks (p : Part) (k : Nat) (f : Launch → Launch) : (p.modLaunch k f).tasks = p.tasks := rfl
@[simp] theorem Part.modLaunch_triggers (p : Part) (k : Nat) (f : Launch → Launch) : (p.modLaunch k f).triggers = p.triggers := rfl
@[simp] theorem Part.modLaunch_dropped (p : Part) (k : Nat) (f : Launch → Launch) : (p.modLaunch k f).dropped = p.dropped := rfl
@[simp] theorem Part.modLaunch_nextDraw (p : Part) (k : Nat) (f : Launch → Launch) : (p.modLaunch k f).nextDraw = p.nextDraw := rfl
@[simp] theorem Part.modLaunch_draws (p : Part) (k : Nat) (f : Launch → Launch) : (p.modLaunch k f).draws = p.draws := rfl
@[simp] theorem Part.modLaunch_queues (p : Part) (k : Nat) (f : Launch → Launch) : (p.modLaunch k f).queues = p.queues := rfl
@[simp] theorem Part.modLaunch_feeds (p : Part) (k : Nat) (f : Launch → Launch) : (p.modLaunch k f).feeds = p.feeds := rfl
@[simp] theorem Part.modLaunch_launches (p : Part) (k : Nat) (f : Launch → Launch) : (p.modLaunch k f).launches = p.launches.map (fun x => if x.lno = k then f x else x) := rfl
@[simp] theorem Part.modLaunch_evals (p : Part) (k : Nat) (f : Launch → Launch) : (p.modLaunch k f).evals = p.evals := rfl
@[simp] theorem Part.modLaunch_out (p : Part) (k : Nat) (f : Launch → Launch) : (p.modLaunch k f).out = p.out := rfl
@[simp] theorem Part.modLaunch_wres (p : Part) (k : Nat) (f : Launch → Launch) : (p.modLaunch k f).wres = p.wres := rfl
@[simp] theorem Part.modLaunch_cyc (p : Part) (k : Nat) (f : Launch → Launch) : (p.modLaunch k f).cyc = p.cyc := rfl
@[simp] theorem Part.modLaunch_paused (p : Part) (k : Nat) (f : Launch → Launch) : (p.modLaunch k f).paused = p.paused := rfl
@[simp] theorem Part.modLaunch_stackUsed (p : Part) (k : Nat) (f : Launch → Launch) : (p.modLaunch k f).stackUsed = p.stackUsed := rfl
@[simp] theorem Part.modLaunch_overflow (p : Part) (k : Nat) (f : Launch → Launch) : (p.modLaunch k f).overflow = p.overflow := rfl
@[simp] theorem Part.modLaunch_waiters (p : Part) (k : Nat) (f : Launch → Launch) : (p.modLaunch k f).waiters = p.waiters := rfl
@[simp] theorem Part.modLaunch_replaying (p : Part) (k : Nat) (f : Launch → Launch) : (p.modLaunch k f).replaying = p.replaying := rfl
@[simp] theorem Part.modLaunch_preemptAt (p : Part) (k : Nat) (f : Launch → Launch) : (p.modLaunch k f).preemptAt = p.preemptAt := rfl
@[simp] theorem Part.modLaunch_progress (p : Part) (k : Nat) (f : Launch → Launch) : (p.modLaunch k f).progress = p.progress := rfl
@[simp] theorem Part.modLaunch_trace (p : Part) (k : Nat) (f : Launch → Launch) : (p.modLaunch k f).trace = p.trace := rfl
@[simp] theorem Part.modLaunch_tracing (p : Part) (k : Nat) (f : Launch → Launch) : (p.modLaunch k f).tracing = p.tracing := rfl

/-! `Part.modDraw` -/

@[simp] theorem Part.modDraw_desc (p : Part) (k : Nat) (f : Draw → Draw) : (p.modDraw k f).desc = p.desc := rfl
@[simp] theorem Part.modDraw_run (p : Part) (k : Nat) (f : Draw → Draw) : (p.modDraw k f).run = p.run := rfl
@[simp] theorem Part.modDraw_halt (p : Part) (k : Nat) (f : Draw → Draw) : (p.modDraw k f).halt = p.halt := rfl
@[simp] theorem Part.modDraw_faults (p : Part) (k : Nat) (f : Draw → Draw) : (p.modDraw k f).faults = p.faults := rfl
@[simp] theorem Part.modDraw_replays (p : Part) (k : Nat) (f : Draw → Draw) : (p.modDraw k f).replays = p.replays := rfl
@[simp] theorem Part.modDraw_nextCapture (p : Part) (k : Nat) (f : Draw → Draw) : (p.modDraw k f).nextCapture = p.nextCapture := rfl
@[simp] theorem Part.modDraw_seq (p : Part) (k : Nat) (f : Draw → Draw) : (p.modDraw k f).seq = p.seq := rfl
@[simp] theorem Part.modDraw_ringTail (p : Part) (k : Nat) (f : Draw → Draw) : (p.modDraw k f).ringTail = p.ringTail := rfl
@[simp] theorem Part.modDraw_parks (p : Part) (k : Nat) (f : Draw → Draw) : (p.modDraw k f).parks = p.parks := rfl
@[simp] theorem Part.modDraw_nextTicket (p : Part) (k : Nat) (f : Draw → Draw) : (p.modDraw k f).nextTicket = p.nextTicket := rfl
@[simp] theorem Part.modDraw_tasks (p : Part) (k : Nat) (f : Draw → Draw) : (p.modDraw k f).tasks = p.tasks := rfl
@[simp] theorem Part.modDraw_triggers (p : Part) (k : Nat) (f : Draw → Draw) : (p.modDraw k f).triggers = p.triggers := rfl
@[simp] theorem Part.modDraw_dropped (p : Part) (k : Nat) (f : Draw → Draw) : (p.modDraw k f).dropped = p.dropped := rfl
@[simp] theorem Part.modDraw_nextDraw (p : Part) (k : Nat) (f : Draw → Draw) : (p.modDraw k f).nextDraw = p.nextDraw := rfl
@[simp] theorem Part.modDraw_draws (p : Part) (k : Nat) (f : Draw → Draw) : (p.modDraw k f).draws = p.draws.map (fun x => if x.idx = k then f x else x) := rfl
@[simp] theorem Part.modDraw_queues (p : Part) (k : Nat) (f : Draw → Draw) : (p.modDraw k f).queues = p.queues := rfl
@[simp] theorem Part.modDraw_feeds (p : Part) (k : Nat) (f : Draw → Draw) : (p.modDraw k f).feeds = p.feeds := rfl
@[simp] theorem Part.modDraw_launches (p : Part) (k : Nat) (f : Draw → Draw) : (p.modDraw k f).launches = p.launches := rfl
@[simp] theorem Part.modDraw_evals (p : Part) (k : Nat) (f : Draw → Draw) : (p.modDraw k f).evals = p.evals := rfl
@[simp] theorem Part.modDraw_out (p : Part) (k : Nat) (f : Draw → Draw) : (p.modDraw k f).out = p.out := rfl
@[simp] theorem Part.modDraw_wres (p : Part) (k : Nat) (f : Draw → Draw) : (p.modDraw k f).wres = p.wres := rfl
@[simp] theorem Part.modDraw_cyc (p : Part) (k : Nat) (f : Draw → Draw) : (p.modDraw k f).cyc = p.cyc := rfl
@[simp] theorem Part.modDraw_paused (p : Part) (k : Nat) (f : Draw → Draw) : (p.modDraw k f).paused = p.paused := rfl
@[simp] theorem Part.modDraw_stackUsed (p : Part) (k : Nat) (f : Draw → Draw) : (p.modDraw k f).stackUsed = p.stackUsed := rfl
@[simp] theorem Part.modDraw_overflow (p : Part) (k : Nat) (f : Draw → Draw) : (p.modDraw k f).overflow = p.overflow := rfl
@[simp] theorem Part.modDraw_waiters (p : Part) (k : Nat) (f : Draw → Draw) : (p.modDraw k f).waiters = p.waiters := rfl
@[simp] theorem Part.modDraw_replaying (p : Part) (k : Nat) (f : Draw → Draw) : (p.modDraw k f).replaying = p.replaying := rfl
@[simp] theorem Part.modDraw_preemptAt (p : Part) (k : Nat) (f : Draw → Draw) : (p.modDraw k f).preemptAt = p.preemptAt := rfl
@[simp] theorem Part.modDraw_progress (p : Part) (k : Nat) (f : Draw → Draw) : (p.modDraw k f).progress = p.progress := rfl
@[simp] theorem Part.modDraw_trace (p : Part) (k : Nat) (f : Draw → Draw) : (p.modDraw k f).trace = p.trace := rfl
@[simp] theorem Part.modDraw_tracing (p : Part) (k : Nat) (f : Draw → Draw) : (p.modDraw k f).tracing = p.tracing := rfl

end Sys2Proof.Machine
end

