-- ==== Sys2Proof/Laws/Ops.lean ====
section
/-!
SUPPORT. What the shared operations of an issue can do: one lemma for each way through it, and what follows from an answer.
-/
namespace Sys2Proof.Machine
open Sys2Proof

theorem State.env?_s {s : State} {e : Env} (h : s.env? = some e) : e.s = s := by
  unfold State.env? at h
  split at h
  · cases h
  · split at h
    · split at h
      · dsimp only at h
        split at h
        · cases h
        · injection h with h
          rw [← h]
      · cases h
    · cases h

theorem Ready.s {s : State} {e : Env} (h : Ready s e) : e.s = s := State.env?_s h.1

theorem withGang_ready {s : State} {e : Env} (h : Ready s e) (k : Env → Out) : withGang s k = k e := by
  simp [withGang, h.1, h.2]

/-- An issue that answers a next state had a gang that could issue. -/
theorem withGang_next {s t : State} {k : Env → Out} (h : withGang s k = .next t) : ∃ e, Ready s e ∧ k e = .next t := by
  unfold withGang at h
  split at h
  · cases h
  · rename_i e he
    split at h
    · exact ⟨e, ⟨he, by assumption⟩, h⟩
    · cases h

theorem Clean.noFault {e : Env} {cs : List (Nat × Chk)} (h : Clean cs) : e.faultAmong cs = none := by
  have : ∀ n, cs.findSome? (fun c => c.2.bad.find? (fun b => b.rank == n)) = none := fun n =>
    List.findSome?_eq_none_iff.2 (fun c hc => by simp [(h c hc).1])
  simp [Env.faultAmong, this]

theorem Clean.noWait {cs : List (Nat × Chk)} (h : Clean cs) : cs.any (fun c => c.2.wait) = false := by
  simp only [List.any_eq_false]
  intro c hc; simp [(h c hc).2]

theorem gate_clean {e : Env} {cs : List (Nat × Chk)} (h : Clean cs) (k : Unit → Out) : e.gate cs k = k () := by
  simp [Env.gate, h.noWait, h.noFault]

/-- A gate that answers a next state found nothing and went on, or took a fault. -/
theorem gate_next {e : Env} {cs : List (Nat × Chk)} {k : Unit → Out} {t : State} (h : e.gate cs k = .next t) :
    (e.faultAmong cs = none ∧ k () = .next t) ∨ (∃ code lids, e.faultAmong cs = some (code, lids) ∧ t = faultState e code lids 0) := by
  unfold Env.gate at h
  split at h
  · cases h
  · split at h
    · rename_i code lids hf
      exact .inr ⟨code, lids, hf, by simpa [Env.raise, faultState] using h.symm⟩
    · exact .inl ⟨by assumption, h⟩

theorem raise_next (e : Env) (code : FCode) (lids : List Nat) (addr : DWord) : e.raise code lids addr = .next (faultState e code lids addr) := rfl

theorem faultState_st (e : Env) (code : FCode) (lids : List Nat) (addr : DWord) : (faultState e code lids addr).st = e.s.st := rfl

/-! Addresses. -/

theorem checkPlaces_reaches {e : Env} {n : Nat} {need : Need} {rs : List Req} {ps : List (Req × Place)} {f : Req → Place → Bool} (h : Reaches e n need rs ps)
    (hf : ∀ p ∈ ps, f p.1 p.2 = false) : e.checkPlaces n need rs f = .ok ps := by
  obtain ⟨h1, h2, h3⟩ := h
  subst h2
  have hb : (ps.map (·.1)).filter (fun r => r.va % n != 0) = [] := by
    rw [List.filter_eq_nil_iff]; intro r hr; simp [h1 r hr]
  have hm : (ps.map (·.1)).map (fun r => (r, e.meets need f r)) = ps.map (fun p => (p.1, Resolved.ok p.2)) := by
    rw [List.map_map]; apply List.map_congr_left; intro p hp; simp [Env.meets, h3 p hp, hf p hp]
  have hs : ∀ x : Resolved, (∀ pl, x ≠ .ok pl) → (ps.map (fun p => (p.1, Resolved.ok p.2))).filter (fun p => p.2 == x) = [] := by
    intro x hx; rw [List.filter_eq_nil_iff]; intro p hp
    obtain ⟨q, _, rfl⟩ := List.mem_map.1 hp
    simp only [beq_iff_eq]; exact fun hq => hx _ hq.symm
  have hg : ∀ f : Req × Resolved → Option (Req × Place), (∀ r pl, f (r, .ok pl) = some (r, pl)) →
      (ps.map (fun p => (p.1, Resolved.ok p.2))).filterMap f = ps := by
    intro f hf; rw [List.filterMap_map]
    have : f ∘ (fun p : Req × Place => (p.1, Resolved.ok p.2)) = some := by funext p; simp [Function.comp, hf]
    rw [this]; exact List.filterMap_some
  simp only [Env.checkPlaces, hb, hm, hs .fatal (by intros; simp), hs .absent (by intros; simp), hs .perm (by intros; simp)]
  rw [hg _ (fun _ _ => rfl)]
  simp

theorem checkAddrs_reached {e : Env} {n : Nat} {need : Need} {a b : Bool} {rs : List Req} {ps : List (Req × Place)}
    {f : Req → Place → Bool} (h : Reached e n need a b rs ps) (hf : ∀ p ∈ ps, f p.1 p.2 = false) :
    e.checkAddrs n n need a b rs f = .ok ps := by
  have hl : ps.filter (fun p => (b || decide (p.1.va < windowBase)) && e.s.dev.locked e.g.core a (lockAt p.1.va p.2, n)) = [] := by
    rw [List.filter_eq_nil_iff]; intro p hp
    have := h.2 p hp
    simp only [Bool.and_eq_true, Bool.or_eq_true, decide_eq_true_eq, not_and]
    intro hw; simp [this hw]
  simp only [Env.checkAddrs, checkPlaces_reaches h.1 hf, hl]
  simp

theorem cellGate_ready {e : Env} {n : Nat} {ps : List (Req × Place)} (h : CellsReady e n ps) (k : Unit → Out) :
    e.cellGate (cellsOf n ps) k = k () := by
  have : (e.holdOp .load 16 [] (cellsOf n ps)).accs.filterMap
      (fun x => (e.s.cellBar (e.holdOp .load 16 [] (cellsOf n ps)) x).map (fun t => (x, t))) = [] := by
    rw [List.filterMap_eq_nil_iff]; intro x hx; simp [h.2 x hx]
  simp only [Env.cellGate, this]
  simp

theorem readGate_ready {e : Env} {n : Nat} {ps : List (Req × Place)} (h : CellsReady e n ps) (k : Unit → Out) :
    e.readGate n ps k = k () := by
  have hd : ps.filter (fun p => e.s.dead e.g.core p.2) = [] := by
    rw [List.filter_eq_nil_iff]; intro p hp; simp [h.1 p hp]
  simp only [Env.readGate, hd, cellGate_ready h]

/-! Issues, once each. -/

theorem valueIssue_ready {s : State} {e : Env} {u : Bool} {d : Opnd} {sh : Env → Nat × Bool} {val : Env → Lane → Rd Res} (h : Ready s e)
    (hc : Clean (valueChks e u d (sh e) val)) : valueIssue s u d sh val = .next (valueNext e u d (sh e) val) := by
  simp [valueIssue, withGang_ready h, gate_clean hc]

theorem predIssue_ready {s : State} {e : Env} {u : Bool} {p : BitVec 6} {c : BitVec 2} {val : Env → Lane → Rd Bool} (h : Ready s e)
    (hc : Clean (e.readChks u (predRead p val e))) : predIssue s u p c val = .next (predNext e u p c val) := by
  simp [predIssue, withGang_ready h, gate_clean hc]

theorem groupWrite_ready {s : State} {e : Env} {u : Bool} {rd : Env → Lane → Rd (Option (Group → Group))} (h : Ready s e)
    (hc : Clean (groupChks e u rd)) : groupWrite s u rd = .next (groupNext e u rd) := by
  simp [groupWrite, withGang_ready h, gate_clean hc]

theorem lanesIssue_ready {s : State} {e : Env} {u : Bool} {rd : Env → Lane → Rd (Lane → Lane)} (h : Ready s e)
    (hc : Clean (e.readChks u (rd e))) : lanesIssue s u rd = .next (lanesNext e u rd) := by
  simp [lanesIssue, withGang_ready h, gate_clean hc]

theorem laneIssue_ready {α : Type} {s : State} {e : Env} {d : Opnd} {sh : Env → Nat × Bool} {rd : Env → Lane → Rd α}
    {res : Env → List (Lane × α) → Lane × α → Res} (h : Ready s e) (hc : Clean (laneChks e d (sh e) rd)) :
    laneIssue s d sh rd res = .next (laneNext e d (sh e) rd res) := by
  simp [laneIssue, withGang_ready h, gate_clean hc]

theorem longIssue_ready {s : State} {e : Env} {u : Bool} {d : Opnd} {k : MemOp} {ps : List (Req × Place)} (h : Ready s e)
    (hc : Clean (longChks e u d k)) (hf : (k.spec e).takeFlag = true → e.g.flagFull e.flag = false)
    (hr : Reached e (k.spec e).size k.need k.srcToo true (longReqs e u d k) ps) (hp : ∀ p ∈ ps, k.refuse e p.1 p.2 = false)
    (hs : spillStops e k ps = []) (ho : e.orderStops (k.spec e).size ps = false) :
    longIssue s u d k = .next (longNext e u d k ps) := by
  simpa [longIssue, withGang_ready h, gate_clean hc, checkAddrs_reached hr hp, hs, ho] using hf

theorem storeIssue_ready {s : State} {e : Env} {u : Bool} {k : StoreOp} {next : Env → List (Req × Place) → State}
    {ps : List (Req × Place)} (h : Ready s e) (hc : Clean (e.readChks u (k.read e)))
    (hr : Reached e (k.size e) .write true true (storeReqs e u k) ps) (ho : e.orderStops (k.size e) ps = false) :
    storeIssue s u k next = .next (next e ps) := by
  simp [storeIssue, withGang_ready h, gate_clean hc, checkAddrs_reached (f := fun _ _ => false) hr (fun _ _ => rfl), ho]

/-! What an issue leaves of a group. -/

theorem mergeGangs_kept (ls : List Lane) : (mergeGangs ls).map Lane.kept = ls.map Lane.kept := by
  unfold mergeGangs
  split
  · rfl
  · rw [List.map_map]; apply List.map_congr_left; intro l _
    simp only [Function.comp]
    split <;> rfl

theorem Group.issued_kept (g : Group) (lids : List Nat) (f : Lane → Lane) :
    (g.issued lids f).lanes.map Lane.kept = g.lanes.map (fun l => (if lids.contains l.lid then f l.selected else l).kept) := by
  simp [Group.issued, mergeGangs_kept, List.map_map, Function.comp]

/-! What the operations on caches, soft errors and spilled accumulators leave alone: they act on the stores, never on the device. -/

@[simp] theorem State.correctAt_dev (s : State) (xs : List ErrSite) : (s.correctAt xs).dev = s.dev := by
  unfold State.correctAt; split <;> rfl

@[simp] theorem State.correct_dev (s : State) (core : Nat) (pl : Place) : (s.correct core pl).dev = s.dev := s.correctAt_dev _

@[simp] theorem State.correctHome_dev (s : State) (k : Nat) : (s.correctHome k).dev = s.dev := by
  unfold State.correctHome; split <;> rfl

@[simp] theorem State.useExact_dev (s : State) (q : Nat) (pl : Place) (n : Nat) : (s.useExact q pl n).dev = s.dev := by
  unfold State.useExact
  split
  · rfl
  · dsimp only; split <;> rfl

/-- Only a `keep` access counts on the device (R289); every other one acts on the caches alone. -/
theorem State.noteHome_dev {s : State} {core chint : Nat} {pl : Place} (h : chint ≠ 2) : (s.noteHome core pl chint).dev = s.dev := by
  unfold State.noteHome
  split
  · rfl
  · split
    · rfl
    · rfl

theorem State.unitReach_dev (s : State) (a : Agent) (k : Nat) (sc df : Bool) : (s.unitReach a k sc df).dev = s.dev := by
  unfold State.unitReach; split
  · rfl
  · exact State.noteHome_dev (by decide)

end Sys2Proof.Machine
end

