-- ==== Sys2Proof/Laws/Issue.lean ====
section
/-!
SUPPORT. What an issue leaves of the groups: their lanes' numbers, predicates and register counts through the reads of handles,
and where the results of an instruction that writes registers stand after it.
-/
namespace Sys2Proof.Machine
open Sys2Proof

/-- What the reads of handles and the starts of engine operations never change of a lane. -/
def Lane.form (l : Lane) : Nat × BitVec 48 × Nat := (l.lid, l.p, l.v.length)

/-- The same of a group, with its number and its count of s registers. -/
def Group.form (g : Group) : Nat × List (Nat × BitVec 48 × Nat) × Nat := (g.gid, g.lanes.map Lane.form, g.sregs.length)

/-- Two devices whose groups have the same form. -/
def Dev.Alike (d d' : Dev) : Prop := d'.groups.map Group.form = d.groups.map Group.form

theorem Dev.Alike.refl (d : Dev) : d.Alike d := rfl
theorem Dev.Alike.trans {a b c : Dev} (h : a.Alike b) (k : b.Alike c) : a.Alike c := Eq.trans k h

theorem Dev.alike_modGroup (d : Dev) (gid : Nat) {f : Group → Group} (h : ∀ g, (f g).form = g.form) : d.Alike (d.modGroup gid f) := by
  simp only [Dev.Alike, Dev.modGroup_groups, List.map_map]
  apply List.map_congr_left; intro g _
  simp only [Function.comp]; split
  · exact h g
  · rfl

theorem Dev.Alike.group {d d' : Dev} (h : d.Alike d') {gid : Nat} {g : Group} (hg : d.group? gid = some g) :
    ∃ g', d'.group? gid = some g' ∧ g'.form = g.form := by
  simp only [Dev.Alike, Dev.group?] at *
  generalize d.groups = a at *; generalize d'.groups = b at *
  induction a generalizing b with
  | nil => simp at hg
  | cons x xs ih =>
    cases b with
    | nil => simp at h
    | cons y ys =>
      simp only [List.map_cons, List.cons.injEq] at h
      have hx : y.gid = x.gid := congrArg (·.1) h.1
      simp only [List.find?_cons] at hg ⊢
      rw [hx]
      split at hg
      · cases hg; exact ⟨y, rfl, h.1⟩
      · exact ih hg ys h.2

theorem mergeGangs_form (ls : List Lane) : (mergeGangs ls).map Lane.form = ls.map Lane.form := by
  unfold mergeGangs
  split
  · rfl
  · rw [List.map_map]; apply List.map_congr_left; intro l _
    simp only [Function.comp]
    split <;> rfl

theorem modAt_length {α : Type} (l : List α) (i : Nat) (f : α → α) : (modAt l i f).length = l.length := by
  unfold modAt; split <;> simp

theorem lanesMap_form {ls : List Lane} {f : Lane → Lane} (h : ∀ l, (f l).form = l.form) : (ls.map f).map Lane.form = ls.map Lane.form := by
  rw [List.map_map]; exact List.map_congr_left (fun l _ => h l)

theorem Lane.resolve_form (t : Team) (l : Lane) (x : Dst) : (l.resolve t x).form = l.form := by
  cases x <;> simp [Lane.resolve, Lane.form, modAt_length]

theorem Lane.step_form (c : Clause) (l : Lane) : (l.step c).form = l.form := by
  simp only [Lane.step]; split <;> rfl

theorem Group.endHold_form (g : Group) (lead : Nat) : (g.endHold lead id).form = g.form := by
  simp only [Group.form, Group.endHold, mergeGangs_form]
  congr 2
  apply lanesMap_form; intro l
  split
  · cases hc : l.clause with
    | some c => simp only [id, hc]; exact Lane.step_form c _
    | none => simp only [id, hc]; rfl
  · rfl

theorem Dev.startEng_alike {d d' : Dev} {g : Group} {sc : Nat} {fm : List Word} {r : EngReq} (h : d.startEng g sc fm r = some d') :
    d.Alike d' := by
  unfold Dev.startEng at h
  split at h
  · cases h
  · split at h
    · cases h
    · dsimp only at h
      split at h
      · cases h
      · cases h
        refine Dev.Alike.trans (b := d.modGroup g.gid _) (Dev.alike_modGroup _ _ ?_) rfl
        intro k
        simp only [Group.form]
        rw [lanesMap_form (fun l => by split <;> simp [Lane.form])]
        split <;> simp

theorem Dev.startEngs_alike (g : Group) (sc : Nat) (fm : List Word) : ∀ (rs : List EngReq) (d : Dev), d.Alike (d.startEngs g sc fm rs).1
  | [], d => Dev.Alike.refl d
  | r :: rs, d => by
    unfold Dev.startEngs; split
    · rename_i h; exact (Dev.startEng_alike h).trans (Dev.startEngs_alike g sc fm rs _)
    · exact Dev.Alike.refl d

theorem foldl_alike {α : Type} {f : Dev → α → Dev} (h : ∀ (d : Dev) (x : α), d.Alike (f d x)) : ∀ (xs : List α) (d : Dev), d.Alike (xs.foldl f d)
  | [], d => Dev.Alike.refl d
  | x :: xs, d => (h d x).trans (foldl_alike h xs (f d x))

/-- The start of held engine operations keeps every group's form. -/
theorem Dev.pumpEngs_alike (d : Dev) : d.Alike d.pumpEngs := by
  apply foldl_alike; intro d g0
  apply foldl_alike; intro d l
  split
  · refine (Dev.startEngs_alike _ _ _ _ d).trans (Dev.alike_modGroup _ _ ?_)
    intro g; split
    · exact Group.endHold_form g _
    · simp only [Group.form]
      congr 2
      apply lanesMap_form; intro k
      split <;> rfl
  · exact Dev.Alike.refl d

theorem foldl_form {α : Type} {f : Lane → α → Lane} (h : ∀ l x, (f l x).form = l.form) : ∀ (xs : List α) (l : Lane), (xs.foldl f l).form = l.form
  | [], _ => rfl
  | x :: xs, l => (foldl_form h xs (f l x)).trans (h l x)

/-- The reads of an issue change no memory. -/
@[simp] theorem Env.settleReads_st (e : Env) (cs : List (Nat × Chk)) (s : State) : (e.settleReads cs s).st = s.st := by
  unfold Env.settleReads; dsimp only; split <;> rfl

/-- The reads of an issue keep every group's form. -/
theorem Env.settleReads_alike (e : Env) (cs : List (Nat × Chk)) (s : State) : s.dev.Alike (e.settleReads cs s).dev := by
  unfold Env.settleReads; dsimp only; split
  · exact Dev.Alike.refl _
  · refine Dev.Alike.trans ?_ (Dev.pumpEngs_alike _)
    refine Dev.Alike.trans (b := s.dev.modGroup e.g.gid _) (Dev.alike_modGroup s.dev e.g.gid ?_) (show _ = _ from rfl)
    intro g
    simp only [Group.form]
    rw [lanesMap_form (fun l => foldl_form (f := fun (l : Lane) (x : Nat × Dst) => l.resolve e.t x.2) (fun l x => Lane.resolve_form e.t l x.2) _ l)]
    congr 2
    generalize cs.flatMap (fun c => c.2.touch.map (fun d => (c.1, d))) = ts
    have : ∀ (ts : List (Nat × Dst)) (ss : List Reg), (ts.foldl (fun ss x => match x.2 with
        | .s n => modAt ss n (resolveAt e.t) | _ => ss) ss).length = ss.length := by
      intro ts; induction ts with
      | nil => intro ss; rfl
      | cons x xs ih => intro ss; rw [List.foldl_cons, ih]; split <;> simp [modAt_length]
    exact this ts g.sregs

/-- Registers that hold no handle that a read resolves leave the state as it is. -/
theorem Env.settleReads_none {e : Env} {cs : List (Nat × Chk)} (h : NoHandles cs) (s : State) : e.settleReads cs s = s := by
  have : cs.flatMap (fun c => c.2.touch.map (fun d => (c.1, d))) = [] := by
    rw [List.flatMap_eq_nil_iff]; intro c hc; simp [h c hc]
  simp [Env.settleReads, this]

/-! Register writes. -/

theorem setFrom_length {α : Type} : ∀ (rs : List α) (l : List α) (n : Nat), (setFrom l n rs).length = l.length
  | [], _, _ => rfl
  | _ :: xs, l, n => by rw [setFrom, setFrom_length xs]; simp

/-- A register outside the run keeps its value. -/
theorem setFrom_other {α : Type} : ∀ (rs : List α) (l : List α) (n i : Nat), i < n ∨ n + rs.length ≤ i → (setFrom l n rs)[i]? = l[i]?
  | [], _, _, _, _ => rfl
  | x :: xs, l, n, i, h => by
    rw [setFrom, setFrom_other xs (l.set n x) (n + 1) i (by simp only [List.length_cons] at h; omega),
      List.getElem?_set_ne (by simp only [List.length_cons] at h; omega)]

/-- A register of the run holds its value of the result. -/
theorem setFrom_at {α : Type} : ∀ (rs : List α) (l : List α) (n j : Nat) (r : α), rs[j]? = some r → n + j < l.length →
    (setFrom l n rs)[n + j]? = some r
  | [], _, _, _, _, h, _ => by simp at h
  | x :: xs, l, n, 0, r, h, hl => by
    simp only [List.getElem?_cons_zero, Option.some.injEq] at h; subst h
    rw [setFrom, setFrom_other xs _ (n + 1) _ (by omega), Nat.add_zero, List.getElem?_set_self (by omega)]
  | x :: xs, l, n, j + 1, r, h, hl => by
    rw [setFrom, show n + (j + 1) = n + 1 + j by omega]
    exact setFrom_at xs (l.set n x) (n + 1) j r (by simpa using h) (by simp; omega)

theorem Dev.group_modGroup {d : Dev} {gid : Nat} {g : Group} {f : Group → Group} (h : d.group? gid = some g) (hf : ∀ g, (f g).gid = g.gid) :
    (d.modGroup gid f).group? gid = some (f g) := by
  simp only [Dev.group?, Dev.modGroup_groups] at *
  generalize d.groups = a at *
  induction a with
  | nil => simp at h
  | cons x xs ih =>
    simp only [List.find?_cons, List.map_cons] at h ⊢
    by_cases hx : x.gid = gid
    · simp only [hx, beq_self_eq_true, Option.some.injEq] at h; subst h
      simp [hx, hf]
    · have hb : (x.gid == gid) = false := by simp [hx]
      simp only [hb] at h
      simp only [if_neg hx, hb]
      exact ih h

/-! The state after an issue. -/

theorem State.env?_group {s : State} {e : Env} (h : s.env? = some e) : s.dev.group? e.g.gid = some e.g := by
  unfold State.env? at h
  split at h
  · cases h
  · split at h
    · rename_i hg
      split at h
      · dsimp only at h
        split at h
        · cases h
        · cases h
          have : (_ : Group).gid = _ := (by simpa [Dev.group?] using List.find?_some hg)
          rw [this]; exact hg
      · cases h
    · cases h

/-- The lane at a place after the gang has gone on: what `f` makes of it, one instruction further. -/
theorem Env.done_lane {e : Env} {s : State} {f : Lane → Lane} {g : Group} {k : Nat} {l : Lane} (hg : s.dev.group? e.g.gid = some g)
    (hl : g.lanes[k]? = some l) (hi : e.lids.contains l.lid = true) :
    ∃ l', LaneAfter e (e.done s f) k l' ∧ l'.kept = ((f l.selected).step e.cl).kept := by
  have h1 := Dev.group_modGroup (f := fun g => g.issued e.lids (fun l => (f l).step e.cl)) hg (fun _ => rfl)
  have h2 := congrArg (fun ls => ls[k]?) (Group.issued_kept g e.lids (fun l => (f l).step e.cl))
  simp only [List.getElem?_map, hl, Option.map_some, hi, if_true] at h2
  obtain ⟨l', h3, h4⟩ := Option.map_eq_some_iff.1 h2
  exact ⟨l', ⟨_, h1, h3⟩, h4⟩

theorem Lane.step_v (c : Clause) (l : Lane) : (l.step c).v = l.v := by simp only [Lane.step]; split <;> rfl
theorem Lane.selected_v (l : Lane) : l.selected.v = l.v := by simp only [Lane.selected]; split <;> rfl
theorem Lane.selected_lid (l : Lane) : l.selected.lid = l.lid := by simp only [Lane.selected]; split <;> rfl
theorem Lane.selected_p (l : Lane) : l.selected.p = l.p := by simp only [Lane.selected]; split <;> rfl

/-- The group after the reads of an issue, and the lane at a place of it. -/
theorem Env.settled_lane {e : Env} {s : State} {cs : List (Nat × Chk)} {k : Nat} {l : Lane} (h : s.dev.group? e.g.gid = some e.g)
    (hl : e.g.lanes[k]? = some l) : ∃ g l', (e.settleReads cs s).dev.group? e.g.gid = some g ∧ g.form = e.g.form ∧
      g.lanes[k]? = some l' ∧ l'.form = l.form := by
  obtain ⟨g, h1, h2⟩ := (Env.settleReads_alike e cs s).group h
  have h3 : g.lanes.map Lane.form = e.g.lanes.map Lane.form := congrArg (·.2.1) h2
  have h4 := congrArg (fun ls => ls[k]?) h3
  simp only [List.getElem?_map, hl, Option.map_some] at h4
  obtain ⟨l', h5, h6⟩ := Option.map_eq_some_iff.1 h4
  exact ⟨g, l', h1, h2, h5, h6⟩

/-- An instruction that writes registers has written its results (R66, R81, R83). -/
theorem valueNext_result {s : State} {e : Env} (hr : Ready s e) (u : Bool) (d : Opnd) (sh : Nat × Bool) (val : Env → Lane → Rd Res) :
    ResultIn e (valueNext e u d sh val) u d sh (fun l => (val e l).val.regs) := by
  have hg := State.env?_group hr.1
  have hs := hr.s
  constructor
  · intro k l n j r ⟨hl, hc, hf⟩ hp hd hn ho
    obtain ⟨g, l1, h1, -, h2, h3⟩ := Env.settled_lane (s := s) (cs := valueChks e u d sh val) hg hl
    have hlid : l1.lid = l.lid := congrArg (·.1) h3
    have hpp : l1.p = l.p := congrArg (·.2.1) h3
    have hvl : l1.v.length = l.v.length := congrArg (·.2.2) h3
    have h4 := Dev.group_modGroup (f := valueGroup e u d sh val) h1
      (fun g => by unfold valueGroup Group.writeS; split <;> (try split) <;> rfl)
    have h5 : (valueGroup e u d sh val g).lanes = g.lanes := by
      unfold valueGroup Group.writeS; split <;> (try split) <;> rfl
    obtain ⟨l', h6, h7⟩ := Env.done_lane (e := e) (s := (e.settleReads (valueChks e u d sh val) s).onDev (fun dv =>
      dv.modGroup e.g.gid (valueGroup e u d sh val))) (f := valueLane e u d sh val) (g := valueGroup e u d sh val g) (k := k) (l := l1)
      h4 (by rw [h5]; exact h2) (by rw [hlid]; exact hc)
    refine ⟨l', by simpa [valueNext, hs] using h6, ?_⟩
    have h8 : l'.v = (valueLane e u d sh val l1.selected).v := by
      have := congrArg (fun (x : Lane) => x.v) h7
      simpa [Lane.kept, Lane.step_v] using this
    rw [h8]
    have hp1 : e.m.passes l1.selected = true := by simpa [Mode.passes, Lane.selected_p, hpp] using hp
    have hsrc : ∀ u, e.source u l1.selected = if u then e.leader else l := by
      intro u; simp [Env.source, Lane.selected_lid, hlid, hf]
    simp only [valueLane, hp1, if_true, hsrc, Bool.false_eq_true, if_false, hd, Lane.write, Lane.selected_v]
    exact setFrom_at _ _ _ _ _ ho (by rw [hvl]; exact hn)
  · intro n j r hu hpass hd hn ho
    obtain ⟨g, h1, h2⟩ := (Env.settleReads_alike e (valueChks e u d sh val) s).group hg
    have h4 := Dev.group_modGroup (f := valueGroup e u d sh val) h1
      (fun g => by unfold valueGroup Group.writeS; split <;> (try split) <;> rfl)
    have h6 := Dev.group_modGroup (f := fun g => g.issued e.lids (fun l => (valueLane e u d sh val l).step e.cl)) h4 (fun _ => rfl)
    refine ⟨_, by simpa [valueNext, hs, Env.done] using h6, ?_⟩
    have hsl : g.sregs.length = e.g.sregs.length := congrArg (·.2.2) h2
    subst hu
    have hne : e.passing.isEmpty = false := by simpa using hpass
    simp only [Group.issued, valueGroup, hne, Bool.not_false, Bool.and_self, if_true, Group.writeS, hd]
    exact setFrom_at _ _ _ _ _ ho (by rw [hsl]; exact hn)

/-! What an issue leaves alone. -/

theorem Dev.group_other {d : Dev} {gid k : Nat} {f : Group → Group} (h : k ≠ gid) (hf : ∀ g, (f g).gid = g.gid) :
    (d.modGroup gid f).group? k = d.group? k := by
  simp only [Dev.group?, Dev.modGroup_groups]
  generalize d.groups = a
  induction a with
  | nil => rfl
  | cons x xs ih =>
    simp only [List.map_cons, List.find?_cons]
    by_cases hx : x.gid = gid
    · have : (x.gid == k) = false := by simp only [beq_eq_false_iff_ne, ne_eq]; omega
      simp only [hx, if_true, hf]
      simp only [show (gid == k) = false by simpa [hx] using this]
      exact ih
    · simp only [if_neg hx]
      rw [ih]

theorem modGroup_modGroup (d : Dev) (gid : Nat) (f f' : Group → Group) (hf : ∀ g, (f g).gid = g.gid) :
    (d.modGroup gid f).modGroup gid f' = d.modGroup gid (fun g => f' (f g)) := by
  unfold Dev.modGroup
  simp only [List.map_map]
  congr 1
  apply List.map_congr_left; intro g _
  simp only [Function.comp]
  by_cases h : g.gid = gid
  · simp [h, hf]
  · simp [h]

/-- What the end of an issue leaves alone, over a group that `F` has changed: all but that group (R203). -/
theorem done_frame {e : Env} {w : State} {F : Group → Group} {f : Lane → Lane} {G : Group → Group → Prop} {L : Lane → Lane → Prop}
    (hF : ∀ g, (F g).gid = g.gid) (hFl : ∀ g, (F g).lanes = g.lanes)
    (hG : ∀ g h, h = (F g).issued e.lids (fun l => (f l).step e.cl) → G g h)
    (hL : ∀ a b, e.lids.contains a.lid = true → b.kept = ((f a.selected).step e.cl).kept → L a b) :
    GroupOnly e w (e.done (w.onDev (fun d => d.modGroup e.g.gid F)) f) G L := by
  refine ⟨rfl, ⟨fun g => (F g).issued e.lids (fun l => (f l).step e.cl), ?_⟩, ?_, ?_⟩
  · simp only [Env.done, State.onDev]
    rw [modGroup_modGroup _ _ _ _ hF]
  · intro k hk
    show Dev.group? (Dev.modGroup (Dev.modGroup _ _ _) _ _) k = _
    rw [Dev.group_other (f := fun g => g.issued e.lids (fun l => (f l).step e.cl)) hk (fun _ => rfl), Dev.group_other hk hF]
  · intro g hg
    refine ⟨_, Dev.group_modGroup (Dev.group_modGroup hg hF) (fun _ => rfl), hG g _ rfl, ?_, ?_⟩
    · have := congrArg List.length (Group.issued_kept (F g) e.lids (fun l => (f l).step e.cl))
      simpa [hFl] using this
    · intro k a b ha hb
      have h2 := congrArg (fun ls => ls[k]?) (Group.issued_kept (F g) e.lids (fun l => (f l).step e.cl))
      simp only [List.getElem?_map, hFl, ha, hb, Option.map_some, Option.some.injEq] at h2
      split
      · rename_i hc; rw [if_pos hc] at h2; exact hL a b hc h2
      · rename_i hc; rw [if_neg hc] at h2; exact h2

theorem setFrom_run {α : Type} {l : List α} {n r : Nat} {rs : List α} (h : (setFrom l n rs)[r]? ≠ l[r]?) : n ≤ r ∧ r < n + rs.length := by
  by_cases hh : r < n ∨ n + rs.length ≤ r
  · exact absurd (setFrom_other rs l n r hh) h
  · omega

theorem Lane.step_kept (c : Clause) (l : Lane) : (l.step c).kept = { l.kept with pc := (l.step c).pc, clause := (l.step c).clause } := by
  simp only [Lane.step]; split <;> rfl
theorem Lane.selected_kept (l : Lane) : l.selected.kept = l.kept := by simp only [Lane.selected]; split <;> rfl

/-- An instruction that writes registers changes no more than their runs (R66, R83). -/
theorem valueNext_frame {s : State} {e : Env} (hr : Ready s e) (u : Bool) (d : Opnd) (sh : Nat × Bool) (val : Env → Lane → Rd Res)
    (st : Bool) (hlen : ∀ l ∈ e.lanes, (val e l).val.regs.length ≤ sh.1) (hlead : (val e e.leader).val.regs.length ≤ sh.1)
    (hst : st = false → ∀ l, (val e l).val.words = 0)  :
    GroupOnly e (e.settleReads (valueChks e u d sh val) s) (valueNext e u d sh val) (WroteGroup e u d sh) (WroteLane e u d sh st) := by
  unfold valueNext; rw [hr.s]
  apply done_frame
  · intro g; unfold valueGroup Group.writeS; split <;> (try split) <;> rfl
  · intro g; unfold valueGroup Group.writeS; split <;> (try split) <;> rfl
  · rintro g h rfl
    unfold valueGroup Group.writeS
    constructor
    · split <;> (try split) <;> rfl
    · intro r hne
      by_cases hu : (u && !e.passing.isEmpty) = true
      · have hu' := hu
        simp only [Bool.and_eq_true, Bool.not_eq_true', List.isEmpty_eq_false_iff] at hu'
        refine ⟨hu'.1, hu'.2, ?_⟩
        simp only [hu, if_true, Group.issued] at hne
        cases hd : (dest e e.leader u d sh.1 sh.2).val with
        | s n => 
          simp only [hd] at hne
          have := setFrom_run hne
          exact ⟨rfl, this.1, by omega⟩
        | v n => simp [hd] at hne
        | none => simp [hd] at hne
      · simp [hu, Group.issued] at hne
  · intro a b hc hb
    rw [Lane.step_kept] at hb
    have hlidmem : ∃ l0 ∈ e.lanes, l0.lid = a.lid := by
      simp only [Env.lids, List.contains_iff_mem, List.mem_map] at hc; exact hc
    have hsrclen : ∀ (x : Lane), x.lid = a.lid → (val e (e.source u x)).val.regs.length ≤ sh.1 := by
      intro x hx
      unfold Env.source; split
      · exact hlead
      · obtain ⟨l0, hl0, hl1⟩ := hlidmem
        cases hfind : e.lanes.find? (fun k => k.lid == x.lid) with
        | some y => exact hlen y (List.mem_of_find?_eq_some hfind)
        | none => rw [List.find?_eq_none] at hfind; exact absurd (by simp [hl1, hx]) (hfind l0 hl0)
    have hsf : e.source false a.selected = e.source false a := by
      obtain ⟨l0, hl0, hl1⟩ := hlidmem
      simp only [Env.source, Bool.false_eq_true, if_false, Lane.selected_lid]
      cases hfind : e.lanes.find? (fun k => k.lid == a.lid) with
      | some y => rfl
      | none => rw [List.find?_eq_none] at hfind; exact absurd (by simp [hl1]) (hfind l0 hl0)
    have hk := Lane.selected_kept a
    have hp : e.m.passes a.selected = e.m.passes a := by simp [Mode.passes, Lane.selected_p]
    have hx := hsrclen a.selected (Lane.selected_lid a)
    have hbv : b.v = (valueLane e u d sh val a.selected).v := by simpa [Lane.kept] using congrArg (fun (x : Lane) => x.v) hb
    have hbr : b.rctr = (valueLane e u d sh val a.selected).rctr := by simpa [Lane.kept] using congrArg (fun (x : Lane) => x.rctr) hb
    have hrr : a.selected.rctr = a.rctr := by simpa [Lane.kept] using congrArg (fun (x : Lane) => x.rctr) hk
    have hbp : b.pc = ((valueLane e u d sh val a.selected).step e.cl).pc := by simpa [Lane.kept] using congrArg (fun (x : Lane) => x.pc) hb
    have hbc : b.clause = ((valueLane e u d sh val a.selected).step e.cl).clause := by simpa [Lane.kept] using congrArg (fun (x : Lane) => x.clause) hb
    refine ⟨?_, ?_, ?_, ?_⟩
    · rw [hbv, hbr, hbp, hbc, hb, ← hk]
      simp only [valueLane, hp]
      split
      · unfold Lane.write; split <;> rfl
      · rfl
    · intro hoff
      simp only [hbv, hbr, valueLane, hp, hoff, hrr]; simp
      exact ⟨Lane.selected_v a, hrr⟩
    · intro h0
      rw [hbr]; simp only [valueLane]; split
      · simp [hst h0, hrr]
      · exact hrr
    · intro r hne
      rw [hbv] at hne
      simp only [valueLane] at hne
      split at hne
      · rw [hsf] at hne
        cases hd : (dest e (e.source false a) u d sh.1 sh.2).val with
        | v n =>
          simp only [hd, Lane.write] at hne
          rw [← Lane.selected_v a] at hne
          have := setFrom_run hne
          exact ⟨rfl, this.1, by omega⟩
        | s n => exact absurd (by simp [hd, Lane.write, Lane.selected_v]) hne
        | none => exact absurd (by simp [hd, Lane.write, Lane.selected_v]) hne
      · exact absurd (by rw [Lane.selected_v]) hne

end Sys2Proof.Machine
end

