-- ==== Sys2Proof/Laws/Memory.lean ====
section
/-!
SUPPORT. The laws of memory: a read after a write, and that every operation of the memory system keeps the canonical form.
-/
namespace Sys2Proof.Machine
open Sys2Proof

theorem Memory.wfFrom_mono {lo hi : Nat} {m : Memory} (h : m.wfFrom hi = true) (hl : lo ≤ hi) : m.wfFrom lo = true := by
  cases m with
  | nil => rfl
  | cons c m => simp only [Memory.wfFrom, Bool.and_eq_true, decide_eq_true_eq] at h ⊢; exact ⟨⟨by omega, h.1.2⟩, h.2⟩

theorem Memory.get_below {lo x : Nat} {m : Memory} (h : m.wfFrom lo = true) (hx : x < lo) : m.get x = emptyByte := by
  cases m with
  | nil => rfl
  | cons c m =>
    simp only [Memory.wfFrom, Bool.and_eq_true, decide_eq_true_eq] at h
    have h1 := h.1.1
    simp only [Memory.get]
    rw [if_neg (by omega), if_pos (by omega)]

theorem Memory.wfFrom_set {x : Nat} {y : Byte} : ∀ {lo : Nat} {m : Memory}, m.wfFrom lo = true → lo ≤ x →
    (m.set x y).wfFrom lo = true
  | lo, [], _, hx => by
    simp only [Memory.set]; split
    · rfl
    · simp_all [Memory.wfFrom]
  | lo, (a, b) :: m, h, hx => by
    simp only [Memory.wfFrom, Bool.and_eq_true, decide_eq_true_eq] at h
    obtain ⟨⟨h1, h2⟩, h3⟩ := h
    simp only [Memory.set]
    split
    · split
      · exact Memory.wfFrom_mono h3 (by omega)
      · simp_all [Memory.wfFrom]
    · split
      · split
        · simp_all [Memory.wfFrom]
        · simp_all [Memory.wfFrom] <;> omega
      · have := Memory.wfFrom_set (x := x) (y := y) h3 (by omega)
        simp_all [Memory.wfFrom]

/-- A write keeps the canonical form. -/
theorem Memory.wf_set {m : Memory} (h : m.wf = true) (x : Nat) (y : Byte) : (m.set x y).wf = true :=
  Memory.wfFrom_set h (Nat.zero_le x)

/-- A write of several bytes keeps the canonical form. -/
theorem Memory.wf_setN {m : Memory} (h : m.wf = true) (x : Nat) (bs : List Byte) : (m.setN x bs).wf = true := by
  induction bs generalizing m x with
  | nil => exact h
  | cons b bs ih => exact ih (Memory.wf_set h x b) (x + 1)

theorem Memory.wfFrom_filter (p : Host.Cell → Bool) : ∀ {lo : Nat} {m : Memory}, m.wfFrom lo = true →
    Memory.wfFrom lo (m.filter p) = true
  | _, [], _ => rfl
  | lo, (a, b) :: m, h => by
    simp only [Memory.wfFrom, Bool.and_eq_true, decide_eq_true_eq] at h
    obtain ⟨⟨h1, h2⟩, h3⟩ := h
    have ih := Memory.wfFrom_filter p h3
    simp only [List.filter]
    split
    · simp_all [Memory.wfFrom]
    · exact Memory.wfFrom_mono ih (by omega)

/-- Dropping cells keeps the canonical form. -/
theorem Memory.wf_filter {m : Memory} (h : m.wf = true) (p : Host.Cell → Bool) : Memory.wf (m.filter p) = true :=
  Memory.wfFrom_filter p h

/-- Clearing a range keeps the canonical form. -/
theorem Memory.wf_clear {m : Memory} (h : m.wf = true) (a n : Nat) : (m.clear a n).wf = true := Memory.wf_filter h _

/-- A read after a write to the same address gives the byte written. -/
theorem Memory.get_set_same (x : Nat) (y : Byte) : ∀ {lo : Nat} {m : Memory}, m.wfFrom lo = true → (m.set x y).get x = y
  | lo, [], _ => by
    simp only [Memory.set]; split
    · simp_all [Memory.get]
    · simp [Memory.get]
  | lo, (a, b) :: m, h => by
    simp only [Memory.wfFrom, Bool.and_eq_true, decide_eq_true_eq] at h
    obtain ⟨⟨h1, h2⟩, h3⟩ := h
    simp only [Memory.set]
    split
    · split
      · subst_vars; exact Memory.get_below h3 (by omega)
      · simp_all [Memory.get]
    · split
      · split
        · simp_all [Memory.get]
        · simp [Memory.get]
      · simp only [Memory.get]
        rw [if_neg (by assumption), if_neg (by assumption)]
        exact Memory.get_set_same x y h3

/-- A write leaves every other address alone. -/
theorem Memory.get_set_other {x z : Nat} (y : Byte) (hz : z ≠ x) : ∀ {lo : Nat} {m : Memory}, m.wfFrom lo = true →
    (m.set x y).get z = m.get z
  | lo, [], _ => by
    simp only [Memory.set]; split
    · rfl
    · simp [Memory.get, hz]
  | lo, (a, b) :: m, h => by
    simp only [Memory.wfFrom, Bool.and_eq_true, decide_eq_true_eq] at h
    obtain ⟨⟨h1, h2⟩, h3⟩ := h
    simp only [Memory.set]
    split
    · subst_vars
      split
      · simp only [Memory.get]
        rw [if_neg hz]
        split
        · exact Memory.get_below h3 (by omega)
        · rfl
      · simp [Memory.get, hz]
    · split
      · split
        · rfl
        · simp only [Memory.get]
          rw [if_neg hz]
          split
          · rw [if_neg (by omega), if_pos (by omega)]
          · rfl
      · simp only [Memory.get]
        split
        · rfl
        · split
          · rfl
          · exact Memory.get_set_other y hz h3

/-! The memory system. -/

theorem Store.wf_iff {st : Store} : st.wf = true ↔ st.mem.wf = true ∧ st.scr.wf = true ∧ st.acc.wf = true ∧
    (∀ l ∈ st.lines, l.body.full = true) ∧ ∀ l ∈ st.l2, l.body.full = true := by
  simp [Store.wf, and_assoc]

/-- Stores whose memories and lines are the same are canonical together. -/
theorem Store.wf_congr {a b : Store} (h : a.wf = true) (hm : b.mem = a.mem) (hs : b.scr = a.scr) (hc : b.acc = a.acc)
    (hl : b.lines = a.lines) (h2 : b.l2 = a.l2) : b.wf = true := by
  simp only [Store.wf, hm, hs, hc, hl, h2]; exact h

/-- Lines changed into whole lines, or dropped. -/
theorem Store.wf_lines {a b : Store} (h : a.wf = true) (hm : b.mem = a.mem) (hs : b.scr = a.scr) (hc : b.acc = a.acc)
    (hl : ∀ l ∈ b.lines, l.body.full = true) (h2 : ∀ l ∈ b.l2, l.body.full = true) : b.wf = true := by
  rw [Store.wf_iff] at h ⊢; rw [hm, hs, hc]; exact ⟨h.1, h.2.1, h.2.2.1, hl, h2⟩

theorem Store.full_line {st : Store} (h : st.wf = true) {l : CLine} (hl : l ∈ st.lines) : l.body.full = true :=
  (Store.wf_iff.1 h).2.2.2.1 l hl
theorem Store.full_l2 {st : Store} (h : st.wf = true) {l : L2Line} (hl : l ∈ st.l2) : l.body.full = true :=
  (Store.wf_iff.1 h).2.2.2.2 l hl

/-- A line brought in is whole. -/
theorem LineBytes.full_clean {bs : List Byte} (h : bs.length = 128) : (LineBytes.clean bs).full = true := by
  simp [LineBytes.clean, LineBytes.full, h]

theorem LineBytes.full_cleaned {l : LineBytes} (h : l.full = true) : (LineBytes.clean l.data).full = true :=
  LineBytes.full_clean (by simp [LineBytes.full] at h; exact h.1)

theorem LineBytes.full_put1 {l : LineBytes} (h : l.full = true) (off : Nat) (b : Byte) : (l.put1 off b).full = true := by
  simpa [LineBytes.full, LineBytes.put1] using h

/-- A write into a line leaves it whole. -/
theorem LineBytes.full_put : ∀ (bs : List Byte) (off : Nat) {l : LineBytes}, l.full = true → (l.put off bs).full = true
  | [], _, _, h => h
  | b :: bs, off, _, h => LineBytes.full_put bs (off + 1) (LineBytes.full_put1 h off b)

theorem LineBytes.full_puts : ∀ (bs : List (Nat × Byte)) {l : LineBytes}, l.full = true → (l.puts bs).full = true
  | [], _, h => h
  | b :: bs, _, h => LineBytes.full_puts bs (LineBytes.full_put1 h b.1 b.2)

theorem Memory.length_getN (m : Memory) : ∀ (n a : Nat), (m.getN a n).length = n
  | 0, _ => rfl
  | n + 1, a => by simp [Memory.getN, Memory.length_getN m n]

theorem Store.length_homeGetN (st : Store) (own : Option Nat) : ∀ (n k : Nat), (st.homeGetN own k n).length = n
  | 0, _ => rfl
  | n + 1, k => by simp [Store.homeGetN, Store.length_homeGetN st own n]

/-- L2 lines changed one by one into whole lines. -/
theorem Store.wf_mapL2 {st : Store} (h : st.wf = true) (f : L2Line → L2Line) (hf : ∀ l, l.body.full = true → (f l).body.full = true) :
    Store.wf { st with l2 := st.l2.map f } = true := by
  refine Store.wf_lines h rfl rfl rfl (fun l hl => Store.full_line h hl) ?_
  intro x hx
  obtain ⟨l, hl, rfl⟩ := List.mem_map.1 hx
  exact hf l (Store.full_l2 h hl)

/-- Cached lines changed one by one into whole lines. -/
theorem Store.wf_mapLines {st : Store} (h : st.wf = true) (f : CLine → CLine) (hf : ∀ l, l.body.full = true → (f l).body.full = true) :
    Store.wf { st with lines := st.lines.map f } = true := by
  refine Store.wf_lines h rfl rfl rfl ?_ (fun l hl => Store.full_l2 h hl)
  intro x hx
  obtain ⟨l, hl, rfl⟩ := List.mem_map.1 hx
  exact hf l (Store.full_line h hl)

/-- Dropping lines of the L1s keeps the canonical form. -/
theorem Store.wf_filterLines {st : Store} (h : st.wf = true) (p : CLine → Bool) : Store.wf { st with lines := st.lines.filter p } = true :=
  Store.wf_lines h rfl rfl rfl (fun _ hl => Store.full_line h (List.mem_filter.1 hl).1) (fun _ hl => Store.full_l2 h hl)

/-- Dropping lines of the L2s keeps the canonical form. -/
theorem Store.wf_filterL2 {st : Store} (h : st.wf = true) (p : L2Line → Bool) : Store.wf { st with l2 := st.l2.filter p } = true :=
  Store.wf_lines h rfl rfl rfl (fun _ hl => Store.full_line h hl) (fun _ hl => Store.full_l2 h (List.mem_filter.1 hl).1)

theorem Store.wf_freeExact {st : Store} (h : st.wf = true) (k n : Nat) : (st.freeExact k n).wf = true := h

/-- Bytes written to memory itself keep the canonical form. -/
theorem Store.wf_memLine {st : Store} (h : st.wf = true) (line : Nat) (bs : List (Nat × Byte)) : (st.memLine line bs).wf = true := by
  rw [Store.wf_iff] at h ⊢
  refine ⟨?_, h.2⟩
  have h1 := h.1
  simp only [Store.memLine]
  generalize st.mem = m at h1 ⊢
  induction bs generalizing m with
  | nil => exact h1
  | cons b bs ih => exact ih _ (Memory.wf_set h1 _ _)

theorem Store.wf_memPuts {st : Store} (h : st.wf = true) (line : Nat) (bs : List (Nat × Byte)) : (st.memPuts line bs).wf = true := by
  simp only [Store.memPuts]; split
  · exact Store.wf_memLine h line bs
  · exact h

theorem Store.wf_homePuts {st : Store} (h : st.wf = true) (own : Option Nat) (line : Nat) (bs : List (Nat × Byte)) :
    (st.homePuts own line bs).wf = true := by
  simp only [Store.homePuts]
  generalize st.exact.filter _ = ex
  have h1 : Store.wf { st with exact := ex } = true := h
  split
  · refine Store.wf_mapL2 h1 _ ?_
    intro l hl
    split
    · exact LineBytes.full_puts bs hl
    · exact hl
  · exact Store.wf_memPuts h1 line bs

/-- Bytes written at their home keep the canonical form. -/
theorem Store.wf_homeSet {st : Store} (h : st.wf = true) (own : Option Nat) (k : Nat) (bs : List Byte) :
    (st.homeSet own k bs).wf = true := by
  simp only [Store.homeSet]
  generalize cutAt 128 k bs (bs.length / 128 + 2) = ps
  induction ps generalizing st with
  | nil => exact h
  | cons p ps ih => exact ih (Store.wf_homePuts h own (p.1 / 128) (offsets (p.1 % 128) p.2))

theorem Store.wf_count {st : Store} (h : st.wf = true) (c l : Nat) : (st.count c l).wf = true := by
  simp only [Store.count]; split
  · exact h
  · exact Store.wf_mapL2 h _ (fun l hl => by split <;> exact hl)

theorem Store.wf_correct {st : Store} (h : st.wf = true) (xs : List ErrSite) : (st.correct xs).wf = true := h

theorem Store.wf_carryErr {st : Store} (h : st.wf = true) (c l : Nat) : (st.carryErr c l).wf = true := by
  simp only [Store.carryErr]; split <;> exact h

/-- An access of a core brings its line into the L2 whole. -/
theorem Store.wf_l2Use {st : Store} (h : st.wf = true) (c l cls : Nat) : (st.l2Use c l cls).wf = true := by
  simp only [Store.l2Use]
  apply Store.wf_count
  split
  · rename_i y hy
    refine Store.wf_lines h rfl rfl rfl (fun l hl => Store.full_line h hl) ?_
    intro x hx
    rcases List.mem_cons.1 hx with rfl | hx
    · have := Store.full_l2 h (List.mem_of_find?_eq_some hy)
      split <;> exact this
    · exact Store.full_l2 h (List.mem_filter.1 hx).1
  · refine Store.wf_lines h rfl rfl rfl (fun l hl => Store.full_line h hl) ?_
    intro x hx
    rcases List.mem_cons.1 hx with rfl | hx
    · exact LineBytes.full_clean (Memory.length_getN _ _ _)
    · exact Store.full_l2 h hx

theorem Store.wf_cleanLine {st : Store} (h : st.wf = true) (c l : Nat) : (st.cleanLine c l).wf = true := by
  simp only [Store.cleanLine]
  split
  · exact h
  · have h1 := Store.wf_carryErr h c l
    apply Store.wf_mapLines
    · split
      · exact h1
      · exact Store.wf_homePuts (Store.wf_l2Use h1 c l 0) _ _ _
    · intro k hk
      split
      · exact LineBytes.full_cleaned hk
      · exact hk

theorem Store.wf_invLine {st : Store} (h : st.wf = true) (c l : Nat) : (st.invLine c l).wf = true :=
  Store.wf_lines h rfl rfl rfl (fun _ hl => Store.full_line h (List.mem_filter.1 hl).1) (fun _ hl => Store.full_l2 h hl)

theorem Store.wf_evictLine {st : Store} (h : st.wf = true) (c l : Nat) : (st.evictLine c l).wf = true :=
  Store.wf_invLine (Store.wf_cleanLine h c l) c l

theorem Store.wf_release {st : Store} (h : st.wf = true) (c : Nat) : (st.release c).wf = true := by
  simp only [Store.release]
  generalize st.dirtyLines c = ls
  induction ls generalizing st with
  | nil => exact h
  | cons l ls ih => exact ih (Store.wf_cleanLine h c l)

theorem Store.wf_acquire {st : Store} (h : st.wf = true) (c : Nat) : (st.acquire c).wf = true := by
  simp only [Store.acquire]
  generalize st.l1Lines c = ls
  induction ls generalizing st with
  | nil => exact h
  | cons l ls ih => exact ih (Store.wf_evictLine h c l)

theorem Store.wf_fillLine {st : Store} (h : st.wf = true) (c k l : Nat) (b : Bool) : (st.fillLine c k l b).wf = true := by
  simp only [Store.fillLine]
  split
  · rename_i y hy
    refine Store.wf_lines h rfl rfl rfl ?_ (fun l hl => Store.full_l2 h hl)
    intro x hx
    rcases List.mem_cons.1 hx with rfl | hx
    · exact Store.full_line h (List.mem_of_find?_eq_some hy)
    · exact Store.full_line h (List.mem_filter.1 hx).1
  · refine Store.wf_lines h rfl rfl rfl ?_ (fun l hl => Store.full_l2 h hl)
    intro x hx
    rcases List.mem_cons.1 hx with rfl | hx
    · exact LineBytes.full_clean (Store.length_homeGetN st _ 128 _)
    · exact Store.full_line h hx

theorem Store.wf_linePut {st : Store} (h : st.wf = true) (c k : Nat) (bs : List Byte) : (st.linePut c k bs).wf = true := by
  refine Store.wf_mapLines h _ ?_
  intro l hl
  split
  · exact LineBytes.full_put bs _ hl
  · exact hl

/-- A line that a texel cache uses is whole. -/
theorem Store.wf_fillTexels {st : Store} (h : st.wf = true) (c k l : Nat) : (st.fillTexels c k l).wf = true := by
  simp only [Store.fillTexels]
  have h1 := Store.wf_fillLine h c k l false
  split
  · rename_i y hy
    split
    · refine Store.wf_mapLines h1 _ ?_
      intro x hx
      split
      · exact LineBytes.full_cleaned (LineBytes.full_puts _ hx)
      · exact hx
    · exact h1
  · exact h1

/-- Retained lines that return to the normal class stay whole. -/
theorem Store.wf_unretain {st : Store} (h : st.wf = true) (q : Nat) : (st.unretain q).wf = true :=
  Store.wf_mapL2 h _ (fun l hl => by split <;> exact hl)

theorem Store.wf_toSystem {st : Store} (h : st.wf = true) (c l : Nat) : (st.toSystem c l).wf = true := by
  simp only [Store.toSystem]
  split
  · split
    · apply Store.wf_filterL2
      split
      · exact h
      · exact Store.wf_memPuts h _ _
    · exact h
  · exact h

theorem Store.wf_clear {st : Store} (h : st.wf = true) (c l : Nat) (via : Via) (b : Bool) : (st.clear c l via b).wf = true := by
  have h1 : (if b then st.evictLine c l else st).wf = true := by
    split
    · exact Store.wf_evictLine h c l
    · exact h
  simp only [Store.clear]; split
  · exact Store.wf_toSystem h1 c l
  · exact h1

/-- A read keeps the canonical form. -/
theorem Store.wf_read {st : Store} (h : st.wf = true) (c : Nat) (via : Via) (pl : Place) (n : Nat) :
    (st.read c via pl n).1.wf = true := by
  cases pl with
  | scr k => exact h
  | pa k a b d =>
    simp only [Store.read]
    split
    · exact Store.wf_fillLine h c 0 _ _
    · exact Store.wf_clear h c _ via _

/-- A write keeps the canonical form. -/
theorem Store.wf_write {st : Store} (h : st.wf = true) (c : Nat) (via : Via) (pl : Place) (bs : List Byte) :
    (st.write c via pl bs).wf = true := by
  cases pl with
  | scr k =>
    simp only [Store.write]
    rw [Store.wf_iff] at h ⊢
    exact ⟨h.1, Memory.wf_setN h.2.1 k bs, h.2.2⟩
  | pa k a b d =>
    simp only [Store.write]
    split
    · exact Store.wf_linePut (Store.wf_fillLine h c 0 _ _) c k bs
    · exact Store.wf_homeSet (Store.wf_clear h c _ via _) _ k bs

theorem Store.wf_atomic {st : Store} (h : st.wf = true) (c : Nat) (via : Via) (pl : Place) (n : Nat) (f : List Byte → List Byte) :
    (st.atomic c via pl n f).1.wf = true :=
  Store.wf_write (Store.wf_read h c via pl n) c via pl _

theorem Store.wf_setTag {st : Store} (h : st.wf = true) (c t : Nat) : (st.setTag c t).wf = true := h

theorem Store.wf_setCell {st : Store} (h : st.wf = true) (c t : Nat) (bs : List Byte) : (st.setCell c t bs).wf = true :=
  Store.wf_setTag (Store.wf_homeSet h none (c * 16) bs) c t

/-- A write that cancels plates keeps the canonical form. -/
theorem Store.wf_writeCells {st : Store} (h : st.wf = true) (k : Nat) (bs : List Byte) : (st.writeCells k bs).wf = true := by
  simp only [Store.writeCells]
  generalize cellPieces k bs (bs.length / 16 + 2) = ps
  induction ps generalizing st with
  | nil => exact h
  | cons p ps ih =>
    simp only [List.foldl_cons]
    apply ih
    split
    · exact Store.wf_setCell h _ _ _
    · exact Store.wf_setCell h _ _ _
    · exact Store.wf_homeSet h _ _ _

theorem Store.wf_detElem {st : Store} (h : st.wf = true) (own : Option Nat) (k ty el : Nat) (a : FVal) :
    (st.detElem own k ty el a).1.wf = true :=
  Store.wf_congr (Store.wf_homeSet h own _ _) rfl rfl rfl rfl rfl

/-- A DET add keeps the canonical form. -/
theorem Store.wf_detAdd {st : Store} (h : st.wf = true) (own : Option Nat) (k ty : Nat) (as : List FVal) :
    (st.detAdd own k ty as).1.wf = true := by
  have h2 : (if st.exact.any (fun x => x.pa == k && x.ty != ty) then st.freeExact k 4 else st).wf = true := by
    split <;> exact h
  match as with
  | [] => exact h2
  | [a] => exact Store.wf_detElem h2 own k ty 0 a
  | a :: b :: _ => exact Store.wf_detElem (Store.wf_detElem h2 own k ty 0 a) own k ty 1 b

theorem Store.wf_settle {st : Store} (h : st.wf = true) (k n : Nat) : (st.settle k n).wf = true := h

theorem Store.wf_install {st : Store} (h : st.wf = true) (q c p sh l : Nat) : (st.install q c p sh l).wf = true := h

/-- A translation's effect keeps the canonical form. -/
theorem Store.wf_touchPage {st : Store} (h : st.wf = true) (q p root core va : Nat) (wr : Bool) :
    (st.touchPage q p root core va wr).wf = true := by
  unfold Store.touchPage
  dsimp only
  repeat' split
  all_goals first
    | exact h
    | exact Store.wf_install h _ _ _ _ _
    | exact Store.wf_install (Store.wf_homeSet h _ _ _) _ _ _ _ _

/-- Lines replaced keep the canonical form. -/
theorem Dev.wf_fitL1 (d : Dev) {st : Store} (h : st.wf = true) : (d.fitL1 st).wf = true := by
  simp only [Dev.fitL1]; split
  · exact h
  · rename_i hn; clear hn
    generalize List.flatMap _ _ = ls
    induction ls generalizing st with
    | nil => exact h
    | cons l ls ih =>
      simp only [List.foldl_cons]
      apply ih
      split
      · exact Store.wf_evictLine h _ _
      · exact Store.wf_filterLines h _

theorem Dev.wf_fitL2 (d : Dev) {st : Store} (h : st.wf = true) : (d.fitL2 st).wf = true := by
  simp only [Dev.fitL2]; split
  · exact h
  · rename_i hn; clear hn
    generalize List.flatMap _ _ = ls
    induction ls generalizing st with
    | nil => exact h
    | cons l ls ih =>
      simp only [List.foldl_cons]
      apply ih
      apply Store.wf_filterL2
      split
      · exact h
      · exact Store.wf_memPuts h _ _

theorem Store.wf_reset : Store.reset.wf = true := by decide

end Sys2Proof.Machine
end

