-- ==== Sys2Proof/Laws/PerInstr.lean ====
section
/-!
SUPPORT. Per instruction: the word of an instruction that has one fits 32 bits.
-/
namespace Sys2Proof.Laws.Encodes
open Sys2Proof

/-- The encoder's word, if there is one, is a 32-bit word. -/
def Statement (i : Instr) : Prop := ∀ w, encode i = some w → w < 2 ^ 32

theorem clauseHeader : Statement (.clauseHeader) := by intro w h; cases h
theorem mode (d : BitVec 8) (i : BitVec 16) : Statement (.mode d i) := by
  intro w h; cases h; simp only [put]; have := d.isLt; have := i.isLt; omega
theorem guard (n : Bool) (g : BitVec 6) : Statement (.guard n g) := by
  intro w h; cases h; simp only [put]; have := bool_lt n; have := g.isLt; omega
theorem fmt (d : BitVec 8) (a : Opnd) : Statement (.fmt d a) := by
  intro w h; cases h; simp only [put]; have := d.isLt; have := Opnd.code_lt a; omega
theorem omap (d : BitVec 8) (a : Opnd) : Statement (.omap d a) := by
  intro w h; cases h; simp only [put]; have := d.isLt; have := Opnd.code_lt a; omega
theorem xset (u : Bool) (k : BitVec 3) (b : BitVec 8) (l : BitVec 8) : Statement (.xset u k b l) := by
  intro w h; cases h; simp only [put]; have := bool_lt u; have := k.isLt; have := b.isLt; have := l.isLt; omega
theorem xoff (u : Bool) (k : BitVec 3) (a : Opnd) : Statement (.xoff u k a) := by
  intro w h; cases h; simp only [put]; have := bool_lt u; have := k.isLt; have := Opnd.code_lt a; omega
theorem xadd (u : Bool) (k : BitVec 3) (a : Opnd) : Statement (.xadd u k a) := by
  intro w h; cases h; simp only [put]; have := bool_lt u; have := k.isLt; have := Opnd.code_lt a; omega
theorem mov (u : Bool) (d : Opnd) (a : Opnd) : Statement (.mov u d a) := by
  intro w h; cases h; simp only [put]; have := bool_lt u; have := Opnd.code_lt d; have := Opnd.code_lt a; omega
theorem movi (u : Bool) (d : Opnd) (i : BitVec 16) : Statement (.movi u d i) := by
  intro w h; cases h; simp only [put]; have := bool_lt u; have := Opnd.code_lt d; have := i.isLt; omega
theorem movh (u : Bool) (d : Opnd) (i : BitVec 16) : Statement (.movh u d i) := by
  intro w h; cases h; simp only [put]; have := bool_lt u; have := Opnd.code_lt d; have := i.isLt; omega
theorem sel (u : Bool) (d : Opnd) (a : Opnd) (b : Opnd) : Statement (.sel u d a b) := by
  intro w h; cases h; simp only [put]; have := bool_lt u; have := Opnd.code_lt d; have := Opnd.code_lt a; have := Opnd.code_lt b; omega
theorem retag (u : Bool) (d : Opnd) (a : Opnd) (t : BitVec 8) : Statement (.retag u d a t) := by
  intro w h; cases h; simp only [put]; have := bool_lt u; have := Opnd.code_lt d; have := Opnd.code_lt a; have := t.isLt; omega
theorem tagof (u : Bool) (d : Opnd) (a : Opnd) : Statement (.tagof u d a) := by
  intro w h; cases h; simp only [put]; have := bool_lt u; have := Opnd.code_lt d; have := Opnd.code_lt a; omega
theorem rdsr (u : Bool) (d : Opnd) (i : BitVec 16) : Statement (.rdsr u d i) := by
  intro w h; cases h; simp only [put]; have := bool_lt u; have := Opnd.code_lt d; have := i.isLt; omega
theorem wrsr (u : Bool) (d : Opnd) (i : BitVec 16) : Statement (.wrsr u d i) := by
  intro w h; cases h; simp only [put]; have := bool_lt u; have := Opnd.code_lt d; have := i.isLt; omega
theorem add (u : Bool) (d : Opnd) (a : Opnd) (b : Opnd) : Statement (.add u d a b) := by
  intro w h; cases h; simp only [put]; have := bool_lt u; have := Opnd.code_lt d; have := Opnd.code_lt a; have := Opnd.code_lt b; omega
theorem sub (u : Bool) (d : Opnd) (a : Opnd) (b : Opnd) : Statement (.sub u d a b) := by
  intro w h; cases h; simp only [put]; have := bool_lt u; have := Opnd.code_lt d; have := Opnd.code_lt a; have := Opnd.code_lt b; omega
theorem mul (u : Bool) (d : Opnd) (a : Opnd) (b : Opnd) : Statement (.mul u d a b) := by
  intro w h; cases h; simp only [put]; have := bool_lt u; have := Opnd.code_lt d; have := Opnd.code_lt a; have := Opnd.code_lt b; omega
theorem mulh (u : Bool) (d : Opnd) (a : Opnd) (b : Opnd) : Statement (.mulh u d a b) := by
  intro w h; cases h; simp only [put]; have := bool_lt u; have := Opnd.code_lt d; have := Opnd.code_lt a; have := Opnd.code_lt b; omega
theorem mad (u : Bool) (d : Opnd) (a : Opnd) (b : Opnd) : Statement (.mad u d a b) := by
  intro w h; cases h; simp only [put]; have := bool_lt u; have := Opnd.code_lt d; have := Opnd.code_lt a; have := Opnd.code_lt b; omega
theorem div (u : Bool) (d : Opnd) (a : Opnd) (b : Opnd) : Statement (.div u d a b) := by
  intro w h; cases h; simp only [put]; have := bool_lt u; have := Opnd.code_lt d; have := Opnd.code_lt a; have := Opnd.code_lt b; omega
theorem rem (u : Bool) (d : Opnd) (a : Opnd) (b : Opnd) : Statement (.rem u d a b) := by
  intro w h; cases h; simp only [put]; have := bool_lt u; have := Opnd.code_lt d; have := Opnd.code_lt a; have := Opnd.code_lt b; omega
theorem min (u : Bool) (d : Opnd) (a : Opnd) (b : Opnd) : Statement (.min u d a b) := by
  intro w h; cases h; simp only [put]; have := bool_lt u; have := Opnd.code_lt d; have := Opnd.code_lt a; have := Opnd.code_lt b; omega
theorem max (u : Bool) (d : Opnd) (a : Opnd) (b : Opnd) : Statement (.max u d a b) := by
  intro w h; cases h; simp only [put]; have := bool_lt u; have := Opnd.code_lt d; have := Opnd.code_lt a; have := Opnd.code_lt b; omega
theorem abs (u : Bool) (d : Opnd) (a : Opnd) : Statement (.abs u d a) := by
  intro w h; cases h; simp only [put]; have := bool_lt u; have := Opnd.code_lt d; have := Opnd.code_lt a; omega
theorem neg (u : Bool) (d : Opnd) (a : Opnd) : Statement (.neg u d a) := by
  intro w h; cases h; simp only [put]; have := bool_lt u; have := Opnd.code_lt d; have := Opnd.code_lt a; omega
theorem add64 (u : Bool) (d : Opnd) (a : Opnd) (b : Opnd) : Statement (.add64 u d a b) := by
  intro w h; cases h; simp only [put]; have := bool_lt u; have := Opnd.code_lt d; have := Opnd.code_lt a; have := Opnd.code_lt b; omega
theorem mad64 (u : Bool) (d : Opnd) (a : Opnd) (b : Opnd) : Statement (.mad64 u d a b) := by
  intro w h; cases h; simp only [put]; have := bool_lt u; have := Opnd.code_lt d; have := Opnd.code_lt a; have := Opnd.code_lt b; omega
theorem clamp (u : Bool) (d : Opnd) (a : Opnd) (b : Opnd) : Statement (.clamp u d a b) := by
  intro w h; cases h; simp only [put]; have := bool_lt u; have := Opnd.code_lt d; have := Opnd.code_lt a; have := Opnd.code_lt b; omega
theorem addi (u : Bool) (d : Opnd) (i : BitVec 16) : Statement (.addi u d i) := by
  intro w h; cases h; simp only [put]; have := bool_lt u; have := Opnd.code_lt d; have := i.isLt; omega
theorem muli (u : Bool) (d : Opnd) (i : BitVec 16) : Statement (.muli u d i) := by
  intro w h; cases h; simp only [put]; have := bool_lt u; have := Opnd.code_lt d; have := i.isLt; omega
theorem and (u : Bool) (d : Opnd) (a : Opnd) (b : Opnd) : Statement (.and u d a b) := by
  intro w h; cases h; simp only [put]; have := bool_lt u; have := Opnd.code_lt d; have := Opnd.code_lt a; have := Opnd.code_lt b; omega
theorem or (u : Bool) (d : Opnd) (a : Opnd) (b : Opnd) : Statement (.or u d a b) := by
  intro w h; cases h; simp only [put]; have := bool_lt u; have := Opnd.code_lt d; have := Opnd.code_lt a; have := Opnd.code_lt b; omega
theorem xor (u : Bool) (d : Opnd) (a : Opnd) (b : Opnd) : Statement (.xor u d a b) := by
  intro w h; cases h; simp only [put]; have := bool_lt u; have := Opnd.code_lt d; have := Opnd.code_lt a; have := Opnd.code_lt b; omega
theorem not (u : Bool) (d : Opnd) (a : Opnd) : Statement (.not u d a) := by
  intro w h; cases h; simp only [put]; have := bool_lt u; have := Opnd.code_lt d; have := Opnd.code_lt a; omega
theorem andn (u : Bool) (d : Opnd) (a : Opnd) (b : Opnd) : Statement (.andn u d a b) := by
  intro w h; cases h; simp only [put]; have := bool_lt u; have := Opnd.code_lt d; have := Opnd.code_lt a; have := Opnd.code_lt b; omega
theorem shl (u : Bool) (d : Opnd) (a : Opnd) (b : Opnd) : Statement (.shl u d a b) := by
  intro w h; cases h; simp only [put]; have := bool_lt u; have := Opnd.code_lt d; have := Opnd.code_lt a; have := Opnd.code_lt b; omega
theorem shr (u : Bool) (d : Opnd) (a : Opnd) (b : Opnd) : Statement (.shr u d a b) := by
  intro w h; cases h; simp only [put]; have := bool_lt u; have := Opnd.code_lt d; have := Opnd.code_lt a; have := Opnd.code_lt b; omega
theorem sra (u : Bool) (d : Opnd) (a : Opnd) (b : Opnd) : Statement (.sra u d a b) := by
  intro w h; cases h; simp only [put]; have := bool_lt u; have := Opnd.code_lt d; have := Opnd.code_lt a; have := Opnd.code_lt b; omega
theorem rot (u : Bool) (d : Opnd) (a : Opnd) (b : Opnd) : Statement (.rot u d a b) := by
  intro w h; cases h; simp only [put]; have := bool_lt u; have := Opnd.code_lt d; have := Opnd.code_lt a; have := Opnd.code_lt b; omega
theorem popc (u : Bool) (d : Opnd) (a : Opnd) : Statement (.popc u d a) := by
  intro w h; cases h; simp only [put]; have := bool_lt u; have := Opnd.code_lt d; have := Opnd.code_lt a; omega
theorem clz (u : Bool) (d : Opnd) (a : Opnd) : Statement (.clz u d a) := by
  intro w h; cases h; simp only [put]; have := bool_lt u; have := Opnd.code_lt d; have := Opnd.code_lt a; omega
theorem brev (u : Bool) (d : Opnd) (a : Opnd) : Statement (.brev u d a) := by
  intro w h; cases h; simp only [put]; have := bool_lt u; have := Opnd.code_lt d; have := Opnd.code_lt a; omega
theorem bfx (u : Bool) (d : Opnd) (a : Opnd) (b : Opnd) : Statement (.bfx u d a b) := by
  intro w h; cases h; simp only [put]; have := bool_lt u; have := Opnd.code_lt d; have := Opnd.code_lt a; have := Opnd.code_lt b; omega
theorem bfi (u : Bool) (d : Opnd) (a : Opnd) (b : Opnd) : Statement (.bfi u d a b) := by
  intro w h; cases h; simp only [put]; have := bool_lt u; have := Opnd.code_lt d; have := Opnd.code_lt a; have := Opnd.code_lt b; omega
theorem perm (u : Bool) (d : Opnd) (a : Opnd) (b : Opnd) : Statement (.perm u d a b) := by
  intro w h; cases h; simp only [put]; have := bool_lt u; have := Opnd.code_lt d; have := Opnd.code_lt a; have := Opnd.code_lt b; omega
theorem ffs (u : Bool) (d : Opnd) (a : Opnd) : Statement (.ffs u d a) := by
  intro w h; cases h; simp only [put]; have := bool_lt u; have := Opnd.code_lt d; have := Opnd.code_lt a; omega
theorem ceq (u : Bool) (p : BitVec 6) (c : BitVec 2) (a : Opnd) (b : Opnd) : Statement (.ceq u p c a b) := by
  intro w h; cases h; simp only [put]; have := bool_lt u; have := p.isLt; have := c.isLt; have := Opnd.code_lt a; have := Opnd.code_lt b; omega
theorem cne (u : Bool) (p : BitVec 6) (c : BitVec 2) (a : Opnd) (b : Opnd) : Statement (.cne u p c a b) := by
  intro w h; cases h; simp only [put]; have := bool_lt u; have := p.isLt; have := c.isLt; have := Opnd.code_lt a; have := Opnd.code_lt b; omega
theorem clt (u : Bool) (p : BitVec 6) (c : BitVec 2) (a : Opnd) (b : Opnd) : Statement (.clt u p c a b) := by
  intro w h; cases h; simp only [put]; have := bool_lt u; have := p.isLt; have := c.isLt; have := Opnd.code_lt a; have := Opnd.code_lt b; omega
theorem cle (u : Bool) (p : BitVec 6) (c : BitVec 2) (a : Opnd) (b : Opnd) : Statement (.cle u p c a b) := by
  intro w h; cases h; simp only [put]; have := bool_lt u; have := p.isLt; have := c.isLt; have := Opnd.code_lt a; have := Opnd.code_lt b; omega
theorem cgt (u : Bool) (p : BitVec 6) (c : BitVec 2) (a : Opnd) (b : Opnd) : Statement (.cgt u p c a b) := by
  intro w h; cases h; simp only [put]; have := bool_lt u; have := p.isLt; have := c.isLt; have := Opnd.code_lt a; have := Opnd.code_lt b; omega
theorem cge (u : Bool) (p : BitVec 6) (c : BitVec 2) (a : Opnd) (b : Opnd) : Statement (.cge u p c a b) := by
  intro w h; cases h; simp only [put]; have := bool_lt u; have := p.isLt; have := c.isLt; have := Opnd.code_lt a; have := Opnd.code_lt b; omega
theorem cun (u : Bool) (p : BitVec 6) (c : BitVec 2) (a : Opnd) (b : Opnd) : Statement (.cun u p c a b) := by
  intro w h; cases h; simp only [put]; have := bool_lt u; have := p.isLt; have := c.isLt; have := Opnd.code_lt a; have := Opnd.code_lt b; omega
theorem cclass (u : Bool) (p : BitVec 6) (c : BitVec 2) (a : Opnd) (b : Opnd) : Statement (.cclass u p c a b) := by
  intro w h; cases h; simp only [put]; have := bool_lt u; have := p.isLt; have := c.isLt; have := Opnd.code_lt a; have := Opnd.code_lt b; omega
theorem plog (u : Bool) (p : BitVec 6) (c : BitVec 2) (f : BitVec 2) (ia : Bool) (qa : BitVec 6) (ib : Bool) (qb : BitVec 6) : Statement (.plog u p c f ia qa ib qb) := by
  intro w h; cases h; simp only [put]; have := bool_lt u; have := p.isLt; have := c.isLt; have := f.isLt; have := bool_lt ia; have := qa.isLt; have := bool_lt ib; have := qb.isLt; omega
theorem ptov (u : Bool) (d : Opnd) (a : BitVec 8) (b : BitVec 8) : Statement (.ptov u d a b) := by
  intro w h; cases h; simp only [put]; have := bool_lt u; have := Opnd.code_lt d; have := a.isLt; have := b.isLt; omega
theorem vtop (u : Bool) (p : BitVec 6) (c : BitVec 2) (a : Opnd) (b : Opnd) : Statement (.vtop u p c a b) := by
  intro w h; cases h; simp only [put]; have := bool_lt u; have := p.isLt; have := c.isLt; have := Opnd.code_lt a; have := Opnd.code_lt b; omega
theorem pset (u : Bool) (p : BitVec 6) (c : BitVec 2) (a : Opnd) (b : Opnd) : Statement (.pset u p c a b) := by
  intro w h; cases h; simp only [put]; have := bool_lt u; have := p.isLt; have := c.isLt; have := Opnd.code_lt a; have := Opnd.code_lt b; omega
theorem shfl (d : Opnd) (a : Opnd) (b : Opnd) : Statement (.shfl d a b) := by
  intro w h; cases h; simp only [put]; have := Opnd.code_lt d; have := Opnd.code_lt a; have := Opnd.code_lt b; omega
theorem shfx (d : Opnd) (a : Opnd) (b : Opnd) : Statement (.shfx d a b) := by
  intro w h; cases h; simp only [put]; have := Opnd.code_lt d; have := Opnd.code_lt a; have := Opnd.code_lt b; omega
theorem laneAny (p : BitVec 6) (n : Bool) (q : BitVec 6) : Statement (.laneAny p n q) := by
  intro w h; cases h; simp only [put]; have := p.isLt; have := bool_lt n; have := q.isLt; omega
theorem laneAll (p : BitVec 6) (n : Bool) (q : BitVec 6) : Statement (.laneAll p n q) := by
  intro w h; cases h; simp only [put]; have := p.isLt; have := bool_lt n; have := q.isLt; omega
theorem laneBallot (d : Opnd) (n : Bool) (q : BitVec 6) : Statement (.laneBallot d n q) := by
  intro w h; cases h; simp only [put]; have := Opnd.code_lt d; have := bool_lt n; have := q.isLt; omega
theorem laneBcast (d : Opnd) (a : Opnd) : Statement (.laneBcast d a) := by
  intro w h; cases h; simp only [put]; have := Opnd.code_lt d; have := Opnd.code_lt a; omega
theorem laneCount (d : Opnd) (n : Bool) (q : BitVec 6) : Statement (.laneCount d n q) := by
  intro w h; cases h; simp only [put]; have := Opnd.code_lt d; have := bool_lt n; have := q.isLt; omega
theorem laneFirst (d : Opnd) (n : Bool) (q : BitVec 6) : Statement (.laneFirst d n q) := by
  intro w h; cases h; simp only [put]; have := Opnd.code_lt d; have := bool_lt n; have := q.isLt; omega
theorem laneRnd (d : Opnd) : Statement (.laneRnd d) := by
  intro w h; cases h; simp only [put]; have := Opnd.code_lt d; omega
theorem laneRadd (d : Opnd) (a : Opnd) : Statement (.laneRadd d a) := by
  intro w h; cases h; simp only [put]; have := Opnd.code_lt d; have := Opnd.code_lt a; omega
theorem laneRmin (d : Opnd) (a : Opnd) : Statement (.laneRmin d a) := by
  intro w h; cases h; simp only [put]; have := Opnd.code_lt d; have := Opnd.code_lt a; omega
theorem laneRmax (d : Opnd) (a : Opnd) : Statement (.laneRmax d a) := by
  intro w h; cases h; simp only [put]; have := Opnd.code_lt d; have := Opnd.code_lt a; omega
theorem laneRband (d : Opnd) (a : Opnd) : Statement (.laneRband d a) := by
  intro w h; cases h; simp only [put]; have := Opnd.code_lt d; have := Opnd.code_lt a; omega
theorem laneRbor (d : Opnd) (a : Opnd) : Statement (.laneRbor d a) := by
  intro w h; cases h; simp only [put]; have := Opnd.code_lt d; have := Opnd.code_lt a; omega
theorem laneRbxor (d : Opnd) (a : Opnd) : Statement (.laneRbxor d a) := by
  intro w h; cases h; simp only [put]; have := Opnd.code_lt d; have := Opnd.code_lt a; omega
theorem laneScan (d : Opnd) (a : Opnd) : Statement (.laneScan d a) := by
  intro w h; cases h; simp only [put]; have := Opnd.code_lt d; have := Opnd.code_lt a; omega
theorem regrpGive (u : Bool) (p : BitVec 6) (a : Opnd) : Statement (.regrpGive u p a) := by
  intro w h; cases h; simp only [put]; have := bool_lt u; have := p.isLt; have := Opnd.code_lt a; omega
theorem regrpTake (u : Bool) (p : BitVec 6) (a : Opnd) : Statement (.regrpTake u p a) := by
  intro w h; cases h; simp only [put]; have := bool_lt u; have := p.isLt; have := Opnd.code_lt a; omega
theorem fms (u : Bool) (d : Opnd) (a : Opnd) (b : Opnd) : Statement (.fms u d a b) := by
  intro w h; cases h; simp only [put]; have := bool_lt u; have := Opnd.code_lt d; have := Opnd.code_lt a; have := Opnd.code_lt b; omega
theorem fnma (u : Bool) (d : Opnd) (a : Opnd) (b : Opnd) : Statement (.fnma u d a b) := by
  intro w h; cases h; simp only [put]; have := bool_lt u; have := Opnd.code_lt d; have := Opnd.code_lt a; have := Opnd.code_lt b; omega
theorem rcp (u : Bool) (d : Opnd) (a : Opnd) : Statement (.rcp u d a) := by
  intro w h; cases h; simp only [put]; have := bool_lt u; have := Opnd.code_lt d; have := Opnd.code_lt a; omega
theorem rsq (u : Bool) (d : Opnd) (a : Opnd) : Statement (.rsq u d a) := by
  intro w h; cases h; simp only [put]; have := bool_lt u; have := Opnd.code_lt d; have := Opnd.code_lt a; omega
theorem sqrt (u : Bool) (d : Opnd) (a : Opnd) : Statement (.sqrt u d a) := by
  intro w h; cases h; simp only [put]; have := bool_lt u; have := Opnd.code_lt d; have := Opnd.code_lt a; omega
theorem exp2 (u : Bool) (d : Opnd) (a : Opnd) : Statement (.exp2 u d a) := by
  intro w h; cases h; simp only [put]; have := bool_lt u; have := Opnd.code_lt d; have := Opnd.code_lt a; omega
theorem log2 (u : Bool) (d : Opnd) (a : Opnd) : Statement (.log2 u d a) := by
  intro w h; cases h; simp only [put]; have := bool_lt u; have := Opnd.code_lt d; have := Opnd.code_lt a; omega
theorem sinp (u : Bool) (d : Opnd) (a : Opnd) : Statement (.sinp u d a) := by
  intro w h; cases h; simp only [put]; have := bool_lt u; have := Opnd.code_lt d; have := Opnd.code_lt a; omega
theorem cosp (u : Bool) (d : Opnd) (a : Opnd) : Statement (.cosp u d a) := by
  intro w h; cases h; simp only [put]; have := bool_lt u; have := Opnd.code_lt d; have := Opnd.code_lt a; omega
theorem frac (u : Bool) (d : Opnd) (a : Opnd) : Statement (.frac u d a) := by
  intro w h; cases h; simp only [put]; have := bool_lt u; have := Opnd.code_lt d; have := Opnd.code_lt a; omega
theorem rint (u : Bool) (d : Opnd) (a : Opnd) : Statement (.rint u d a) := by
  intro w h; cases h; simp only [put]; have := bool_lt u; have := Opnd.code_lt d; have := Opnd.code_lt a; omega
theorem cvt (u : Bool) (d : Opnd) (a : Opnd) (f : BitVec 3) (t : BitVec 4) : Statement (.cvt u d a f t) := by
  intro w h; cases h; simp only [put]; have := bool_lt u; have := Opnd.code_lt d; have := Opnd.code_lt a; have := f.isLt; have := t.isLt; omega
theorem pack (u : Bool) (d : Opnd) (a : Opnd) (f : BitVec 3) (t : BitVec 4) : Statement (.pack u d a f t) := by
  intro w h; cases h; simp only [put]; have := bool_lt u; have := Opnd.code_lt d; have := Opnd.code_lt a; have := f.isLt; have := t.isLt; omega
theorem unpack (u : Bool) (d : Opnd) (a : Opnd) (f : BitVec 3) (t : BitVec 4) : Statement (.unpack u d a f t) := by
  intro w h; cases h; simp only [put]; have := bool_lt u; have := Opnd.code_lt d; have := Opnd.code_lt a; have := f.isLt; have := t.isLt; omega
theorem dot (u : Bool) (d : Opnd) (a : Opnd) (b : Opnd) : Statement (.dot u d a b) := by
  intro w h; cases h; simp only [put]; have := bool_lt u; have := Opnd.code_lt d; have := Opnd.code_lt a; have := Opnd.code_lt b; omega
theorem ld8 (u : Bool) (d : Opnd) (a : Opnd) (o : BitVec 8) : Statement (.ld8 u d a o) := by
  intro w h; cases h; simp only [put]; have := bool_lt u; have := Opnd.code_lt d; have := Opnd.code_lt a; have := o.isLt; omega
theorem ld16 (u : Bool) (d : Opnd) (a : Opnd) (o : BitVec 8) : Statement (.ld16 u d a o) := by
  intro w h; cases h; simp only [put]; have := bool_lt u; have := Opnd.code_lt d; have := Opnd.code_lt a; have := o.isLt; omega
theorem ld32 (u : Bool) (d : Opnd) (a : Opnd) (o : BitVec 8) : Statement (.ld32 u d a o) := by
  intro w h; cases h; simp only [put]; have := bool_lt u; have := Opnd.code_lt d; have := Opnd.code_lt a; have := o.isLt; omega
theorem ld64 (u : Bool) (d : Opnd) (a : Opnd) (o : BitVec 8) : Statement (.ld64 u d a o) := by
  intro w h; cases h; simp only [put]; have := bool_lt u; have := Opnd.code_lt d; have := Opnd.code_lt a; have := o.isLt; omega
theorem ld128 (u : Bool) (d : Opnd) (a : Opnd) (o : BitVec 8) : Statement (.ld128 u d a o) := by
  intro w h; cases h; simp only [put]; have := bool_lt u; have := Opnd.code_lt d; have := Opnd.code_lt a; have := o.isLt; omega
theorem st8 (u : Bool) (d : Opnd) (a : Opnd) (o : BitVec 8) : Statement (.st8 u d a o) := by
  intro w h; cases h; simp only [put]; have := bool_lt u; have := Opnd.code_lt d; have := Opnd.code_lt a; have := o.isLt; omega
theorem st16 (u : Bool) (d : Opnd) (a : Opnd) (o : BitVec 8) : Statement (.st16 u d a o) := by
  intro w h; cases h; simp only [put]; have := bool_lt u; have := Opnd.code_lt d; have := Opnd.code_lt a; have := o.isLt; omega
theorem st32 (u : Bool) (d : Opnd) (a : Opnd) (o : BitVec 8) : Statement (.st32 u d a o) := by
  intro w h; cases h; simp only [put]; have := bool_lt u; have := Opnd.code_lt d; have := Opnd.code_lt a; have := o.isLt; omega
theorem st64 (u : Bool) (d : Opnd) (a : Opnd) (o : BitVec 8) : Statement (.st64 u d a o) := by
  intro w h; cases h; simp only [put]; have := bool_lt u; have := Opnd.code_lt d; have := Opnd.code_lt a; have := o.isLt; omega
theorem st128 (u : Bool) (d : Opnd) (a : Opnd) (o : BitVec 8) : Statement (.st128 u d a o) := by
  intro w h; cases h; simp only [put]; have := bool_lt u; have := Opnd.code_lt d; have := Opnd.code_lt a; have := o.isLt; omega
theorem lda (u : Bool) (d : Opnd) (a : Opnd) (o : BitVec 8) : Statement (.lda u d a o) := by
  intro w h; cases h; simp only [put]; have := bool_lt u; have := Opnd.code_lt d; have := Opnd.code_lt a; have := o.isLt; omega
theorem strl (u : Bool) (d : Opnd) (a : Opnd) (o : BitVec 8) : Statement (.strl u d a o) := by
  intro w h; cases h; simp only [put]; have := bool_lt u; have := Opnd.code_lt d; have := Opnd.code_lt a; have := o.isLt; omega
theorem fenceFull (u : Bool) : Statement (.fenceFull u) := by
  intro w h; cases h; simp only [put]; have := bool_lt u; omega
theorem fenceAcq (u : Bool) : Statement (.fenceAcq u) := by
  intro w h; cases h; simp only [put]; have := bool_lt u; omega
theorem fenceRel (u : Bool) : Statement (.fenceRel u) := by
  intro w h; cases h; simp only [put]; have := bool_lt u; omega
theorem fenceEngine (u : Bool) : Statement (.fenceEngine u) := by
  intro w h; cases h; simp only [put]; have := bool_lt u; omega
theorem cmoClean (u : Bool) (l : BitVec 4) (a : Opnd) (b : Opnd) : Statement (.cmoClean u l a b) := by
  intro w h; cases h; simp only [put]; have := bool_lt u; have := l.isLt; have := Opnd.code_lt a; have := Opnd.code_lt b; omega
theorem cmoInv (u : Bool) (l : BitVec 4) (a : Opnd) (b : Opnd) : Statement (.cmoInv u l a b) := by
  intro w h; cases h; simp only [put]; have := bool_lt u; have := l.isLt; have := Opnd.code_lt a; have := Opnd.code_lt b; omega
theorem cmoCinv (u : Bool) (l : BitVec 4) (a : Opnd) (b : Opnd) : Statement (.cmoCinv u l a b) := by
  intro w h; cases h; simp only [put]; have := bool_lt u; have := l.isLt; have := Opnd.code_lt a; have := Opnd.code_lt b; omega
theorem cmoSettle (u : Bool) (l : BitVec 4) (a : Opnd) (b : Opnd) : Statement (.cmoSettle u l a b) := by
  intro w h; cases h; simp only [put]; have := bool_lt u; have := l.isLt; have := Opnd.code_lt a; have := Opnd.code_lt b; omega
theorem pref (u : Bool) (l : Bool) (a : Opnd) (o : BitVec 8) : Statement (.pref u l a o) := by
  intro w h; cases h; simp only [put]; have := bool_lt u; have := bool_lt l; have := Opnd.code_lt a; have := o.isLt; omega
theorem dtag (u : Bool) (d : Opnd) (a : Opnd) (o : BitVec 8) : Statement (.dtag u d a o) := by
  intro w h; cases h; simp only [put]; have := bool_lt u; have := Opnd.code_lt d; have := Opnd.code_lt a; have := o.isLt; omega
theorem aadd (u : Bool) (d : Opnd) (a : Opnd) (b : Opnd) : Statement (.aadd u d a b) := by
  intro w h; cases h; simp only [put]; have := bool_lt u; have := Opnd.code_lt d; have := Opnd.code_lt a; have := Opnd.code_lt b; omega
theorem amin (u : Bool) (d : Opnd) (a : Opnd) (b : Opnd) : Statement (.amin u d a b) := by
  intro w h; cases h; simp only [put]; have := bool_lt u; have := Opnd.code_lt d; have := Opnd.code_lt a; have := Opnd.code_lt b; omega
theorem amax (u : Bool) (d : Opnd) (a : Opnd) (b : Opnd) : Statement (.amax u d a b) := by
  intro w h; cases h; simp only [put]; have := bool_lt u; have := Opnd.code_lt d; have := Opnd.code_lt a; have := Opnd.code_lt b; omega
theorem aand (u : Bool) (d : Opnd) (a : Opnd) (b : Opnd) : Statement (.aand u d a b) := by
  intro w h; cases h; simp only [put]; have := bool_lt u; have := Opnd.code_lt d; have := Opnd.code_lt a; have := Opnd.code_lt b; omega
theorem aor (u : Bool) (d : Opnd) (a : Opnd) (b : Opnd) : Statement (.aor u d a b) := by
  intro w h; cases h; simp only [put]; have := bool_lt u; have := Opnd.code_lt d; have := Opnd.code_lt a; have := Opnd.code_lt b; omega
theorem axor (u : Bool) (d : Opnd) (a : Opnd) (b : Opnd) : Statement (.axor u d a b) := by
  intro w h; cases h; simp only [put]; have := bool_lt u; have := Opnd.code_lt d; have := Opnd.code_lt a; have := Opnd.code_lt b; omega
theorem axchg (u : Bool) (d : Opnd) (a : Opnd) (b : Opnd) : Statement (.axchg u d a b) := by
  intro w h; cases h; simp only [put]; have := bool_lt u; have := Opnd.code_lt d; have := Opnd.code_lt a; have := Opnd.code_lt b; omega
theorem acas (u : Bool) (d : Opnd) (a : Opnd) (b : Opnd) : Statement (.acas u d a b) := by
  intro w h; cases h; simp only [put]; have := bool_lt u; have := Opnd.code_lt d; have := Opnd.code_lt a; have := Opnd.code_lt b; omega
theorem dplate (u : Bool) (d : Opnd) (a : Opnd) (o : BitVec 8) : Statement (.dplate u d a o) := by
  intro w h; cases h; simp only [put]; have := bool_lt u; have := Opnd.code_lt d; have := Opnd.code_lt a; have := o.isLt; omega
theorem dpub (d : Opnd) (n : BitVec 8) : Statement (.dpub d n) := by
  intro w h; cases h; simp only [put]; have := Opnd.code_lt d; have := n.isLt; omega
theorem galRes (u : Bool) (d : Opnd) (a : Opnd) : Statement (.galRes u d a) := by
  intro w h; cases h; simp only [put]; have := bool_lt u; have := Opnd.code_lt d; have := Opnd.code_lt a; omega
theorem galCom (u : Bool) (d : Opnd) (a : Opnd) : Statement (.galCom u d a) := by
  intro w h; cases h; simp only [put]; have := bool_lt u; have := Opnd.code_lt d; have := Opnd.code_lt a; omega
theorem galTake (u : Bool) (d : Opnd) (a : Opnd) : Statement (.galTake u d a) := by
  intro w h; cases h; simp only [put]; have := bool_lt u; have := Opnd.code_lt d; have := Opnd.code_lt a; omega
theorem galFree (u : Bool) (d : Opnd) (a : Opnd) : Statement (.galFree u d a) := by
  intro w h; cases h; simp only [put]; have := bool_lt u; have := Opnd.code_lt d; have := Opnd.code_lt a; omega
theorem fpop (u : Bool) (d : Opnd) (a : Opnd) (p : BitVec 6) : Statement (.fpop u d a p) := by
  intro w h; cases h; simp only [put]; have := bool_lt u; have := Opnd.code_lt d; have := Opnd.code_lt a; have := p.isLt; omega
theorem br (u : Bool) (p : BitVec 6) (n : Bool) (o : BitVec 16) : Statement (.br u p n o) := by
  intro w h; cases h; simp only [put]; have := bool_lt u; have := p.isLt; have := bool_lt n; have := o.isLt; omega
theorem jmp (u : Bool) (a : Opnd) : Statement (.jmp u a) := by
  intro w h; cases h; simp only [put]; have := bool_lt u; have := Opnd.code_lt a; omega
theorem call (u : Bool) (p : BitVec 6) (n : Bool) (o : BitVec 16) : Statement (.call u p n o) := by
  intro w h; cases h; simp only [put]; have := bool_lt u; have := p.isLt; have := bool_lt n; have := o.isLt; omega
theorem callr (u : Bool) (a : Opnd) : Statement (.callr u a) := by
  intro w h; cases h; simp only [put]; have := bool_lt u; have := Opnd.code_lt a; omega
theorem ret : Statement (.ret) := by
  intro w h; cases h; simp only [put]; omega
theorem exit (u : Bool) : Statement (.exit u) := by
  intro w h; cases h; simp only [put]; have := bool_lt u; omega
theorem exitSuccessor (u : Bool) (a : Opnd) : Statement (.exitSuccessor u a) := by
  intro w h; cases h; simp only [put]; have := bool_lt u; have := Opnd.code_lt a; omega
theorem barMeet (u : Bool) (d : BitVec 8) : Statement (.barMeet u d) := by
  intro w h; cases h; simp only [put]; have := bool_lt u; have := d.isLt; omega
theorem barPost (u : Bool) (d : BitVec 8) : Statement (.barPost u d) := by
  intro w h; cases h; simp only [put]; have := bool_lt u; have := d.isLt; omega
theorem barAwait (u : Bool) (d : BitVec 8) : Statement (.barAwait u d) := by
  intro w h; cases h; simp only [put]; have := bool_lt u; have := d.isLt; omega
theorem waitv (u : Bool) (d : Opnd) (a : Opnd) (b : Opnd) : Statement (.waitv u d a b) := by
  intro w h; cases h; simp only [put]; have := bool_lt u; have := Opnd.code_lt d; have := Opnd.code_lt a; have := Opnd.code_lt b; omega
theorem spawn (u : Bool) (r : BitVec 5) (a : Opnd) (n : BitVec 8) : Statement (.spawn u r a n) := by
  intro w h; cases h; simp only [put]; have := bool_lt u; have := r.isLt; have := Opnd.code_lt a; have := n.isLt; omega
theorem launch (u : Bool) (a : Opnd) : Statement (.launch u a) := by
  intro w h; cases h; simp only [put]; have := bool_lt u; have := Opnd.code_lt a; omega
theorem futWait (u : Bool) (d : Opnd) (a : Opnd) : Statement (.futWait u d a) := by
  intro w h; cases h; simp only [put]; have := bool_lt u; have := Opnd.code_lt d; have := Opnd.code_lt a; omega
theorem futTest (u : Bool) (d : Opnd) (a : Opnd) : Statement (.futTest u d a) := by
  intro w h; cases h; simp only [put]; have := bool_lt u; have := Opnd.code_lt d; have := Opnd.code_lt a; omega
theorem futCancel (u : Bool) (a : Opnd) : Statement (.futCancel u a) := by
  intro w h; cases h; simp only [put]; have := bool_lt u; have := Opnd.code_lt a; omega
theorem futAdopt (u : Bool) (d : Opnd) (a : Opnd) : Statement (.futAdopt u d a) := by
  intro w h; cases h; simp only [put]; have := bool_lt u; have := Opnd.code_lt d; have := Opnd.code_lt a; omega
theorem timCyc (u : Bool) (d : Opnd) : Statement (.timCyc u d) := by
  intro w h; cases h; simp only [put]; have := bool_lt u; have := Opnd.code_lt d; omega
theorem timWcyc (u : Bool) (a : Opnd) : Statement (.timWcyc u a) := by
  intro w h; cases h; simp only [put]; have := bool_lt u; have := Opnd.code_lt a; omega
theorem timPclass (u : Bool) (a : Opnd) : Statement (.timPclass u a) := by
  intro w h; cases h; simp only [put]; have := bool_lt u; have := Opnd.code_lt a; omega
theorem timYield (u : Bool) : Statement (.timYield u) := by
  intro w h; cases h; simp only [put]; have := bool_lt u; omega
theorem timLockq (u : Bool) (d : Opnd) (a : Opnd) : Statement (.timLockq u d a) := by
  intro w h; cases h; simp only [put]; have := bool_lt u; have := Opnd.code_lt d; have := Opnd.code_lt a; omega
theorem mma (r : Bool) (a : Opnd) (c : BitVec 6) (n : BitVec 2) (o : BitVec 3) (k : BitVec 4) : Statement (.mma r a c n o k) := by
  intro w h; cases h; simp only [put]; have := bool_lt r; have := Opnd.code_lt a; have := c.isLt; have := n.isLt; have := o.isLt; have := k.isLt; omega
theorem mmj (r : Bool) (a : Opnd) (c : BitVec 6) (n : BitVec 2) (o : BitVec 3) (k : BitVec 4) : Statement (.mmj r a c n o k) := by
  intro w h; cases h; simp only [put]; have := bool_lt r; have := Opnd.code_lt a; have := c.isLt; have := n.isLt; have := o.isLt; have := k.isLt; omega
theorem accZero (c : BitVec 6) (n : BitVec 2) (x : BitVec 3) : Statement (.accZero c n x) := by
  intro w h; cases h; simp only [put]; have := c.isLt; have := n.isLt; have := x.isLt; omega
theorem accLd (a : Opnd) (c : BitVec 6) (n : BitVec 2) (x : BitVec 3) : Statement (.accLd a c n x) := by
  intro w h; cases h; simp only [put]; have := Opnd.code_lt a; have := c.isLt; have := n.isLt; have := x.isLt; omega
theorem accSt (a : Opnd) (c : BitVec 6) (n : BitVec 2) (x : BitVec 3) : Statement (.accSt a c n x) := by
  intro w h; cases h; simp only [put]; have := Opnd.code_lt a; have := c.isLt; have := n.isLt; have := x.isLt; omega
theorem accRd (d : Opnd) (c : BitVec 6) (x : BitVec 3) : Statement (.accRd d c x) := by
  intro w h; cases h; simp only [put]; have := Opnd.code_lt d; have := c.isLt; have := x.isLt; omega
theorem accScale (a : Opnd) (c : BitVec 6) (n : BitVec 2) (x : BitVec 3) : Statement (.accScale a c n x) := by
  intro w h; cases h; simp only [put]; have := Opnd.code_lt a; have := c.isLt; have := n.isLt; have := x.isLt; omega
theorem smp (d : Opnd) (a : Opnd) (b : BitVec 5) : Statement (.smp d a b) := by
  intro w h; cases h; simp only [put]; have := Opnd.code_lt d; have := Opnd.code_lt a; have := b.isLt; omega
theorem engCopy (u : Bool) (d : Opnd) (a : Opnd) : Statement (.engCopy u d a) := by
  intro w h; cases h; simp only [put]; have := bool_lt u; have := Opnd.code_lt d; have := Opnd.code_lt a; omega
theorem engColl (u : Bool) (d : Opnd) (a : Opnd) : Statement (.engColl u d a) := by
  intro w h; cases h; simp only [put]; have := bool_lt u; have := Opnd.code_lt d; have := Opnd.code_lt a; omega
theorem engGath (u : Bool) (d : Opnd) (a : Opnd) : Statement (.engGath u d a) := by
  intro w h; cases h; simp only [put]; have := bool_lt u; have := Opnd.code_lt d; have := Opnd.code_lt a; omega
theorem engXfer (u : Bool) (d : Opnd) (a : Opnd) : Statement (.engXfer u d a) := by
  intro w h; cases h; simp only [put]; have := bool_lt u; have := Opnd.code_lt d; have := Opnd.code_lt a; omega
theorem engSmma (u : Bool) (d : Opnd) (a : Opnd) : Statement (.engSmma u d a) := by
  intro w h; cases h; simp only [put]; have := bool_lt u; have := Opnd.code_lt d; have := Opnd.code_lt a; omega
theorem engWpin (u : Bool) (d : Opnd) (a : Opnd) : Statement (.engWpin u d a) := by
  intro w h; cases h; simp only [put]; have := bool_lt u; have := Opnd.code_lt d; have := Opnd.code_lt a; omega
theorem engWinv (u : Bool) (d : Opnd) (a : Opnd) : Statement (.engWinv u d a) := by
  intro w h; cases h; simp only [put]; have := bool_lt u; have := Opnd.code_lt d; have := Opnd.code_lt a; omega
theorem sysTrap (u : Bool) (a : Opnd) : Statement (.sysTrap u a) := by
  intro w h; cases h; simp only [put]; have := bool_lt u; have := Opnd.code_lt a; omega
theorem sysBrk (u : Bool) (a : Opnd) : Statement (.sysBrk u a) := by
  intro w h; cases h; simp only [put]; have := bool_lt u; have := Opnd.code_lt a; omega
theorem sysPerf (u : Bool) (a : Opnd) : Statement (.sysPerf u a) := by
  intro w h; cases h; simp only [put]; have := bool_lt u; have := Opnd.code_lt a; omega
theorem primTri (d : Opnd) (a : Opnd) : Statement (.primTri d a) := by
  intro w h; cases h; simp only [put]; have := Opnd.code_lt d; have := Opnd.code_lt a; omega
theorem primEll (d : Opnd) (a : Opnd) : Statement (.primEll d a) := by
  intro w h; cases h; simp only [put]; have := Opnd.code_lt d; have := Opnd.code_lt a; omega
theorem primPt (d : Opnd) (a : Opnd) : Statement (.primPt d a) := by
  intro w h; cases h; simp only [put]; have := Opnd.code_lt d; have := Opnd.code_lt a; omega
theorem primCut : Statement (.primCut) := by
  intro w h; cases h; simp only [put]; omega
theorem primFout (a : Opnd) : Statement (.primFout a) := by
  intro w h; cases h; simp only [put]; have := Opnd.code_lt a; omega
theorem primKill : Statement (.primKill) := by
  intro w h; cases h; simp only [put]; omega
theorem starvedQueueEntry (gid : Nat) : Statement (.starvedQueueEntry gid) := by intro w h; cases h
theorem longLatencyCompletion (op : Nat) : Statement (.longLatencyCompletion op) := by intro w h; cases h
theorem groupRetire (gid : Nat) : Statement (.groupRetire gid) := by intro w h; cases h
theorem teamRetire (tid : Nat) : Statement (.teamRetire tid) := by intro w h; cases h
theorem regroupMove (donor : Nat) (receiver : Nat) : Statement (.regroupMove donor receiver) := by intro w h; cases h
theorem barrierWaveRelease (tid : Nat) (b : Nat) : Statement (.barrierWaveRelease tid b) := by intro w h; cases h
theorem placementWave (tid : Nat) : Statement (.placementWave tid) := by intro w h; cases h
theorem taskWaveTimeout (cluster : Nat) (wave : Nat) : Statement (.taskWaveTimeout cluster wave) := by intro w h; cases h
theorem taskWavePlacement (cluster : Nat) : Statement (.taskWavePlacement cluster) := by intro w h; cases h
theorem evaluatorPlacement (part : Nat) : Statement (.evaluatorPlacement part) := by intro w h; cases h
theorem waiterReplay (cell : Nat) : Statement (.waiterReplay cell) := by intro w h; cases h
theorem deferTimeout (cell : Nat) (op : Nat) : Statement (.deferTimeout cell op) := by intro w h; cases h
theorem matrixOperation (core : Nat) : Statement (.matrixOperation core) := by intro w h; cases h
theorem jointOperationStart (tid : Nat) : Statement (.jointOperationStart tid) := by intro w h; cases h
theorem jointTimeout (tid : Nat) : Statement (.jointTimeout tid) := by intro w h; cases h
theorem engineCompletion (eng : Nat) : Statement (.engineCompletion eng) := by intro w h; cases h
theorem launchComplete (launch : Nat) : Statement (.launchComplete launch) := by intro w h; cases h
theorem pendingLaunchAccept (tid : Nat) : Statement (.pendingLaunchAccept tid) := by intro w h; cases h
theorem teamPlacement (part : Nat) : Statement (.teamPlacement part) := by intro w h; cases h
theorem swapOut (tid : Nat) : Statement (.swapOut tid) := by intro w h; cases h
theorem waitvRecheck (gid : Nat) : Statement (.waitvRecheck gid) := by intro w h; cases h
theorem timWcycRelease (gid : Nat) : Statement (.timWcycRelease gid) := by intro w h; cases h
theorem translationWalk (core : Nat) (va : DWord) (wr : Bool) : Statement (.translationWalk core va wr) := by intro w h; cases h
theorem park (gid : Nat) : Statement (.park gid) := by intro w h; cases h
theorem parkedSwitchOut (part : Nat) : Statement (.parkedSwitchOut part) := by intro w h; cases h
theorem halt (part : Nat) : Statement (.halt part) := by intro w h; cases h
theorem preemptSave (part : Nat) : Statement (.preemptSave part) := by intro w h; cases h
theorem preemptTimeout (part : Nat) : Statement (.preemptTimeout part) := by intro w h; cases h
theorem watchdog (part : Nat) : Statement (.watchdog part) := by intro w h; cases h
theorem lockupBreach (op : Nat) : Statement (.lockupBreach op) := by intro w h; cases h
theorem referencePause (part : Nat) : Statement (.referencePause part) := by intro w h; cases h
theorem memoryRefresh : Statement (.memoryRefresh) := by intro w h; cases h
theorem scrubPass : Statement (.scrubPass) := by intro w h; cases h
theorem l2LineMigration (part : Nat) (line : Nat) (slice : Nat) : Statement (.l2LineMigration part line slice) := by intro w h; cases h
theorem telemetrySlot (cluster : Nat) (thermal : List Nat) (current : List Nat) (power : Nat) : Statement (.telemetrySlot cluster thermal current power) := by intro w h; cases h
theorem sensorFail (cluster : Nat) (kind : SensorKind) (idx : Nat) : Statement (.sensorFail cluster kind idx) := by intro w h; cases h
theorem limitStateChange (cluster : Nat) (src : LimitSource) (level : Nat) : Statement (.limitStateChange cluster src level) := by intro w h; cases h
theorem classChange (cluster : Nat) : Statement (.classChange cluster) := by intro w h; cases h
theorem droopStretch (cluster : Nat) : Statement (.droopStretch cluster) := by intro w h; cases h
theorem thermalStop : Statement (.thermalStop) := by intro w h; cases h
theorem doorbell (part : Nat) (queue : Nat) (value : DWord) : Statement (.doorbell part queue value) := by intro w h; cases h
theorem stoptail (part : Nat) (value : DWord) : Statement (.stoptail part value) := by intro w h; cases h
theorem launchPacket (part : Nat) (queue : Nat) : Statement (.launchPacket part queue) := by intro w h; cases h
theorem feed (part : Nat) (queue : Nat) : Statement (.feed part queue) := by intro w h; cases h
theorem wait (part : Nat) (queue : Nat) : Statement (.wait part queue) := by intro w h; cases h
theorem waitRecheck (part : Nat) (queue : Nat) : Statement (.waitRecheck part queue) := by intro w h; cases h
theorem signal (part : Nat) (queue : Nat) : Statement (.signal part queue) := by intro w h; cases h
theorem draw (part : Nat) (queue : Nat) : Statement (.draw part queue) := by intro w h; cases h
theorem copy (part : Nat) (queue : Nat) : Statement (.copy part queue) := by intro w h; cases h
theorem fence (part : Nat) (queue : Nat) : Statement (.fence part queue) := by intro w h; cases h
theorem indirect (part : Nat) (queue : Nat) : Statement (.indirect part queue) := by intro w h; cases h
theorem timestamp (part : Nat) (queue : Nat) : Statement (.timestamp part queue) := by intro w h; cases h
theorem nop (part : Nat) (queue : Nat) : Statement (.nop part queue) := by intro w h; cases h
theorem drawFrameAllocation (part : Nat) : Statement (.drawFrameAllocation part) := by intro w h; cases h
theorem fragmentGroupRelease (part : Nat) (draw : Nat) (tile : Nat) (count : Nat) : Statement (.fragmentGroupRelease part draw tile count) := by intro w h; cases h
theorem fragmentGroupPlacement (cluster : Nat) : Statement (.fragmentGroupPlacement cluster) := by intro w h; cases h
theorem tileFrameLoad (part : Nat) (draw : Nat) (tile : Nat) : Statement (.tileFrameLoad part draw tile) := by intro w h; cases h
theorem overprintFragment (part : Nat) (draw : Nat) (px : Nat) (py : Nat) : Statement (.overprintFragment part draw px py) := by intro w h; cases h
theorem tileWriteBack (part : Nat) (draw : Nat) (tile : Nat) : Statement (.tileWriteBack part draw tile) := by intro w h; cases h
theorem samplerQuad (core : Nat) (sampler : Nat) : Statement (.samplerQuad core sampler) := by intro w h; cases h
theorem weightFill (core : Nat) (sampler : Nat) : Statement (.weightFill core sampler) := by intro w h; cases h
theorem winvObserve (core : Nat) (sampler : Nat) : Statement (.winvObserve core sampler) := by intro w h; cases h
theorem hostWrite (src : Outside) (addr : Nat) (data : List Byte) : Statement (.hostWrite src addr data) := by intro w h; cases h
theorem hostRead (src : Outside) (addr : Nat) (n : Nat) : Statement (.hostRead src addr n) := by intro w h; cases h
theorem linkUnreachable (port : Nat) : Statement (.linkUnreachable port) := by intro w h; cases h
theorem pcieLinkTrained (width : Nat) (gen : Nat) : Statement (.pcieLinkTrained width gen) := by intro w h; cases h
theorem powerOn : Statement (.powerOn) := by intro w h; cases h
theorem create : Statement (.create) := by intro w h; cases h
theorem start : Statement (.start) := by intro w h; cases h
theorem preempt : Statement (.preempt) := by intro w h; cases h
theorem resume : Statement (.resume) := by intro w h; cases h
theorem kill : Statement (.kill) := by intro w h; cases h
theorem shootdown : Statement (.shootdown) := by intro w h; cases h
theorem parkres : Statement (.parkres) := by intro w h; cases h
theorem queue : Statement (.queue) := by intro w h; cases h
theorem qreset : Statement (.qreset) := by intro w h; cases h
theorem partition : Statement (.partition) := by intro w h; cases h
theorem update : Statement (.update) := by intro w h; cases h
theorem updateTakeover : Statement (.updateTakeover) := by intro w h; cases h
theorem attest : Statement (.attest) := by intro w h; cases h
theorem clear : Statement (.clear) := by intro w h; cases h
theorem hostAtomic (src : Outside) (kind : HostAtom) (addr : Nat) (wide : Bool) (x : DWord) (y : DWord) : Statement (.hostAtomic src kind addr wide x y) := by intro w h; cases h
theorem l1LineEviction (core : Nat) (line : Nat) : Statement (.l1LineEviction core line) := by intro w h; cases h
theorem writePerformed (core : Nat) (line : Nat) : Statement (.writePerformed core line) := by intro w h; cases h
theorem unitFailure (kind : UnitKind) (idx : Nat) : Statement (.unitFailure kind idx) := by intro w h; cases h

end Sys2Proof.Laws.Encodes
end

