-- ==== Sys2Proof/Tests/Slice0.lean ====
section
/-!
SUPPORT. Small tests: ill-formed terms that are refused, words written out from the encoding tables, and for every statement
with hypotheses a concrete state and operands that meet them.
-/
namespace Sys2Proof.Tests
open Sys2Proof Sys2Proof.Machine

set_option Elab.async false

/-! A small state with a gang that can issue: four lanes of 32 registers, two literal words, RETAG set. v0:v1 hold an address of
the scratchpad window, v2 the number 1, v4:v5 an address of a page that maps to itself, v6:v7 the same page as a DEF page. -/

def word (n : Nat) : Reg := { bits := BitVec.ofNat 32 n, tag := .raw }
def pair (n : Nat) : List Reg := [word n, word (n / 2 ^ 32)]

def tinyRegs (i : Nat) : List Reg :=
  pair (0xFFFFFF0000000000 + 256 * i) ++ [word 1, word 0] ++ pair (0x20000000 + 256 * i) ++ pair (2 ^ 42 + 0x20000000 + 256 * i) ++
    [word i, word 3, word 0x3F800000, word 0x40000000, word 1, word 1, word 1, word 1] ++
    pair (16 * i) ++ pair 0 ++ pair 0 ++ pair 0 ++ pair (0xFFFFFF0000000000 + 256 * i + 72) ++
    [word 0x02020E69, word 0x6400003F, word 0, word 0x00030001]

def tinyClause (w : Nat) : Clause :=
  { hdr := 0x10000#64, header := 0x07800021#32, words := [BitVec.ofNat 32 w, 0x0123#32, 0x0101#32] }

def tinyLane (w i : Nat) : Lane :=
  { newLane i 32 0x10004#64 (BitVec.ofNat 64 i) (stackTop 4096) (0x30000000 + 4096 * i) (tinyRegs i) false with clause := some (tinyClause w) }

def tinyShape : LaunchRec := { plainShape 0x10000#64 0 4 32 4096 with scratch := 65536, acc := 16 }

/-- RETAG set, the guard the constant 1, an ETYPE, SPIN 6, and further bits. -/
def tinyMode (ty more : Nat) : Word := BitVec.ofNat 32 (0x6400003F + 128 * ty + more)

def tinyGroup (w : Nat) (mode : Word) : Group :=
  { newGroup 0 0 0 0 4 32 0 0 0 0 0 (pair 0xFFFFFF0000000000 ++ [word 1, word 0] ++ pair 0x20000000) ((List.range 4).map (tinyLane w)) with mode := mode }

def tinyTeam : Team := newTeam 0 .launch 0 0 0 tinyShape [0] 1 0

/-- The root table: pages of 2^42 bytes, the first mapped to itself with every permission, the second to the same as a DEF page. -/
def tinyPages (m : Memory) : Memory := (m.setN 0x2000000 (leBytes 8 0xBB)).setN 0x2000008 (leBytes 8 0x7B)

def tinySel (w : Nat) : Sel := { gid := 0, pc := 0x10004#64, depth := 0, clause := some (tinyClause w) }

def tinyOf (g : Group) (t : Team) (w : Nat) : State :=
  { dev := { Dev.reset with
      groups := [g], teams := [t], sel := some (tinySel w), nextGid := 1, nextTid := 1, nextLno := 1, nextOp := 1,
      parts := [{ Part.reset with desc := some Desc.plain, run := .running }] },
    st := { Store.reset with mem := tinyPages [] } }

def tinyWith (w : Nat) (mode : Word) : State := tinyOf (tinyGroup w mode) tinyTeam w

/-- The state under an ETYPE. -/
def tiny (ty : Nat) : State := tinyWith 0 (tinyMode ty 0)

/-! How a Boolean check shows what a statement asks. -/

def ready (s : State) (c : Env → Bool) : Bool := match s.env? with
  | some e => e.g.canIssue s.dev && c e
  | none => false

theorem ready_env {s : State} {c : Env → Bool} (h : ready s c = true) : ∃ e, Ready s e ∧ c e = true := by
  unfold ready at h
  split at h
  · rename_i e he
    rw [Bool.and_eq_true] at h
    exact ⟨e, ⟨he, h.1⟩, h.2⟩
  · cases h

def clean (cs : List (Nat × Chk)) : Bool := cs.all (fun c => c.2.bad.isEmpty && !c.2.wait)

theorem clean_iff {cs : List (Nat × Chk)} (h : clean cs = true) : Clean cs := by
  intro c hc
  have := List.all_eq_true.mp h c hc
  simpa using this

def placeOf (e : Env) (need : Need) (r : Req) : Place :=
  match (e.agent r.lane).resolve e.s.st r.va need with | .ok p => p | _ => .scr 0

def places (e : Env) (need : Need) (rs : List Req) : List (Req × Place) := rs.map (fun r => (r, placeOf e need r))

def finds (e : Env) (align : Nat) (need : Need) (rs : List Req) : Bool :=
  rs.all (fun r => r.va % align == 0 && (e.agent r.lane).resolve e.s.st r.va need == .ok (placeOf e need r))

def reaches (e : Env) (n : Nat) (need : Need) (srcToo win : Bool) (rs : List Req) : Bool :=
  finds e n need rs && rs.all (fun r => !(win || decide (r.va < windowBase)) ||
    !e.s.dev.locked e.g.core srcToo (lockAt r.va (placeOf e need r), n))

theorem finds_places {e : Env} {n : Nat} {need : Need} {rs : List Req} (h : finds e n need rs = true) :
    Reaches e n need rs (places e need rs) := by
  simp only [finds, List.all_eq_true, Bool.and_eq_true, beq_iff_eq] at h
  refine ⟨fun r hr => (h r hr).1, by simp [places, Function.comp_def], ?_⟩
  intro p hp
  obtain ⟨r, hr, rfl⟩ := List.mem_map.mp hp
  exact (h r hr).2

theorem reaches_places {e : Env} {n : Nat} {need : Need} {a b : Bool} {rs : List Req} (h : reaches e n need a b rs = true) :
    Reached e n need a b rs (places e need rs) := by
  rw [reaches, Bool.and_eq_true] at h
  refine ⟨finds_places h.1, ?_⟩
  intro p hp hw
  obtain ⟨r, hr, rfl⟩ := List.mem_map.mp hp
  have := List.all_eq_true.mp h.2 r hr
  rcases hw with hw | hw <;> simp_all

theorem tiny_quiet (ty : Nat) : NoReplays (tiny ty) := by
  intro q
  simp only [tiny, tinyWith, tinyOf, Dev.part]
  cases q <;> rfl

theorem tiny_inv (ty : Nat) : Inv (tiny ty) := by
  show (tiny 0).st.wf = true
  decide +kernel

/-! Registers and predicates. -/

/-- Every instruction that writes registers, each under an ETYPE that it takes. -/
def valueCases : List (Nat × Instr) :=
  [(0, .mov false (.v 16) (.v 2)), (2, .mov true (.s 8) (.v 2)), (0, .movi false (.v 16) 7#16), (1, .movh false (.v 16) 7#16),
   (0, .sel false (.v 8) (.v 2) (.v 3)), (0, .retag false (.v 16) (.v 2) 3#8), (0, .tagof true (.s 8) (.s 2)),
   (0, .add false (.v 16) (.v 2) (.v 9)), (1, .sub false (.v 16) (.v 2) (.v 9)), (0, .mul false (.v 16) (.v 2) (.lit 0)),
   (0, .mulh false (.v 16) (.v 2) (.v 9)), (4, .mad false (.v 10) (.v 10) (.v 11)), (0, .div false (.v 16) (.v 9) (.v 2)),
   (1, .rem false (.v 16) (.v 9) (.v 2)), (4, .min false (.v 16) (.v 10) (.v 11)), (0, .max false (.v 16) (.v 9) (.v 2)),
   (0, .abs false (.v 16) (.v 9)), (0, .neg false (.v 16) (.v 9)), (0, .clamp false (.v 9) (.v 2) (.v 9)),
   (0, .add64 false (.v 16) (.v 4) (.v 9)), (0, .mad64 false (.v 4) (.v 2) (.v 9)), (0, .addi false (.v 9) 5#16),
   (1, .muli false (.v 9) 5#16), (0, .and false (.v 16) (.v 2) (.v 9)), (0, .or false (.v 16) (.v 2) (.v 9)),
   (0, .xor false (.v 16) (.v 2) (.v 9)), (0, .not false (.v 16) (.v 2)), (0, .andn false (.v 16) (.v 2) (.v 9)),
   (0, .shl false (.v 16) (.v 2) (.v 9)), (0, .shr false (.v 16) (.v 2) (.v 9)), (0, .sra false (.v 16) (.v 2) (.v 9)),
   (0, .rot false (.v 16) (.v 2) (.v 9)), (0, .popc false (.v 16) (.v 2)), (0, .clz false (.v 16) (.v 2)),
   (0, .brev false (.v 16) (.v 2)), (0, .ffs false (.v 16) (.v 2)), (0, .bfx false (.v 16) (.v 2) (.v 9)),
   (0, .bfi false (.v 16) (.v 2) (.v 9)), (0, .perm false (.v 16) (.v 2) (.lit 0)), (0, .ptov false (.v 16) 0#8 32#8),
   (4, .fms false (.v 10) (.v 10) (.v 11)), (4, .fnma false (.v 10) (.v 10) (.v 11)), (4, .rcp false (.v 16) (.v 11)),
   (4, .rsq false (.v 16) (.v 11)), (4, .sqrt false (.v 16) (.v 11)), (4, .exp2 false (.v 16) (.v 10)), (4, .log2 false (.v 16) (.v 10)),
   (4, .sinp false (.v 16) (.v 10)), (4, .cosp false (.v 16) (.v 10)), (4, .frac false (.v 16) (.v 10)), (4, .rint false (.v 16) (.v 10)),
   (4, .cvt false (.v 16) (.v 9) 0#3 0#4), (6, .pack false (.v 16) (.v 10) 0#3 4#4), (4, .unpack false (.v 16) (.v 10) 0#3 6#4),
   (11, .dot false (.v 16) (.v 12) (.v 12)), (0, .timCyc false (.v 16)), (0, .timLockq false (.v 16) (.v 3))]

theorem witness_register_writers : ∀ x ∈ valueCases, ∃ f e, valueForm x.2 = some f ∧ Ready (tiny x.1) e ∧
    Clean (valueChks e f.u f.d (f.shape e) f.val) := by
  have h : valueCases.all (fun x => match valueForm x.2 with
      | some f => ready (tiny x.1) (fun e => clean (valueChks e f.u f.d (f.shape e) f.val)) | none => false) = true := by decide +kernel
  intro x hx
  have := List.all_eq_true.mp h x hx
  split at this
  · rename_i f hf
    obtain ⟨e, hr, hc⟩ := ready_env this
    exact ⟨f, e, hf, hr, clean_iff hc⟩
  · cases this

/-- Compares and predicate logic, each under an ETYPE that it takes. -/
def predCases : List (Nat × Instr) :=
  [(0, .ceq false 5#6 0#2 (.v 2) (.v 9)), (0, .cne false 5#6 1#2 (.v 2) (.v 9)), (0, .clt false 5#6 2#2 (.v 2) (.v 9)),
   (0, .cle false 5#6 3#2 (.v 2) (.v 9)), (0, .cgt true 5#6 0#2 (.v 2) (.v 9)), (0, .cge false 63#6 0#2 (.v 2) (.v 9)),
   (4, .cun false 5#6 0#2 (.v 10) (.v 11)), (4, .cclass false 5#6 0#2 (.v 10) (.v 2)), (0, .plog false 5#6 0#2 2#2 true 1#6 false 63#6),
   (0, .vtop false 5#6 0#2 (.v 2) (.v 3)), (0, .pset false 5#6 0#2 (.v 2) (.v 9)), (1, .ceq false 5#6 0#2 (.v 2) (.v 9)),
   (1, .cne false 5#6 1#2 (.v 2) (.v 9)), (1, .clt false 5#6 2#2 (.v 2) (.v 9)), (1, .cle false 5#6 3#2 (.v 2) (.v 9)),
   (1, .cgt true 5#6 0#2 (.v 2) (.v 9)), (1, .cge false 63#6 0#2 (.v 2) (.v 9))]

theorem witness_predicate_writers : ∀ x ∈ predCases, ∃ f e, predForm x.2 = some f ∧ Ready (tiny x.1) e ∧
    Clean (e.readChks f.u (predRead f.p f.val e)) := by
  have h : predCases.all (fun x => match predForm x.2 with
      | some f => ready (tiny x.1) (fun e => clean (e.readChks f.u (predRead f.p f.val e))) | none => false) = true := by decide +kernel
  intro x hx
  have := List.all_eq_true.mp h x hx
  split at this
  · rename_i f hf
    obtain ⟨e, hr, hc⟩ := ready_env this
    exact ⟨f, e, hf, hr, clean_iff hc⟩
  · cases this

/-- Writes of group state: each selector of `mode`, the format and overprint maps, and MODE as a special register. -/
def groupCases : List Instr :=
  [.mode 0#8 0x003F#16, .mode 1#8 0x6400#16, .mode 2#8 4#16, .mode 3#8 5#16, .mode 4#8 1#16, .mode 5#8 1#16, .mode 6#8 7#16, .mode 7#8 4#16,
   .mode 8#8 3#16, .mode 9#8 1#16, .mode 10#8 1#16, .mode 11#8 1#16, .mode 12#8 15#16, .guard true 47#6, .guard false 63#6,
   .fmt 7#8 (.v 26), .omap 7#8 (.v 28), .wrsr true (.v 27) 0x0A#16]

theorem witness_group_writers : ∀ i ∈ groupCases, ∃ f e, groupForm i = some f ∧ Ready (tiny 0) e ∧ Clean (groupChks e f.u f.rd) := by
  have h : groupCases.all (fun i => match groupForm i with
      | some f => ready (tiny 0) (fun e => clean (groupChks e f.u f.rd)) | none => false) = true := by decide +kernel
  intro i hi
  have := List.all_eq_true.mp h i hi
  split at this
  · rename_i f hf
    obtain ⟨e, hr, hc⟩ := ready_env this
    exact ⟨f, e, hf, hr, clean_iff hc⟩
  · cases this

/-- Writes of lanes' own state. -/
def laneCases : List Instr :=
  [.xset false 7#3 0#8 191#8, .xset true 0#3 191#8 0#8, .xoff false 3#3 (.v 9), .xadd false 3#3 (.v 9), .wrsr false (.v 2) 0x0C#16,
   .wrsr false (.v 4) 0x0E#16]

theorem witness_lane_writers : ∀ i ∈ laneCases, ∃ f e, laneForm i = some f ∧ Ready (tiny 0) e ∧ Clean (e.readChks f.u (f.rd e)) := by
  have h : laneCases.all (fun i => match laneForm i with
      | some f => ready (tiny 0) (fun e => clean (e.readChks f.u (f.rd e))) | none => false) = true := by decide +kernel
  intro i hi
  have := List.all_eq_true.mp h i hi
  split at this
  · rename_i f hf
    obtain ⟨e, hr, hc⟩ := ready_env this
    exact ⟨f, e, hf, hr, clean_iff hc⟩
  · cases this

/-- Every special register that `rdsr` reads. -/
def srReads : List (BitVec 16) := (List.range 0x14).map (BitVec.ofNat 16)

theorem witness_rdsr : ∀ k ∈ srReads, ∃ e, Ready (tiny 0) e ∧ Clean (valueChks e false (.v 16) (rdsrShape k e) (rdsrVal k)) := by
  have h : srReads.all (fun k => ready (tiny 0) (fun e => clean (valueChks e false (.v 16) (rdsrShape k e) (rdsrVal k)))) = true := by
    decide +kernel
  intro k hk
  obtain ⟨e, hr, hc⟩ := ready_env (List.all_eq_true.mp h k hk)
  exact ⟨e, hr, clean_iff hc⟩

/-- Shuffles, ballots, broadcasts, reductions and scans. -/
def crossCases : List (Nat × Instr) :=
  [(0, .shfl (.v 16) (.v 9) (.v 2)), (0, .shfx (.v 16) (.v 9) (.v 2)), (0, .laneBallot (.v 16) false 5#6), (0, .laneBcast (.v 16) (.v 9)),
   (0, .laneCount (.v 16) true 63#6), (0, .laneFirst (.v 16) false 63#6), (0, .laneRnd (.v 16)), (0, .laneRadd (.v 16) (.v 9)),
   (0, .laneRmin (.v 16) (.v 9)), (4, .laneRmax (.v 16) (.v 10)), (0, .laneScan (.v 16) (.v 9)), (0, .laneRband (.v 16) (.v 9)),
   (0, .laneRbor (.v 16) (.v 9)), (0, .laneRbxor (.v 16) (.v 9))]

theorem witness_lane_family : ∀ x ∈ crossCases, ∃ f e, crossForm x.2 = some f ∧ Ready (tiny x.1) e ∧
    Clean (laneChks e f.d (f.shape e) f.rd) := by
  have h : crossCases.all (fun x => match crossForm x.2 with
      | some f => ready (tiny x.1) (fun e => clean (laneChks e f.d (f.shape e) f.rd)) | none => false) = true := by decide +kernel
  intro x hx
  have := List.all_eq_true.mp h x hx
  split at this
  · rename_i f hf
    obtain ⟨e, hr, hc⟩ := ready_env this
    exact ⟨f, e, hf, hr, clean_iff hc⟩
  · cases this

/-- A ballot in a group of 64 lanes, whose result is a pair. -/
theorem witness_wide_ballot : ∃ e, Ready (tinyOf { tinyGroup 0 (tinyMode 0 0) with width := 64 } tinyTeam 0) e ∧ e.g.width = 64 ∧
    Clean (laneChks e (.v 16) (ballotShape e) (countRead false 5#6)) := by
  have h : ready (tinyOf { tinyGroup 0 (tinyMode 0 0) with width := 64 } tinyTeam 0) (fun e => decide (e.g.width = 64) &&
    clean (laneChks e (.v 16) (ballotShape e) (countRead false 5#6))) = true := by decide +kernel
  obtain ⟨e, hr, hc⟩ := ready_env h
  simp only [Bool.and_eq_true, decide_eq_true_eq] at hc
  exact ⟨e, hr, hc.1, clean_iff hc.2⟩

/-- Votes, with predicates that exist, with the constant, and with ones that do not. -/
theorem witness_votes : ∃ e, Ready (tiny 0) e ∧ predOk (5#6).toNat = true ∧ ((63#6 : BitVec 6).toNat < 48 ∨ (63#6 : BitVec 6) = 63#6) ∧
    (48 ≤ (48#6).toNat ∧ (48#6 : BitVec 6) ≠ 63#6) := by
  obtain ⟨e, hr, _⟩ := ready_env (show ready (tiny 0) (fun _ => true) = true by decide +kernel)
  exact ⟨e, hr, by decide, by decide, by decide⟩

/-! Memory. -/

def settled (s : State) (q : Nat) (pl : Place) : Bool :=
  !pl.deferred || (s.st.cellTag (cellOf pl.base) == 0 && !(s.dev.part q).replaying.contains (cellOf pl.base))

/-- Loads, `lda`, `dtag` and atomics, in the scratchpad, in memory and on a DEF page. -/
def longCases : List (Nat × Instr) :=
  [(0, .ld8 false (.v 16) (.v 0) 3#8), (0, .ld16 false (.v 16) (.v 4) 3#8), (0, .ld32 false (.v 16) (.v 4) 3#8),
   (3, .ld64 false (.v 16) (.v 4) 3#8), (4, .ld128 false (.v 16) (.v 0) 3#8), (0, .lda false (.v 16) (.v 4) 0#8),
   (0, .dtag false (.v 16) (.v 6) 0#8), (0, .aadd false (.v 16) (.v 0) (.v 9)), (0, .amin false (.v 16) (.v 4) (.v 9)),
   (0, .amax false (.v 16) (.v 4) (.v 9)), (0, .aand false (.v 16) (.v 4) (.v 9)), (0, .aor false (.v 16) (.v 4) (.v 9)),
   (0, .axor false (.v 16) (.v 4) (.v 9)), (0, .axchg false .sink (.v 4) (.v 9)), (0, .acas false (.v 16) (.v 4) (.v 8)),
   (0, .ld32 true (.s 8) (.s 4) 3#8)]

theorem witness_loads_and_atomics : ∀ x ∈ longCases, ∃ f e ps, longForm x.2 = some f ∧ Ready (tiny x.1) e ∧ Inv (tiny x.1) ∧ Clean (longChks e f.u f.d f.k) ∧
    e.g.flagFull e.flag = false ∧ Reached e (f.k.spec e).size f.k.need f.k.srcToo true (longReqs e f.u f.d f.k) ps ∧
    (∀ p ∈ ps, f.k.refuse e p.1 p.2 = false) ∧ spillStops e f.k ps = [] ∧ e.orderStops (f.k.spec e).size ps = false ∧
    ∀ p ∈ ps, SettledAt (tiny x.1) e.g.part p.2 := by
  have h : longCases.all (fun x => match longForm x.2 with
      | some f => (tiny x.1).st.wf && ready (tiny x.1) (fun e =>
          let ps := places e f.k.need (longReqs e f.u f.d f.k)
          clean (longChks e f.u f.d f.k) && !e.g.flagFull e.flag && reaches e (f.k.spec e).size f.k.need f.k.srcToo true (longReqs e f.u f.d f.k) &&
          ps.all (fun p => !f.k.refuse e p.1 p.2) && (spillStops e f.k ps).isEmpty && !e.orderStops (f.k.spec e).size ps &&
          ps.all (fun p => settled (tiny x.1) e.g.part p.2))
      | none => false) = true := by decide +kernel
  intro x hx
  have := List.all_eq_true.mp h x hx
  split at this
  · rename_i f hf
    rw [Bool.and_eq_true] at this
    obtain ⟨e, hr, hc⟩ := ready_env this.2
    simp only [Bool.and_eq_true, Bool.not_eq_true', List.all_eq_true, List.isEmpty_iff] at hc
    obtain ⟨⟨⟨⟨⟨⟨h1, h2⟩, h3⟩, h4⟩, h5⟩, h6⟩, h7⟩ := hc
    refine ⟨f, e, _, hf, hr, this.1, clean_iff h1, h2, reaches_places h3, h4, h5, h6, ?_⟩
    intro p hp hd
    have := h7 p hp
    simpa [settled, hd] using this
  · cases this

/-- An exact add of each lane, in memory: DET, under F32. -/
def exactAdds : State := (tinyWith 0 (tinyMode 4 (2 ^ 27))).onDev (fun d =>
  d.modPart 0 (fun p => { p with desc := some { Desc.plain with poolW := 4 } }))
theorem witness_exact_adds : ∃ f e ps, longForm (.aadd false (.v 16) (.v 4) (.v 10)) = some f ∧ Ready exactAdds e ∧ Inv exactAdds ∧
    Clean (longChks e f.u f.d f.k) ∧ e.g.flagFull e.flag = false ∧ (f.k.spec e).kind.isDet = true ∧
    Reached e (f.k.spec e).size f.k.need f.k.srcToo true (longReqs e f.u f.d f.k) ps ∧ (∀ p ∈ ps, f.k.refuse e p.1 p.2 = false) ∧
    spillStops e f.k ps = [] ∧ e.orderStops (f.k.spec e).size ps = false ∧ (∀ p ∈ ps, p.2.deferred = false) ∧
    ∀ p ∈ ps, (e.touchAll f.k.writes ps (e.settleReads (longChks e f.u f.d f.k) exactAdds)).dead e.g.core p.2 = false := by
  have h : (match longForm (.aadd false (.v 16) (.v 4) (.v 10)) with
      | some f => exactAdds.st.wf && ready exactAdds (fun e =>
          let ps := places e f.k.need (longReqs e f.u f.d f.k)
          clean (longChks e f.u f.d f.k) && !e.g.flagFull e.flag && (f.k.spec e).kind.isDet &&
          reaches e (f.k.spec e).size f.k.need f.k.srcToo true (longReqs e f.u f.d f.k) && ps.all (fun p => !f.k.refuse e p.1 p.2) &&
          (spillStops e f.k ps).isEmpty && !e.orderStops (f.k.spec e).size ps && ps.all (fun p => !p.2.deferred) &&
          ps.all (fun p => !(e.touchAll f.k.writes ps (e.settleReads (longChks e f.u f.d f.k) exactAdds)).dead e.g.core p.2))
      | none => false) = true := by decide +kernel
  split at h
  · rename_i f hf
    rw [Bool.and_eq_true] at h
    obtain ⟨e, hr, hc⟩ := ready_env h.2
    simp only [Bool.and_eq_true, Bool.not_eq_true', List.all_eq_true, List.isEmpty_iff] at hc
    obtain ⟨⟨⟨⟨⟨⟨⟨⟨h1, h2⟩, h3⟩, h4⟩, h5⟩, h6⟩, h7⟩, h8⟩, h9⟩ := hc
    exact ⟨f, e, _, hf, hr, h.1, clean_iff h1, h2, h3, reaches_places h4, h5, h6, h7, h8, h9⟩
  · cases h

/-- Stores, in the scratchpad and in memory. -/
def storeCases : List (Nat × Instr) :=
  [(0, .st8 false (.v 9) (.v 0) 3#8), (0, .st16 false (.v 9) (.v 4) 3#8), (0, .st32 false (.v 9) (.v 4) 3#8),
   (0, .st64 false (.v 8) (.v 4) 3#8), (0, .st128 false (.v 8) (.v 6) 3#8), (0, .st32 true (.s 2) (.s 4) 3#8)]

theorem witness_stores : ∀ x ∈ storeCases, ∃ f e ps, storeForm x.2 = some f ∧ Ready (tiny x.1) e ∧ Inv (tiny x.1) ∧ NoReplays (tiny x.1) ∧
    Clean (e.readChks f.u (f.k.read e)) ∧ Reached e (f.k.size e) .write true true (storeReqs e f.u f.k) ps ∧
    e.orderStops (f.k.size e) ps = false ∧ ∀ p ∈ ps, (tiny x.1).isPrinting p.2 = false := by
  have h : storeCases.all (fun x => match storeForm x.2 with
      | some f => (tiny x.1).st.wf && ready (tiny x.1) (fun e =>
          let ps := places e .write (storeReqs e f.u f.k)
          clean (e.readChks f.u (f.k.read e)) && reaches e (f.k.size e) .write true true (storeReqs e f.u f.k) &&
          !e.orderStops (f.k.size e) ps && ps.all (fun p => !(tiny x.1).isPrinting p.2))
      | none => false) = true := by decide +kernel
  intro x hx
  have := List.all_eq_true.mp h x hx
  split at this
  · rename_i f hf
    rw [Bool.and_eq_true] at this
    obtain ⟨e, hr, hc⟩ := ready_env this.2
    simp only [Bool.and_eq_true, Bool.not_eq_true', List.all_eq_true] at hc
    obtain ⟨⟨⟨h1, h2⟩, h3⟩, h4⟩ := hc
    exact ⟨f, e, _, hf, hr, this.1, tiny_quiet x.1, clean_iff h1, reaches_places h2, h3, h4⟩
  · cases this

theorem witness_strl : ∃ e ps, Ready (tiny 0) e ∧ Inv (tiny 0) ∧ NoReplays (tiny 0) ∧ Clean (e.readChks false ((strlOp (.v 9) (.v 4) 1#8).read e)) ∧
    Reached e (typeSize e) .write true true (storeReqs e false (strlOp (.v 9) (.v 4) 1#8)) ps ∧ e.orderStops (typeSize e) ps = false ∧
    (∀ p ∈ ps, (tiny 0).isPrinting p.2 = false) ∧ ∀ p ∈ ps, e.s.dev.laneHas e.g.gid p.1.lane.lid (fun _ => true) = false := by
  have h : ((tiny 0).st.wf && ready (tiny 0) (fun e =>
      let k := strlOp (.v 9) (.v 4) 1#8
      let ps := places e .write (storeReqs e false k)
      clean (e.readChks false (k.read e)) && reaches e (typeSize e) .write true true (storeReqs e false k) && !e.orderStops (typeSize e) ps &&
      ps.all (fun p => !(tiny 0).isPrinting p.2) && ps.all (fun p => !e.s.dev.laneHas e.g.gid p.1.lane.lid (fun _ => true)))) = true := by
    decide +kernel
  rw [Bool.and_eq_true] at h
  obtain ⟨e, hr, hc⟩ := ready_env h.2
  simp only [Bool.and_eq_true, Bool.not_eq_true', List.all_eq_true] at hc
  obtain ⟨⟨⟨⟨h1, h2⟩, h3⟩, h4⟩, h5⟩ := hc
  exact ⟨e, _, hr, h.1, tiny_quiet 0, clean_iff h1, reaches_places h2, h3, h4, h5⟩

theorem witness_dplate : ∃ e ps, Ready (tiny 0) e ∧ Inv (tiny 0) ∧ NoReplays (tiny 0) ∧ Clean (e.readChks false ((plateOp (.v 16) (.v 6) 0#8).read e)) ∧
    (∀ r ∈ storeReqs e false (plateOp (.v 16) (.v 6) 0#8), field r.data 0 4 % 4 = 0) ∧
    Reached e 16 .write true true (storeReqs e false (plateOp (.v 16) (.v 6) 0#8)) ps ∧ (∀ p ∈ ps, notDeferred e p.2 = false) ∧
    e.orderStops 16 ps = false ∧ ∀ p ∈ ps, (tiny 0).isPrinting p.2 = false := by
  have h : ((tiny 0).st.wf && ready (tiny 0) (fun e =>
      let k := plateOp (.v 16) (.v 6) 0#8
      let ps := places e .write (storeReqs e false k)
      clean (e.readChks false (k.read e)) && (storeReqs e false k).all (fun r => decide (field r.data 0 4 % 4 = 0)) &&
      reaches e 16 .write true true (storeReqs e false k) && ps.all (fun p => !notDeferred e p.2) && !e.orderStops 16 ps &&
      ps.all (fun p => !(tiny 0).isPrinting p.2))) = true := by decide +kernel
  rw [Bool.and_eq_true] at h
  obtain ⟨e, hr, hc⟩ := ready_env h.2
  simp only [Bool.and_eq_true, Bool.not_eq_true', List.all_eq_true, decide_eq_true_eq] at hc
  obtain ⟨⟨⟨⟨⟨h1, h2⟩, h3⟩, h4⟩, h5⟩, h6⟩ := hc
  exact ⟨e, _, hr, h.1, tiny_quiet 0, clean_iff h1, h2, reaches_places h3, h4, h5, h6⟩

/-- An evaluator's lanes, which hold tickets and have not published. -/
def printer : State := tinyOf { tinyGroup 0 (tinyMode 0 0) with lanes := (List.range 4).map (fun i => { tinyLane 0 i with ticket := 7#32 }) }
  { tinyTeam with kind := .evaluator } 0

theorem witness_dpub : Inv printer ∧ ∃ e, Ready printer e ∧ Clean (e.readChks false (dpubRead (.v 8) 16#8 e)) ∧ ∀ l ∈ e.passing, l.ticket ≠ 0 ∧
    l.published = false ∧ e.s.dev.locked e.g.core true (l.cellVa.toNat, 16) = false ∧
    e.s.dev.laneHas e.g.gid l.lid (fun _ => true) = false := by
  have h : ready printer (fun e => clean (e.readChks false (dpubRead (.v 8) 16#8 e)) && decide (∀ l ∈ e.passing, l.ticket ≠ 0 ∧
    l.published = false ∧ e.s.dev.locked e.g.core true (l.cellVa.toNat, 16) = false ∧
    e.s.dev.laneHas e.g.gid l.lid (fun _ => true) = false)) = true := by decide +kernel
  obtain ⟨e, hr, hc⟩ := ready_env h
  simp only [Bool.and_eq_true, decide_eq_true_eq] at hc
  exact ⟨by unfold Machine.Inv; decide +kernel, e, hr, clean_iff hc.1, hc.2⟩

/-- Fences, `pref` and `cmo`. -/
def cmoCases : List Instr :=
  [.cmoClean false 0#4 (.v 4) (.v 9), .cmoInv true 1#4 (.s 4) (.const .zero), .cmoCinv false 3#4 (.v 4) (.v 9),
   .cmoSettle false 2#4 (.v 4) (.v 9)]

theorem witness_fences : ∀ i ∈ [Instr.fenceFull false, .fenceAcq false, .fenceRel false, .fenceEngine true], ∃ k e,
    fenceForm i = some k ∧ Ready (tiny 0) e := by
  obtain ⟨e, hr, _⟩ := ready_env (show ready (tiny 0) (fun _ => true) = true by decide +kernel)
  intro i hi
  simp only [List.mem_cons, List.not_mem_nil, or_false] at hi
  rcases hi with rfl | rfl | rfl | rfl <;> exact ⟨_, e, rfl, hr⟩

theorem witness_pref : ∃ e, Ready (tiny 0) e ∧ Clean (e.readChks false (prefVa (.v 4) 1#8 e)) := by
  obtain ⟨e, hr, hc⟩ := ready_env (show ready (tiny 0) (fun e => clean (e.readChks false (prefVa (.v 4) 1#8 e))) = true by decide +kernel)
  exact ⟨e, hr, clean_iff hc⟩

theorem witness_cmo : ∀ i ∈ cmoCases, ∃ f e, cmoForm i = some f ∧ Ready (tiny 0) e ∧ Clean (e.readChks f.u (cmoRead f.level f.a f.b e)) ∧
    (∀ x ∈ cmoChecks e f.kind (cmoRanges e f.u f.level f.a f.b), ∃ ks, x.2 = .ok ks) ∧
    ∀ r ∈ cmoRanges e f.u f.level f.a f.b, r.2.2 ≠ 0 →
      e.s.dev.locked e.g.core (f.kind != 0) (if f.kind = 1 then r.2 else lineRange r.2.1 r.2.2) = false := by
  have h : cmoCases.all (fun i => match cmoForm i with
      | some f => ready (tiny 0) (fun e => clean (e.readChks f.u (cmoRead f.level f.a f.b e)) &&
          (cmoChecks e f.kind (cmoRanges e f.u f.level f.a f.b)).all (fun x => match x.2 with | .ok _ => true | .bad _ => false) &&
          (cmoRanges e f.u f.level f.a f.b).all (fun r => !e.s.dev.locked e.g.core (f.kind != 0) (if f.kind = 1 then r.2 else lineRange r.2.1 r.2.2)))
      | none => false) = true := by decide +kernel
  intro i hi
  have := List.all_eq_true.mp h i hi
  split at this
  · rename_i f hf
    obtain ⟨e, hr, hc⟩ := ready_env this
    simp only [Bool.and_eq_true, Bool.not_eq_true', List.all_eq_true] at hc
    refine ⟨f, e, hf, hr, clean_iff hc.1.1, ?_, fun r hr _ => hc.2 r hr⟩
    intro x hx
    have := hc.1.2 x hx
    cases hk : x.2 with
    | ok ks => exact ⟨ks, rfl⟩
    | bad c => rw [hk] at this; cases this
  · cases this

/-! Control, exits, meetings. -/

theorem ready_tiny : ∃ e, Ready (tiny 0) e := by
  obtain ⟨e, hr, _⟩ := ready_env (show ready (tiny 0) (fun _ => true) = true by decide +kernel)
  exact ⟨e, hr⟩

theorem witness_br : ∃ e, Ready (tiny 0) e ∧ Clean (e.branchChks false 5#6 true) := by
  obtain ⟨e, hr, hc⟩ := ready_env (show ready (tiny 0) (fun e => clean (e.branchChks false 5#6 true)) = true by decide +kernel)
  exact ⟨e, hr, clean_iff hc⟩

theorem witness_jmp : ∃ e, Ready (tiny 0) e ∧ Clean (e.readChks false (targetRead (.v 4) e)) ∧ ∀ t ∈ targets e false (.v 4), t.2 % 4 = 0 := by
  obtain ⟨e, hr, hc⟩ := ready_env (show ready (tiny 0) (fun e => clean (e.readChks false (targetRead (.v 4) e)) &&
    (targets e false (.v 4)).all (fun t => decide (t.2 % 4 = 0))) = true by decide +kernel)
  simp only [Bool.and_eq_true, List.all_eq_true, decide_eq_true_eq] at hc
  exact ⟨e, hr, clean_iff hc.1, hc.2⟩

theorem witness_call : ∃ e ps, Ready (tiny 0) e ∧ Clean (e.branchChks false 63#6 false) ∧ callDeep (callTakers e false 63#6 false 8#16) = [] ∧
    callOdd (callTakers e false 63#6 false 8#16) = [] ∧ callLow e (callTakers e false 63#6 false 8#16) = [] ∧
    Reached e 8 .write true false (callReqs e (callTakers e false 63#6 false 8#16)) ps ∧ e.orderStops 8 ps = false ∧
    Inv (tiny 0) ∧ NoReplays (tiny 0) ∧ ∀ p ∈ ps, (tiny 0).isPrinting p.2 = false := by
  obtain ⟨e, hr, hc⟩ := ready_env (show ready (tiny 0) (fun e =>
    let ts := callTakers e false 63#6 false 8#16
    clean (e.branchChks false 63#6 false) && (callDeep ts).isEmpty && (callOdd ts).isEmpty && (callLow e ts).isEmpty &&
    reaches e 8 .write true false (callReqs e ts) && !e.orderStops 8 (places e .write (callReqs e ts)) &&
    (places e .write (callReqs e ts)).all (fun p => !(tiny 0).isPrinting p.2)) = true by decide +kernel)
  simp only [Bool.and_eq_true, Bool.not_eq_true', List.isEmpty_iff, List.all_eq_true] at hc
  obtain ⟨⟨⟨⟨⟨⟨h1, h2⟩, h3⟩, h4⟩, h5⟩, h6⟩, h7⟩ := hc
  exact ⟨e, _, hr, clean_iff h1, h2, h3, h4, reaches_places h5, h6, tiny_inv 0, tiny_quiet 0, h7⟩

theorem witness_callr : ∃ e ps, Ready (tiny 0) e ∧ Clean (e.readChks true (targetRead (.s 4) e)) ∧ (∀ t ∈ targets e true (.s 4), t.2 % 4 = 0) ∧
    callDeep (targets e true (.s 4)) = [] ∧ callOdd (targets e true (.s 4)) = [] ∧ callLow e (targets e true (.s 4)) = [] ∧
    Reached e 8 .write true false (callReqs e (targets e true (.s 4))) ps ∧ e.orderStops 8 ps = false ∧
    Inv (tiny 0) ∧ NoReplays (tiny 0) ∧ ∀ p ∈ ps, (tiny 0).isPrinting p.2 = false := by
  obtain ⟨e, hr, hc⟩ := ready_env (show ready (tiny 0) (fun e =>
    let ts := targets e true (.s 4)
    clean (e.readChks true (targetRead (.s 4) e)) && ts.all (fun t => decide (t.2 % 4 = 0)) && (callDeep ts).isEmpty && (callOdd ts).isEmpty &&
    (callLow e ts).isEmpty && reaches e 8 .write true false (callReqs e ts) && !e.orderStops 8 (places e .write (callReqs e ts)) &&
    (places e .write (callReqs e ts)).all (fun p => !(tiny 0).isPrinting p.2)) = true by decide +kernel)
  simp only [Bool.and_eq_true, Bool.not_eq_true', List.isEmpty_iff, List.all_eq_true, decide_eq_true_eq] at hc
  obtain ⟨⟨⟨⟨⟨⟨⟨h1, h2⟩, h3⟩, h4⟩, h5⟩, h6⟩, h7⟩, h8⟩ := hc
  exact ⟨e, _, hr, clean_iff h1, h2, h3, h4, h5, reaches_places h6, h7, tiny_inv 0, tiny_quiet 0, h8⟩

/-- Lanes one call deep, their stack pointers a slot below the top. -/
def deep : State := { tinyOf { tinyGroup 0 (tinyMode 0 0) with lanes := (List.range 4).map (fun i =>
    { tinyLane 0 i with depth := 1, sp := stackTop 4096 - 8#64 }) } tinyTeam 0 with
  dev := { (tiny 0).dev with sel := some { tinySel 0 with depth := 1 }, groups := [{ tinyGroup 0 (tinyMode 0 0) with
    lanes := (List.range 4).map (fun i => { tinyLane 0 i with depth := 1, sp := stackTop 4096 - 8#64 }) }] } }

theorem witness_ret : ∃ e ps, Ready deep e ∧ (∀ l ∈ e.lanes, l.depth ≠ 0) ∧ Reached e 8 .read false true (retReqs e) ps ∧
    e.orderStops 8 ps = false ∧ ∀ p ∈ ps, (e.touchAll false ps deep).dead e.g.core p.2 = false ∧ p.2.deferred = false := by
  obtain ⟨e, hr, hc⟩ := ready_env (show ready deep (fun e => decide (∀ l ∈ e.lanes, l.depth ≠ 0) && reaches e 8 .read false true (retReqs e) &&
    !e.orderStops 8 (places e .read (retReqs e)) && (places e .read (retReqs e)).all (fun p =>
      !(e.touchAll false (places e .read (retReqs e)) deep).dead e.g.core p.2 && !p.2.deferred)) = true by decide +kernel)
  simp only [Bool.and_eq_true, Bool.not_eq_true', decide_eq_true_eq, List.all_eq_true] at hc
  exact ⟨e, _, hr, hc.1.1.1, reaches_places hc.1.1.2, hc.1.2, hc.2⟩

/-- A launch record of one team of one group. -/
def record : List Byte :=
  leBytes 8 0x10000 ++ leBytes 8 0 ++ leBytes 4 1 ++ leBytes 4 0x00010001 ++ leBytes 4 0 ++ leBytes 4 4096 ++ List.replicate 96 0

def withBytes (s : State) (a : Nat) (bs : List Byte) : State := s.onSt (fun st => { st with mem := tinyPages (Memory.setN [] a bs) })

theorem witness_exit : (∃ e, Ready (tiny 0) e) ∧ ∃ e, Ready (tiny 0) e ∧ ∀ l ∈ e.g.lanes, l.ticket = 0 ∧ l.frag = none := by
  refine ⟨ready_tiny, ?_⟩
  obtain ⟨e, hr, hc⟩ := ready_env (show ready (tiny 0) (fun e => decide (∀ l ∈ e.g.lanes, l.ticket = 0 ∧ l.frag = none)) = true by decide +kernel)
  exact ⟨e, hr, decide_eq_true_eq.mp hc⟩

/-- A fifth lane stands elsewhere. -/
def split : State := tinyOf { tinyGroup 0 (tinyMode 0 0) with lanes := (List.range 4).map (tinyLane 0) ++ [newLane 4 32 0x20000#64 4#64 0#64 0 [] false] }
  tinyTeam 0

theorem witness_exit_not_last : Inv split ∧ ∃ e, Ready split e ∧ Clean (e.readChks true (targetRead (.s 4) e)) ∧ e.isLast = false ∧
    ∀ l ∈ e.g.lanes, l.ticket = 0 ∧ l.frag = none := by
  obtain ⟨e, hr, hc⟩ := ready_env (show ready split (fun e => clean (e.readChks true (targetRead (.s 4) e)) && !e.isLast &&
    decide (∀ l ∈ e.g.lanes, l.ticket = 0 ∧ l.frag = none)) = true by decide +kernel)
  simp only [Bool.and_eq_true, Bool.not_eq_true', decide_eq_true_eq] at hc
  exact ⟨by unfold Machine.Inv; decide +kernel, e, hr, clean_iff hc.1.1, hc.1.2, hc.2⟩

def cellsReady (e : Env) (n : Nat) (ps : List (Req × Place)) : Bool :=
  let o := e.holdOp .load 16 [] (cellsOf n ps)
  ps.all (fun p => !e.s.dead e.g.core p.2) && o.accs.all (fun x => (e.s.cellBar o x).isNone)

theorem cellsReady_iff {e : Env} {n : Nat} {ps : List (Req × Place)} (h : cellsReady e n ps = true) : CellsReady e n ps := by
  have h := (Bool.and_eq_true _ _).mp h
  exact ⟨fun p hp => by simpa using List.all_eq_true.mp h.1 p hp,
    fun x hx => Option.isNone_iff_eq_none.mp (List.all_eq_true.mp h.2 x hx)⟩

def spans (e : Env) (n : Nat) (rs : List (Lane × Nat)) : Bool :=
  reaches e n .read false true (rs.map (fun r => { lane := r.1, va := r.2, data := [], writers := [] })) &&
  cellsReady e n (places e .read (rs.map (fun r => { lane := r.1, va := r.2, data := [], writers := [] }))) &&
  reaches e 1 .read false true (rs.map (fun r => { lane := r.1, va := r.2 + n - 1, data := [], writers := [] }))

theorem spans_reached {e : Env} {n : Nat} {rs : List (Lane × Nat)} (h : spans e n rs = true) :
    SpanReached e n rs (places e .read (rs.map (fun r => { lane := r.1, va := r.2, data := [], writers := [] }))) := by
  rw [spans, Bool.and_eq_true, Bool.and_eq_true] at h
  exact ⟨reaches_places h.1.1, cellsReady_iff h.1.2, _, reaches_places h.2⟩

theorem witness_exit_successor : Inv (withBytes (tiny 0) 0x20000000 record) ∧ ∃ e ps, Ready (withBytes (tiny 0) 0x20000000 record) e ∧ Clean (e.readChks false (targetRead (.v 4) e)) ∧
    e.isLast = true ∧ succOdd e false (.v 4) = [] ∧ e.t.kind ≠ .task ∧ e.t.kind ≠ .evaluator ∧ e.t.shape.quad = false ∧
    SpanReached e 128 [(e.leader, succVa e false (.v 4))] ps ∧ e.recordStops ps = false ∧
    succOk (succState e false (.v 4) ps) e (succBytes (succState e false (.v 4) ps) e ps) = true ∧
    successorFits e.t.shape (LaunchRec.ofBytes (succBytes (succState e false (.v 4) ps) e ps)) = true ∧
    ∀ l ∈ e.g.lanes, l.ticket = 0 ∧ l.frag = none := by
  obtain ⟨e, hr, hc⟩ := ready_env (show ready (withBytes (tiny 0) 0x20000000 record) (fun e =>
    let ps := places e .read [{ lane := e.leader, va := succVa e false (.v 4), data := [], writers := [] }]
    let t := succState e false (.v 4) ps
    clean (e.readChks false (targetRead (.v 4) e)) && e.isLast && (succOdd e false (.v 4)).isEmpty &&
    decide (e.t.kind ≠ .task ∧ e.t.kind ≠ .evaluator ∧ e.t.shape.quad = false) && spans e 128 [(e.leader, succVa e false (.v 4))] &&
    !e.recordStops ps && succOk t e (succBytes t e ps) && successorFits e.t.shape (LaunchRec.ofBytes (succBytes t e ps)) &&
    decide (∀ l ∈ e.g.lanes, l.ticket = 0 ∧ l.frag = none)) = true by decide +kernel)
  simp only [Bool.and_eq_true, Bool.not_eq_true', List.isEmpty_iff, decide_eq_true_eq] at hc
  obtain ⟨⟨⟨⟨⟨⟨⟨⟨h1, h2⟩, h3⟩, h4⟩, h5⟩, h5'⟩, h6⟩, h7⟩, h8⟩ := hc
  exact ⟨by unfold Machine.Inv; decide +kernel, e, _, hr, clean_iff h1, h2, h3, h4.1, h4.2.1, h4.2.2, spans_reached h5, h5', h6, h7, h8⟩

/-- Two groups of one team on one core, and what a barrier remembers of the first. -/
def twins (last : Option Nat) (ph : Nat) : State :=
  let s := tinyOf { tinyGroup 0 (tinyMode 0 0) with barLast := List.replicate 16 last }
    { tinyTeam with nGroups := 2, barriers := List.replicate 16 { ph := ph, arrived := [], marks := [], flip := none, leaving := [], after := [], due := 0 } } 0
  s.onDev (fun d => { d with groups := d.groups ++ [{ newGroup 1 0 0 1 4 32 0 0 1 1 0 [] [newLane 0 32 0x10000#64 4#64 0#64 0 [] false] with lanes :=
    [newLane 0 32 0x10000#64 4#64 0#64 0 [] false, newLane 1 32 0x10000#64 5#64 0#64 0 [] true] }] })

theorem witness_regroup : ∀ give ∈ [true, false], ∃ e peer, Ready (twins none 0) e ∧ Clean (e.readChks true (regrpRead 5#6 (.lit 1) e)) ∧
    e.regroupPeer give (regrpVal e 5#6 (.lit 1)) = some peer ∧ e.converged = .yes := by
  have h : [true, false].all (fun give => ready (twins none 0) (fun e => clean (e.readChks true (regrpRead 5#6 (.lit 1) e)) &&
    (e.regroupPeer give (regrpVal e 5#6 (.lit 1))).isSome && decide (e.converged = .yes))) = true := by decide +kernel
  intro give hg
  obtain ⟨e, hr, hc⟩ := ready_env (List.all_eq_true.mp h give hg)
  simp only [Bool.and_eq_true, decide_eq_true_eq] at hc
  obtain ⟨peer, hp⟩ := Option.isSome_iff_exists.mp hc.1.2
  exact ⟨e, peer, hr, clean_iff hc.1.1, hp, hc.2⟩

/-- The three barriers, and `bar.await` both in the phase of its post and after it. -/
def barCases : List (Instr × Nat) := [(.barMeet false 0#8, 0), (.barPost false 15#8, 0), (.barAwait false 15#8, 0), (.barAwait true 0#8, 1)]

theorem witness_barriers : ∀ x ∈ barCases, ∃ f e, barForm x.1 = some f ∧ Ready (twins (some 0) x.2) e ∧ f.b.toNat < 16 ∧ e.t.kind ≠ .task ∧
    e.t.kind ≠ .evaluator ∧ e.converged = .yes ∧ barStep e (f.post && !e.leader.skip) f.await f.b.toNat ≠ .bad := by
  have h : barCases.all (fun x => match barForm x.1 with
      | some f => ready (twins (some 0) x.2) (fun e => decide (f.b.toNat < 16 ∧ e.t.kind ≠ .task ∧ e.t.kind ≠ .evaluator ∧ e.converged = .yes ∧
          barStep e (f.post && !e.leader.skip) f.await f.b.toNat ≠ .bad))
      | none => false) = true := by decide +kernel
  intro x hx
  have := List.all_eq_true.mp h x hx
  split at this
  · rename_i f hf
    obtain ⟨e, hr, hc⟩ := ready_env this
    exact ⟨f, e, hf, hr, decide_eq_true_eq.mp hc⟩
  · cases this

theorem witness_waitv : ∃ e ps, Ready (tiny 0) e ∧ Clean (waitvChks e false (.v 16) (.v 4) (.v 9)) ∧
    Reached e 4 .read false true (waitvReqs e false (.v 16) (.v 4) (.v 9)) ps ∧ e.orderStops 4 ps = false := by
  obtain ⟨e, hr, hc⟩ := ready_env (show ready (tiny 0) (fun e => clean (waitvChks e false (.v 16) (.v 4) (.v 9)) &&
    reaches e 4 .read false true (waitvReqs e false (.v 16) (.v 4) (.v 9)) &&
    !e.orderStops 4 (places e .read (waitvReqs e false (.v 16) (.v 4) (.v 9)))) = true by decide +kernel)
  simp only [Bool.and_eq_true, Bool.not_eq_true'] at hc
  exact ⟨e, _, hr, clean_iff hc.1.1, reaches_places hc.1.2, hc.2⟩

/-! Tasks, launches, futures, timing, system. -/

def quiet (e : Env) : Bool := e.lanes.all (fun l => !e.s.dev.laneHas e.g.gid l.lid (fun _ => true))

theorem quiet_iff {e : Env} (h : quiet e = true) : Quiet e := by
  intro l hl
  simpa using List.all_eq_true.mp h l hl

theorem witness_spawn : ∃ e, Ready (tiny 0) e ∧ Clean (e.readChks false (spawnRead 24#5 (.v 4) e)) ∧ spawnOdd e false 24#5 (.v 4) = [] ∧ Quiet e := by
  obtain ⟨e, hr, hc⟩ := ready_env (show ready (tiny 0) (fun e => clean (e.readChks false (spawnRead 24#5 (.v 4) e)) &&
    (spawnOdd e false 24#5 (.v 4)).isEmpty && quiet e) = true by decide +kernel)
  simp only [Bool.and_eq_true, List.isEmpty_iff] at hc
  exact ⟨e, hr, clean_iff hc.1.1, hc.1.2, quiet_iff hc.2⟩

theorem witness_launch : ∃ e ps, Ready (withBytes (tiny 0) 0x20000000 record) e ∧ Clean (e.readChks true (targetRead (.s 4) e)) ∧
    launchActs e true (.s 4) ≠ [] ∧ launchOdd e true (.s 4) = [] ∧ e.t.kind ≠ .task ∧ e.t.kind ≠ .evaluator ∧
    SpanReached e 128 (launchActs e true (.s 4)) ps ∧ Quiet e ∧
    badRecs (launchState e true (.s 4) ps) e (launchRecs (launchState e true (.s 4) ps) e ps) = [] := by
  obtain ⟨e, hr, hc⟩ := ready_env (show ready (withBytes (tiny 0) 0x20000000 record) (fun e =>
    let acts := launchActs e true (.s 4)
    let ps := places e .read (acts.map (fun r => { lane := r.1, va := r.2, data := [], writers := [] }))
    let s := launchState e true (.s 4) ps
    clean (e.readChks true (targetRead (.s 4) e)) && !acts.isEmpty && (launchOdd e true (.s 4)).isEmpty &&
    decide (e.t.kind ≠ .task ∧ e.t.kind ≠ .evaluator) && spans e 128 acts && quiet e && (badRecs s e (launchRecs s e ps)).isEmpty) = true by
      decide +kernel)
  simp only [Bool.and_eq_true, Bool.not_eq_true', List.isEmpty_iff, List.isEmpty_eq_false_iff, decide_eq_true_eq] at hc
  obtain ⟨⟨⟨⟨⟨⟨h1, h2⟩, h3⟩, h4⟩, h5⟩, h6⟩, h7⟩ := hc
  exact ⟨e, _, hr, clean_iff h1, h2, h3, h4.1, h4.2, spans_reached h5, quiet_iff h6, h7⟩

theorem witness_fpop : ∃ e, Ready (tiny 0) e ∧ Clean (fpopChks e false (.v 16) (.v 9) 5#6) := by
  obtain ⟨e, hr, hc⟩ := ready_env (show ready (tiny 0) (fun e => clean (fpopChks e false (.v 16) (.v 9) 5#6)) = true by decide +kernel)
  exact ⟨e, hr, clean_iff hc⟩

/-- A handle of the first future-table entry in v3, the entry as given. -/
def holder (f : FutState) (kept : Option Word) : State := tinyOf { tinyGroup 0 (tinyMode 0 0) with
    lanes := (List.range 4).map (fun i => { tinyLane 0 i with v := (tinyLane 0 i).v.set 3 { bits := 64#32, tag := .future } }) }
  { tinyTeam with futs := { st := f, gen := 1, kept := kept, orphan := false } :: tinyTeam.futs.drop 1 } 0

/-- R237: a typed read of a stale handle faults FUTURE_INVALID and no FORMAT; of a live one whose entry is done it takes the status. -/
theorem test_stale_typed_read : ready (holder .free none) (fun e => (readTyped e e.leader .n32 0 (.v 3)).chk.bad == [.futureInvalid]) = true ∧
    ready (holder .done (some 2)) (fun e => (readTyped e e.leader .n32 0 (.v 3)).chk.bad == [] &&
      (readTyped e e.leader .n32 0 (.v 3)).val == 2) = true := by decide +kernel

theorem witness_futures : ∀ s ∈ [holder .busy none, holder .done (some 0)], ∃ e, Ready s e ∧ Clean (futChks e false (.v 16) (futRead (.v 3))) ∧
    Clean (e.readChks false (futRead (.v 3) e)) ∧ staleLids (handles e false (futRead (.v 3))) = [] ∧
    Clean (futChks e false (.v 16) (adoptRead (.v 3))) ∧ staleLids (handles e false (adoptRead (.v 3))) = [] := by
  have h : [holder .busy none, holder .done (some 0)].all (fun s => ready s (fun e => clean (futChks e false (.v 16) (futRead (.v 3))) &&
    clean (e.readChks false (futRead (.v 3) e)) && (staleLids (handles e false (futRead (.v 3)))).isEmpty &&
    clean (futChks e false (.v 16) (adoptRead (.v 3))) && (staleLids (handles e false (adoptRead (.v 3)))).isEmpty)) = true := by decide +kernel
  intro s hs
  obtain ⟨e, hr, hc⟩ := ready_env (List.all_eq_true.mp h s hs)
  simp only [Bool.and_eq_true, List.isEmpty_iff] at hc
  obtain ⟨⟨⟨⟨h1, h2⟩, h3⟩, h4⟩, h5⟩ := hc
  exact ⟨e, hr, clean_iff h1, clean_iff h2, h3, clean_iff h4, h5⟩

theorem witness_timing_and_system : ∃ e, Ready (tiny 0) e ∧ Clean (e.readChks false (targetRead (.v 4) e)) ∧
    Clean (e.readChks false (wordRead (.v 9) e)) ∧ Clean (e.readChks false (trapRead (.v 9) e)) ∧ e.passing ≠ [] := by
  obtain ⟨e, hr, hc⟩ := ready_env (show ready (tiny 0) (fun e => clean (e.readChks false (targetRead (.v 4) e)) &&
    clean (e.readChks false (wordRead (.v 9) e)) && clean (e.readChks false (trapRead (.v 9) e)) && !e.passing.isEmpty) = true by decide +kernel)
  simp only [Bool.and_eq_true, Bool.not_eq_true', List.isEmpty_eq_false_iff] at hc
  exact ⟨e, hr, clean_iff hc.1.1.1, clean_iff hc.1.1.2, clean_iff hc.1.2, hc.2⟩

/-- Every lane guarded off: the guard is predicate 5, which reads 0. -/
theorem witness_trap_guarded_off : ∃ e, Ready (tinyWith 0 0x64000005#32) e ∧ Clean (e.readChks false (trapRead (.v 9) e)) ∧ e.passing = [] := by
  obtain ⟨e, hr, hc⟩ := ready_env (show ready (tinyWith 0 0x64000005#32) (fun e => clean (e.readChks false (trapRead (.v 9) e)) &&
    e.passing.isEmpty) = true by decide +kernel)
  simp only [Bool.and_eq_true, List.isEmpty_iff] at hc
  exact ⟨e, hr, clean_iff hc.1, hc.2⟩

/-! Galleys: each lane's own, of 128 bytes behind its descriptor. The record at offset 0 is of a kind. -/

def galleys (resv comm take kind : Nat) : State :=
  (tiny 0).onSt (fun st => { st with scr := (List.range 4).foldl (fun m i =>
    (m.setN (scrKey 0 0 (256 * i)) (leBytes 8 (0xFFFFFF0000000000 + 256 * i + 64) ++ leBytes 8 128 ++ leBytes 8 resv ++ leBytes 8 comm ++
      leBytes 8 take ++ leBytes 8 0)).setN (scrKey 0 0 (256 * i + 64)) (leBytes 4 (kind * 2 ^ 30 + 8))) [] })

def galCases : List (State × Instr) :=
  [(galleys 0 0 0 0, .galRes false (.v 16) (.v 0)), (galleys 16 0 0 3, .galCom false (.v 24) (.v 0)),
   (galleys 16 16 0 0, .galTake false (.v 16) (.v 0)), (galleys 16 16 16 0, .galFree false (.v 24) (.v 0))]

theorem witness_galleys : ∀ x ∈ galCases, ∃ f e, galForm x.2 = some f ∧ Ready x.1 e ∧ Clean (galChks e f.u f.d f.k) ∧
    (∀ l ∈ e.lanes, e.s.dev.laneHas e.g.gid l.lid (fun _ => f.k.rel) = false) ∧ galFault e (galResult e f.u f.k).2.2 = none := by
  have h : galCases.all (fun x => match galForm x.2 with
      | some f => ready x.1 (fun e => clean (galChks e f.u f.d f.k) &&
          e.lanes.all (fun l => !e.s.dev.laneHas e.g.gid l.lid (fun _ => f.k.rel)) && (galResult e f.u f.k).2.2.isEmpty)
      | none => false) = true := by decide +kernel
  intro x hx
  have := List.all_eq_true.mp h x hx
  split at this
  · rename_i f hf
    obtain ⟨e, hr, hc⟩ := ready_env this
    simp only [Bool.and_eq_true, Bool.not_eq_true', List.all_eq_true, List.isEmpty_iff] at hc
    refine ⟨f, e, hf, hr, clean_iff hc.1.1, hc.1.2, ?_⟩
    rw [hc.2]; rfl
  · cases this

/-- A gang at a header in memory, its clause one word long. -/
def headerSel : Sel := { gid := 0, pc := 0x20000400#64, depth := 0, clause := none }
def headerGroup : Group :=
  { tinyGroup 0 (tinyMode 0 0) with lanes := (List.range 4).map (fun i => { tinyLane 0 i with pc := 0x20000400#64, clause := none }) }
def atHeader : State := (withBytes (tinyOf headerGroup tinyTeam 0) 0x20000400 (leBytes 4 0x07800001 ++ leBytes 4 0x20010203)).onDev
  (fun d => { d with sel := some headerSel })

def isWord (h : Word) : Fetch → Bool | .word w => w == h | _ => false
theorem isWord_iff {h : Word} {f : Fetch} (k : isWord h f = true) : f = .word h := by
  cases f <;> simp_all [isWord]

theorem witness_clause_header : ∃ x g a h ws, AtHeader atHeader x g a ∧ a.fetchWord atHeader.st x.pc.toNat = .word h ∧
    clauseHeaderOk h = true ∧
    a.fetchWords atHeader.st ((x.pc.toNat + 4) % 2 ^ 64) (headerLen h + headerNlit h) = (ws, none) ∧
    ((ws.take (headerLen h)).dropLast).any transferWord = false ∧ ∀ i < 12, bit (headerWait h) i = true → g.flags.getD i 0 = 0 := by
  refine ⟨headerSel, headerGroup, _, 0x07800001#32, [0x20010203#32],
    ⟨rfl, rfl, rfl, by decide +kernel, by decide +kernel, tinyTeam, rfl, rfl⟩, ?_, by decide, ?_, by decide, by decide⟩
  · exact isWord_iff (by decide +kernel)
  · exact Prod.ext (by decide +kernel) (Option.isNone_iff_eq_none.mp (by decide +kernel))

/-! Matrices. A group of width 64 with one lane; omap 0 names an f32 tile of 128-byte rows at the bottom of the scratchpad. -/

def matrix (ty : Nat) : State := tinyOf { tinyGroup 0 (tinyMode ty 0) with width := 64, lanes := [tinyLane 0 0], om := List.replicate 8 0x0003000800000000#128 }
  { tinyTeam with shape := { tinyShape with quad := true, width := 64 } } 0

def isTile : TileRead → Bool | .ok _ => true | _ => false
theorem isTile_iff {t : TileRead} (h : isTile t = true) : ∃ x, t = .ok x := by
  cases t <;> simp_all [isTile]

def mxCases : List Instr := [.mma false (.v 0) 4#6 0#2 0#3 1#4, .mmj true (.v 8) 0#6 0#2 0#3 0#4]

theorem witness_matrix : ∀ i ∈ mxCases, ∃ x e tile, matrixForm i = some x ∧ Ready (matrix 4) e ∧ Clean (mxChks e x) ∧ e.mxFull e.flag = false ∧
    mxTile e x = .ok tile := by
  have h : mxCases.all (fun i => match matrixForm i with
      | some x => ready (matrix 4) (fun e => clean (mxChks e x) && !e.mxFull e.flag && isTile (mxTile e x))
      | none => false) = true := by decide +kernel
  intro i hi
  have := List.all_eq_true.mp h i hi
  split at this
  · rename_i x hx
    obtain ⟨e, hr, hc⟩ := ready_env this
    simp only [Bool.and_eq_true, Bool.not_eq_true'] at hc
    obtain ⟨t, ht⟩ := isTile_iff hc.2
    exact ⟨x, e, t, hx, hr, clean_iff hc.1.1, hc.1.2, ht⟩
  · cases this

theorem witness_acc_moves : ∀ i ∈ [Instr.accLd (.v 4) 0#6 0#2 0#3, .accSt (.v 4) 0#6 0#2 0#3], ∃ k e ps, accMoveForm i = some k ∧
    Ready (matrix 4) e ∧ Clean (accMoveChks e k) ∧ e.mxFull e.flag = false ∧
    Reached e 16 (if k.store then .write else .read) k.store true (accMoveReqs e k) ps ∧ e.orderStops 16 ps = false := by
  have h : [Instr.accLd (.v 4) 0#6 0#2 0#3, .accSt (.v 4) 0#6 0#2 0#3].all (fun i => match accMoveForm i with
      | some k => ready (matrix 4) (fun e =>
          let need : Need := if k.store then .write else .read
          clean (accMoveChks e k) && !e.mxFull e.flag && reaches e 16 need k.store true (accMoveReqs e k) &&
          !e.orderStops 16 (places e need (accMoveReqs e k)))
      | none => false) = true := by decide +kernel
  intro i hi
  have := List.all_eq_true.mp h i hi
  split at this
  · rename_i k hk
    obtain ⟨e, hr, hc⟩ := ready_env this
    simp only [Bool.and_eq_true, Bool.not_eq_true'] at hc
    exact ⟨k, e, _, hk, hr, clean_iff hc.1.1.1, hc.1.1.2, reaches_places hc.1.2, hc.2⟩
  · cases this

theorem witness_acc_others : ∃ e, Ready (matrix 4) e ∧ Clean (zeroChks e 0#6 0#2 3#3) ∧ Clean (accRdChks e (.v 16) 0#6 0#3) ∧
    Clean (scaleChks e (.v 10) 0#6 0#2 0#3) ∧ e.mxFull none = false ∧ e.mxFull e.flag = false := by
  obtain ⟨e, hr, hc⟩ := ready_env (show ready (matrix 4) (fun e => clean (zeroChks e 0#6 0#2 3#3) && clean (accRdChks e (.v 16) 0#6 0#3) &&
    clean (scaleChks e (.v 10) 0#6 0#2 0#3) && !e.mxFull none && !e.mxFull e.flag) = true by decide +kernel)
  simp only [Bool.and_eq_true, Bool.not_eq_true'] at hc
  obtain ⟨⟨⟨⟨h1, h2⟩, h3⟩, h4⟩, h5⟩ := hc
  exact ⟨e, hr, clean_iff h1, clean_iff h2, clean_iff h3, h4, h5⟩

/-! Engines: one descriptor at the bottom of the scratchpad, read with U = 1. -/

def zeros (n : Nat) : List Byte := List.replicate n 0

def withDesc (bs : List Byte) : State := (tiny 0).onSt (fun st => { st with scr := Memory.setN [] (scrKey 0 0 0) bs })

def copyDesc : List Byte := leBytes 8 0x20000000 ++ leBytes 8 0x20010000 ++ zeros 16 ++ leBytes 4 64 ++ leBytes 4 1 ++ leBytes 4 1 ++ zeros 20
def collDesc : List Byte := leBytes 4 256 ++ leBytes 4 512 ++ leBytes 4 1024 ++ leBytes 4 4 ++ leBytes 4 0x1F00 ++ zeros 12
def gathDesc : List Byte := leBytes 8 0x20000000 ++ leBytes 4 256 ++ leBytes 4 512 ++ leBytes 4 2 ++ leBytes 4 16 ++ leBytes 4 16 ++ zeros 4
def xferDesc : List Byte := leBytes 8 0x20000000 ++ zeros 8 ++ leBytes 8 64 ++ leBytes 4 0x00FF0000 ++ zeros 36
def smmaDesc : List Byte := leBytes 4 256 ++ leBytes 4 512 ++ leBytes 4 1024 ++ leBytes 2 1 ++ leBytes 2 8 ++ leBytes 2 16 ++ zeros 14

def engCases : List (List Byte × Instr) :=
  [(copyDesc, .engCopy true (.s 8) (.s 0)), (collDesc, .engColl true (.v 16) (.s 0)), (gathDesc, .engGath true (.s 8) (.s 0)),
   (xferDesc, .engXfer true .sink (.s 0)), (smmaDesc, .engSmma true (.s 8) (.s 0))]

theorem witness_engines : ∀ x ∈ engCases, ∃ f e ps, engForm x.2 = some f ∧ Ready (withDesc x.1) e ∧ Clean (engChks e f.u f.d (targetRead f.a)) ∧
    Reached e f.kind.descLen .read false true (engReqs e f.u f.d f.a) ps ∧ e.orderStops f.kind.descLen ps = false ∧
    CellsReady e f.kind.descLen ps ∧ engRefused e f.kind (engDescs e f.u f.d f.a f.kind.descLen ps).2 = [] ∧ Inv (withDesc x.1) ∧
    ∀ p ∈ ps, p.2.deferred = false := by
  have h : engCases.all (fun x => match engForm x.2 with
      | some f => (withDesc x.1).st.wf && ready (withDesc x.1) (fun e =>
          let n := f.kind.descLen
          let ps := places e .read (engReqs e f.u f.d f.a)
          clean (engChks e f.u f.d (targetRead f.a)) && reaches e n .read false true (engReqs e f.u f.d f.a) && !e.orderStops n ps &&
          cellsReady e n ps && (engRefused e f.kind (engDescs e f.u f.d f.a n ps).2).isEmpty && ps.all (fun p => !p.2.deferred))
      | none => false) = true := by decide +kernel
  intro x hx
  have := List.all_eq_true.mp h x hx
  split at this
  · rename_i f hf
    rw [Bool.and_eq_true] at this
    obtain ⟨e, hr, hc⟩ := ready_env this.2
    simp only [Bool.and_eq_true, Bool.not_eq_true', List.isEmpty_iff, List.all_eq_true] at hc
    obtain ⟨⟨⟨⟨⟨h1, h2⟩, h3⟩, h4⟩, h5⟩, h6⟩ := hc
    exact ⟨f, e, _, hf, hr, clean_iff h1, reaches_places h2, h3, cellsReady_iff h4, h5, this.1, h6⟩
  · cases this

/-! Headers, in a heap at 0x20010000: a neural one of one layer, and a texture. -/

def neuralHeader : List Byte :=
  [1] ++ zeros 19 ++ leBytes 6 0x000100010001 ++ zeros 6 ++ [0, 4, 1, 1, 1, 0, 0, 0, 1, 0, 0, 0, 0x39, 0, 0, 0] ++ leBytes 8 0x20030000 ++ leBytes 8 0x20020000
def textureHeader : List Byte :=
  zeros 20 ++ leBytes 6 0x000100010001 ++ zeros 6 ++ [0, 4, 1] ++ zeros 13 ++ leBytes 8 0x20030000 ++ zeros 8

def withHeader (bs : List Byte) : State :=
  (withBytes (tiny 4) 0x20010000 bs).onDev (fun d => d.modPart 0 (fun p => { p with desc := some { Desc.plain with heap := 0x20010000 } }))

theorem witness_weights : ∀ i ∈ [Instr.engWpin true (.s 8) (.s 3), .engWinv true (.s 8) (.s 3)], ∃ f e ps, weightForm i = some f ∧
    Ready (withHeader neuralHeader) e ∧ Clean (engChks e f.u f.d (weightRead f.a)) ∧ overHeap e (weightActs e f.u f.a) = [] ∧
    Reaches e 64 .read (headerReqs e (weightActs e f.u f.a)) ps ∧ e.headerStops ps = false ∧ e.headersHurt ps = [] ∧ CellsReady e 64 ps ∧ notNeural (readHeaders e ps).2 = [] ∧
    Inv (withHeader neuralHeader) := by
  have h : [Instr.engWpin true (.s 8) (.s 3), .engWinv true (.s 8) (.s 3)].all (fun i => match weightForm i with
      | some f => ready (withHeader neuralHeader) (fun e =>
          let rs := headerReqs e (weightActs e f.u f.a)
          clean (engChks e f.u f.d (weightRead f.a)) && (overHeap e (weightActs e f.u f.a)).isEmpty && finds e 64 .read rs &&
          !e.headerStops (places e .read rs) && (e.headersHurt (places e .read rs)).isEmpty &&
          cellsReady e 64 (places e .read rs) && (notNeural (readHeaders e (places e .read rs)).2).isEmpty)
      | none => false) = true := by decide +kernel
  intro i hi
  have := List.all_eq_true.mp h i hi
  split at this
  · rename_i f hf
    obtain ⟨e, hr, hc⟩ := ready_env this
    simp only [Bool.and_eq_true, Bool.not_eq_true', List.isEmpty_iff] at hc
    obtain ⟨⟨⟨⟨⟨⟨h1, h2⟩, h3⟩, h3'⟩, h3''⟩, h4⟩, h5⟩ := hc
    exact ⟨f, e, _, hf, hr, clean_iff h1, h2, finds_places h3, h3', h3'', cellsReady_iff h4, h5, by unfold Machine.Inv; decide +kernel⟩
  · cases this

theorem witness_smp : ∀ bs ∈ [textureHeader, neuralHeader], ∃ e ps qs l va bytes, Ready (withHeader bs) e ∧ Inv (withHeader bs) ∧ Clean (smpChks e (.v 16) (.v 10) 3#5) ∧
    overHeap e [(e.leader, (smpIndex e 3#5).val)] = [] ∧ Reaches e 64 .read (headerReqs e [(e.leader, (smpIndex e 3#5).val)]) ps ∧
    e.headerStops ps = false ∧ e.headersHurt ps = [] ∧ CellsReady e 64 ps ∧ (readHeaders e ps).2 = [(l, va, bytes)] ∧ headerOk bytes = true ∧
    Clean (smpChks2 e (.v 16) (.v 10) 3#5 (Header.ofBytes va bytes)) ∧ e.g.flagFull e.flag = false ∧
    Reaches e (Header.ofBytes va bytes).point .read (smpReqs e (.v 16) (.v 10) 3#5 (Header.ofBytes va bytes) ++ smpImage e (Header.ofBytes va bytes)) qs ∧
    e.orderStops (Header.ofBytes va bytes).point qs = false ∧ e.s.dev.laneHas e.g.gid e.leader.lid (· == .lda) = false ∧
    CellsReady e 16 (qs.drop (smpReqs e (.v 16) (.v 10) 3#5 (Header.ofBytes va bytes)).length) ∧ ∀ p ∈ qs, p.2.deferred = false := by
  have h : [textureHeader, neuralHeader].all (fun bs => (withHeader bs).st.wf && ready (withHeader bs) (fun e =>
      let rs := headerReqs e [(e.leader, (smpIndex e 3#5).val)]
      let ps := places e .read rs
      clean (smpChks e (.v 16) (.v 10) 3#5) && (overHeap e [(e.leader, (smpIndex e 3#5).val)]).isEmpty && finds e 64 .read rs &&
      (!e.headerStops ps && (e.headersHurt ps).isEmpty) && cellsReady e 64 ps &&
      (match (readHeaders e ps).2 with
        | [(_, va, bytes)] =>
          let h := Header.ofBytes va bytes
          let qs := smpReqs e (.v 16) (.v 10) 3#5 h ++ smpImage e h
          headerOk bytes && clean (smpChks2 e (.v 16) (.v 10) 3#5 h) && !e.g.flagFull e.flag && finds e h.point .read qs &&
          !e.orderStops h.point (places e .read qs) && !e.s.dev.laneHas e.g.gid e.leader.lid (· == .lda) &&
          cellsReady e 16 ((places e .read qs).drop (smpReqs e (.v 16) (.v 10) 3#5 h).length) &&
          (places e .read qs).all (fun p => !p.2.deferred)
        | _ => false))) = true := by decide +kernel
  intro bs hb
  have h := List.all_eq_true.mp h bs hb
  rw [Bool.and_eq_true] at h
  obtain ⟨e, hr, hc⟩ := ready_env h.2
  simp only [Bool.and_eq_true, Bool.not_eq_true', List.isEmpty_iff] at hc
  obtain ⟨⟨⟨⟨⟨h1, h2⟩, h3⟩, h3', h3''⟩, h4⟩, h5⟩ := hc
  split at h5
  · rename_i l va bytes hh
    simp only [Bool.and_eq_true, Bool.not_eq_true', List.all_eq_true] at h5
    obtain ⟨⟨⟨⟨⟨⟨⟨k1, k2⟩, k3⟩, k4⟩, k5⟩, k6⟩, k7⟩, k8⟩ := h5
    exact ⟨e, _, _, l, va, bytes, hr, h.1, clean_iff h1, h2, finds_places h3, h3', h3'', cellsReady_iff h4, hh, k1, clean_iff k2, k3, finds_places k4, k5, k6,
      cellsReady_iff k7, k8⟩
  · cases h5

/-! Primitives: a team of the mesh launch of a draw, and a fragment group. -/

def tinyLaunch (o : LaunchOrigin) : Launch :=
  { lno := 0, part := 0, shape := tinyShape, origin := o, nextTix := 1, retired := 0, lastPlaced := none, inTable := true }

def mesh : State := (tiny 4).onDev (fun d => d.modPart 0 (fun p => { p with launches := [tinyLaunch (.draw 7)] }))

theorem witness_primitives : ∀ i ∈ [Instr.primTri (.v 2) (.v 8), .primEll (.v 2) (.v 8), .primPt (.v 2) (.v 8)], ∃ f e draw,
    primForm i = some f ∧ Ready mesh e ∧ Clean (e.readChks false (primRead f.run f.d f.a e)) ∧ e.passing ≠ [] ∧
    mesh.dev.meshDraw e.t = some draw ∧ e.g.primsClosed = false ∧ mesh.dev.binFull e.g.part draw = false := by
  have h : [Instr.primTri (.v 2) (.v 8), .primEll (.v 2) (.v 8), .primPt (.v 2) (.v 8)].all (fun i => match primForm i with
      | some f => ready mesh (fun e => clean (e.readChks false (primRead f.run f.d f.a e)) && !e.passing.isEmpty &&
          decide (mesh.dev.meshDraw e.t = some 7) && !e.g.primsClosed && !mesh.dev.binFull e.g.part 7)
      | none => false) = true := by decide +kernel
  intro i hi
  have := List.all_eq_true.mp h i hi
  split at this
  · rename_i f hf
    obtain ⟨e, hr, hc⟩ := ready_env this
    simp only [Bool.and_eq_true, Bool.not_eq_true', List.isEmpty_eq_false_iff, decide_eq_true_eq] at hc
    exact ⟨f, e, 7, hf, hr, clean_iff hc.1.1.1.1, hc.1.1.1.2, hc.1.1.2, hc.1.2, hc.2⟩
  · cases this

theorem witness_cut : ∃ e, Ready mesh e ∧ e.passing ≠ [] ∧ (mesh.dev.meshDraw e.t).isSome = true := by
  obtain ⟨e, hr, hc⟩ := ready_env (show ready mesh (fun e => !e.passing.isEmpty && (mesh.dev.meshDraw e.t).isSome) = true by decide +kernel)
  simp only [Bool.and_eq_true, Bool.not_eq_true', List.isEmpty_eq_false_iff] at hc
  exact ⟨e, hr, hc.1, hc.2⟩

def fragments : State := tinyOf { tinyGroup 0 (tinyMode 4 0) with lanes := (List.range 4).map (fun i => { tinyLane 0 i with
    frag := some { key := { draw := 7, mesh := 0, prim := 0 }, tile := 0, px := i, py := 0, helper := false, decided := false } }) }
  { tinyTeam with kind := .fragment, draw := some 7 } 0

theorem witness_fragments : ∃ e, Ready fragments e ∧ Clean (e.readChks false (foutRead (.v 8) e)) ∧ fragBad e = [] ∧ e.passing ≠ [] := by
  obtain ⟨e, hr, hc⟩ := ready_env (show ready fragments (fun e => clean (e.readChks false (foutRead (.v 8) e)) && (fragBad e).isEmpty &&
    !e.passing.isEmpty) = true by decide +kernel)
  simp only [Bool.and_eq_true, Bool.not_eq_true', List.isEmpty_iff, List.isEmpty_eq_false_iff] at hc
  exact ⟨e, hr, clean_iff hc.1.1, hc.1.2, hc.2⟩

/-! Encodings and steps. -/

theorem witness_encode : wellFormed (.add false (.v 191) (.s 31) (.lit 6)) = true ∧ (encode (.add false (.v 191) (.s 31) (.lit 6))).isSome = true := by
  decide

theorem witness_decode : 0x20010203 < 2 ^ 32 ∧ decodeWord 0x20010203 = some (.add false (.v 1) (.v 2) (.v 3)) := by decide

/-- Opcodes, a family's sub-opcode, an acc sub-opcode, a fence kind, a cmo kind and a cmo level that are none, each the first or the last of its
range, and then operand fields that must be zero. -/
def badWords : List Nat := [0x00000000, 0x80000000, 0xFE000000, 0x7C00000E, 0xF4000014, 0xB8040000, 0xBA400000, 0xBA040000, 0xBA3F0000] ++
  [0x7C800000, 0xB8000001]
theorem witness_bad_words : ∀ w ∈ badWords, ∃ e, Ready (tinyWith w (tinyMode 0 0)) e ∧ e.word.toNat = w ∧ decodeWord w = none := by
  have h : badWords.all (fun w => ready (tinyWith w (tinyMode 0 0)) (fun e => e.word.toNat == w) && (decodeWord w).isNone) = true := by
    decide +kernel
  intro w hw
  have h := List.all_eq_true.mp h w hw
  rw [Bool.and_eq_true] at h
  obtain ⟨e, hr, hc⟩ := ready_env h.1
  exact ⟨e, hr, beq_iff_eq.mp hc, Option.isNone_iff_eq_none.mp h.2⟩

/-- R96: the code that each of these words faults with. -/
theorem test_bad_codes : badWords.map badWord = List.replicate 9 .opcode ++ List.replicate 2 .operand := by decide

/-- An outcome that is a next state. -/
def goes : Out → Bool | .next _ => true | _ => false
theorem goes_iff {o : Out} (h : goes o = true) : ∃ t, o = .next t := by
  cases o <;> simp_all [goes]

def placed : State := State.reset.withFetchWord 32 0x20010203

theorem witness_step_runs : ∃ (t : State) (g : Group) (x : Bool × Sel) (more : List (Bool × Sel)) (e : Env) (i : Instr),
    placed.dev.agenda = .issue 0 0 :: [] ∧
    let s0 := placed.onDev (fun d => { d with agenda := [] })
    let s1 := s0.onDev (fun d => { d with sel := some x.2 })
    s0.dev.slotFree 0 0 = true ∧ s0.dev.pickGroup 0 0 (s0.dev.slotGroups 0 0) = some g ∧ g.canIssue s0.dev = true ∧ g.gangs = x :: more ∧
    s0.unpaced g x.2 = true ∧ x.2.clause.isSome = true ∧
    s1.env? = some e ∧ decodeWord e.word.toNat = some i ∧ e.namesHurt i = [] ∧ exec i s1 = .next t := by
  have h : (let s0 := placed.onDev (fun d => { d with agenda := [] })
    match s0.dev.pickGroup 0 0 (s0.dev.slotGroups 0 0) with
    | some g => g.canIssue s0.dev && (match g.gangs with
      | x :: _ => (s0.dev.slotFree 0 0 && (s0.unpaced g x.2 && x.2.clause.isSome)) && (match (s0.onDev (fun d => { d with sel := some x.2 })).env? with
        | some e => decide (decodeWord e.word.toNat = some (.add false (.v 1) (.v 2) (.v 3)) ∧ e.namesHurt (.add false (.v 1) (.v 2) (.v 3)) = []) &&
            goes (exec (.add false (.v 1) (.v 2) (.v 3)) (s0.onDev (fun d => { d with sel := some x.2 })))
        | none => false)
      | [] => false)
    | none => false) = true := by decide +kernel
  dsimp only at h
  split at h
  · rename_i g hg
    rw [Bool.and_eq_true] at h
    obtain ⟨h1, h⟩ := h
    split at h
    · rename_i x more hx
      rw [Bool.and_eq_true] at h
      obtain ⟨h2, h⟩ := h
      rw [Bool.and_eq_true, Bool.and_eq_true] at h2
      split at h
      · rename_i e he
        rw [Bool.and_eq_true, decide_eq_true_eq] at h
        obtain ⟨t, ht⟩ := goes_iff h.2
        exact ⟨t, g, x, more, e, _, rfl, h2.1, hg, h1, hx, h2.2.1, h2.2.2, he, h.1.1, h.1.2, ht⟩
      · cases h
    · cases h
  · cases h

theorem witness_issue_turn :
    (placed.dev.agenda = .issue 0 0 :: [] ∧ let s0 := (placed.onDev (fun d => { d with agenda := [] })).starveAt 0 0
      s0.dev.slotFree 0 0 = true ∧ (s0.dev.slotGroups 0 0).filter (fun g => (s0.tryGroup g).isSome) ≠ []) ∧
    let r := State.reset.starveAt 0 0
    (r.dev.slotGroups 0 0).filter (fun g => (r.tryGroup g).isSome) = [] := by decide +kernel

theorem witness_step_event : ∃ t, (State.reset.onDev (fun d => { d with agenda := [.event .memoryRefresh] })).dev.agenda = [.event .memoryRefresh] ∧
    exec .memoryRefresh State.reset = .next t ∧ exec .scrubPass State.reset = .fault .notEnabled := by
  obtain ⟨t, ht⟩ := goes_iff (show goes (exec .memoryRefresh State.reset) = true by decide +kernel)
  exact ⟨t, rfl, ht, rfl⟩

theorem witness_step_keeps : ∃ t, Inv placed ∧ (∀ g ∈ placed.dev.groups, modeLegal g.mode.toNat = true) ∧ step placed = .next t := by
  obtain ⟨t, ht⟩ := goes_iff (show goes (step placed) = true by decide +kernel)
  exact ⟨t, by unfold Machine.Inv; decide +kernel, by decide +kernel, ht⟩

/-! Results and frames. -/

/-- Every register writer, predicate writer, lane instruction and write of lanes' or group state answers a next state. -/
theorem witness_frames : (∀ x ∈ valueCases ++ predCases ++ crossCases, ∃ t, exec x.2 (tiny x.1) = .next t) ∧
    ∀ i ∈ groupCases ++ laneCases ++ srReads.map (Instr.rdsr false (.v 16)) ++ [Instr.laneAny 5#6 true 4#6, .laneAll 63#6 false 63#6, .br false 5#6 true 8#16,
      .br true 63#6 false 0xFFFE#16, .jmp false (.v 4)], ∃ t, exec i (tiny 0) = .next t := by
  have h : (valueCases ++ predCases ++ crossCases).all (fun x => goes (exec x.2 (tiny x.1))) = true ∧
      (groupCases ++ laneCases ++ srReads.map (Instr.rdsr false (.v 16)) ++ [Instr.laneAny 5#6 true 4#6, .laneAll 63#6 false 63#6, .br false 5#6 true 8#16,
        .br true 63#6 false 0xFFFE#16, .jmp false (.v 4)]).all (fun i => goes (exec i (tiny 0))) = true := by decide +kernel
  exact ⟨fun x hx => goes_iff (List.all_eq_true.mp h.1 x hx), fun i hi => goes_iff (List.all_eq_true.mp h.2 i hi)⟩

/-- A lane of the gang, its place in the group and a register of it. -/
theorem witness_in_gang : ∃ e k l, Ready (tiny 0) e ∧ InGang e k l ∧ e.m.passes l = true ∧ (3#3 : BitVec 3).toNat < l.x.length ∧
    (l.reg 2).tag ≠ .pending ∧ 2 + 1 ≤ e.g.budget ∧ e.s.st.errAt (.reg e.g.gid l.lid 2) ≠ some true ∧ NoHandles (valueChks e false (.v 16) (1, false) (movVal (.v 2))) := by
  obtain ⟨e, hr, hc⟩ := ready_env (show ready (tiny 0) (fun e => match e.g.lanes[3]? with
    | some l => decide (e.lids.contains l.lid = true ∧ e.lanes.find? (fun m => m.lid == l.lid) = some l ∧ e.m.passes l = true ∧
        (3#3 : BitVec 3).toNat < l.x.length ∧ (l.reg 2).tag ≠ .pending ∧ 2 + 1 ≤ e.g.budget ∧ e.s.st.errAt (.reg e.g.gid l.lid 2) ≠ some true) &&
        (valueChks e false (.v 16) (1, false) (movVal (.v 2))).all (fun c => c.2.touch.isEmpty)
    | none => false) = true by decide +kernel)
  split at hc
  · rename_i l hl
    simp only [Bool.and_eq_true, decide_eq_true_eq, List.all_eq_true, List.isEmpty_iff] at hc
    obtain ⟨⟨h1, h2, h3, h4, h5, h6, h7⟩, h8⟩ := hc
    exact ⟨e, 3, l, hr, ⟨hl, h1, h2⟩, h3, h4, h5, h6, h7, h8⟩
  · cases hc

/-- Integer arithmetic: each instruction under I32 and N32, wrapping and clamping. -/
def intCases : List (Nat × Bool × Instr) :=
  [0, 1].flatMap (fun ty => [.add false (.v 16) (.v 2) (.v 9), .sub false (.v 16) (.v 2) (.v 9), .mul false (.v 16) (.v 2) (.v 9),
    .mad false (.v 9) (.v 2) (.v 9), .neg false (.v 16) (.v 9), .addi false (.v 9) 0xFFFF#16, .muli false (.v 9) 0xFFFF#16].map (fun i => (ty, false, i)) ++
    [.add false (.v 16) (.v 2) (.v 9), .sub true (.s 8) (.s 2) (.s 3), .mul false (.v 16) (.v 2) (.v 9), .mad false (.v 9) (.v 2) (.v 9),
     .neg false (.v 16) (.v 9), .addi false (.v 9) 0xFFFF#16, .muli false (.v 9) 0xFFFF#16].map (fun i => (ty, true, i)))

theorem witness_integer_arithmetic : ∀ x ∈ intCases, ∃ f e, valueForm x.2.2 = some f ∧ Ready (tinyWith 0 (tinyMode x.1 (if x.2.1 then 32768 else 0))) e ∧
    e.m.etype.code = x.1 ∧ e.m.sat = x.2.1 ∧ Clean (valueChks e f.u f.d (f.shape e) f.val) := by
  have h : intCases.all (fun x => match valueForm x.2.2 with
      | some f => ready (tinyWith 0 (tinyMode x.1 (if x.2.1 then 32768 else 0))) (fun e =>
          e.m.etype.code == x.1 && e.m.sat == x.2.1 && clean (valueChks e f.u f.d (f.shape e) f.val))
      | none => false) = true := by decide +kernel
  intro x hx
  have := List.all_eq_true.mp h x hx
  split at this
  · rename_i f hf
    obtain ⟨e, hr, hc⟩ := ready_env this
    simp only [Bool.and_eq_true, beq_iff_eq] at hc
    exact ⟨f, e, hf, hr, hc.1.1, hc.1.2, clean_iff hc.2⟩
  · cases this

theorem witness_compare_types : ∀ x ∈ predCases, ∃ f e, predForm x.2 = some f ∧ Ready (tiny x.1) e ∧ e.m.etype.code = x.1 ∧
    Clean (e.readChks f.u (predRead f.p f.val e)) := by
  have h : predCases.all (fun x => match predForm x.2 with
      | some f => ready (tiny x.1) (fun e => e.m.etype.code == x.1 && clean (e.readChks f.u (predRead f.p f.val e))) | none => false) = true := by
    decide +kernel
  intro x hx
  have := List.all_eq_true.mp h x hx
  split at this
  · rename_i f hf
    obtain ⟨e, hr, hc⟩ := ready_env this
    simp only [Bool.and_eq_true, beq_iff_eq] at hc
    exact ⟨f, e, hf, hr, hc.1, clean_iff hc.2⟩
  · cases this

/-- A literal as A, a constant as B, under a 64-bit ETYPE: FORMAT is all there is to fault. -/
theorem witness_sel_wide : ∃ e, Ready (tiny 2) e ∧ e.m.etype.wide = true ∧
    ∀ x ∈ [(Opnd.lit 0, Opnd.v 2), (.v 2, .const .one)], ∀ c ∈ valueChks e false (.v 16) (1, false) (selVal (.v 16) x.1 x.2),
      c.2.wait = false ∧ ∀ f ∈ c.2.bad, f = .format := by
  obtain ⟨e, hr, hc⟩ := ready_env (show ready (tiny 2) (fun e => decide (e.m.etype.wide = true ∧
    ∀ x ∈ [(Opnd.lit 0, Opnd.v 2), (.v 2, .const .one)], ∀ c ∈ valueChks e false (.v 16) (1, false) (selVal (.v 16) x.1 x.2),
      c.2.wait = false ∧ ∀ f ∈ c.2.bad, f = .format)) = true by decide +kernel)
  exact ⟨e, hr, (decide_eq_true_eq.mp hc).1, (decide_eq_true_eq.mp hc).2⟩

/-- `perm` with the selector 0x0123 as a literal, the same for every lane. -/
theorem witness_perm_selector : ∃ e, Ready (tiny 0) e ∧ (∀ l, anyBits e l (.lit 0) = 0x0123#32) ∧
    Clean (valueChks e false (.v 16) (1, false) (bitVal3 (.v 16) (.v 2) (.lit 0) permBits)) := by
  obtain ⟨e, hr, hc⟩ := ready_env (show ready (tiny 0) (fun e => decide (e.cl = tinyClause 0) &&
    clean (valueChks e false (.v 16) (1, false) (bitVal3 (.v 16) (.v 2) (.lit 0) permBits))) = true by decide +kernel)
  simp only [Bool.and_eq_true, decide_eq_true_eq] at hc
  refine ⟨e, hr, fun l => ?_, clean_iff hc.2⟩
  simp only [anyBits, readAny, Rd.next, locate, hc.1, regAt, Env.lit]
  rfl

theorem witness_ptov_illegal : ∃ e, Ready (tiny 0) e ∧ (48 ≤ (48#8).toNat ∨ (0#8 : Byte).toNat = 0 ∨ 32 < (33#8).toNat) ∧
    ∀ c ∈ valueChks e false (.v 16) (1, false) (ptovVal 48#8 33#8), c.2.wait = false := by
  obtain ⟨e, hr, hc⟩ := ready_env (show ready (tiny 0) (fun e => decide (∀ c ∈ valueChks e false (.v 16) (1, false) (ptovVal 48#8 33#8), c.2.wait = false)) = true by
    decide +kernel)
  exact ⟨e, hr, by decide, decide_eq_true_eq.mp hc⟩

/-- A vote's word with a bit of each field that must be zero. -/
theorem witness_vote_words : ∀ b ∈ [23, 22, 15], ∃ e, Ready (tinyWith (0x3E * 2 ^ 25 + 2 ^ b) (tinyMode 0 0)) e ∧ e.word.toNat / 2 ^ 25 = 0x3E ∧
    e.word.toNat % 256 ≤ 1 ∧ e.word.getLsbD b = true := by
  have h : [23, 22, 15].all (fun b => ready (tinyWith (0x3E * 2 ^ 25 + 2 ^ b) (tinyMode 0 0)) (fun e =>
    decide (e.word.toNat / 2 ^ 25 = 0x3E ∧ e.word.toNat % 256 ≤ 1 ∧ e.word.getLsbD b = true))) = true := by decide +kernel
  intro b hb
  obtain ⟨e, hr, hc⟩ := ready_env (List.all_eq_true.mp h b hb)
  exact ⟨e, hr, decide_eq_true_eq.mp hc⟩

/-! Bits chosen one by one, and bytes: what the statements on fields, rotations and the like ask of a result exists. -/

def bitsOf (f : Nat → Bool) : (n : Nat) → BitVec n
  | 0 => 0#0
  | n + 1 => (bitsOf f n).cons (f n)

theorem bitsOf_get (f : Nat → Bool) (n j : Nat) (h : j < n) : (bitsOf f n).getLsbD j = f j := by
  induction n with
  | zero => omega
  | succ n ih =>
    rw [bitsOf, BitVec.getLsbD_cons]
    by_cases k : j = n
    · simp [k]
    · rw [if_neg k]; exact ih (by omega)

theorem witness_bits (f : Env → Lane → Nat → Bool) : ∃ x : Env → Lane → Word, ∀ e l, ∀ j < 32, (x e l).getLsbD j = f e l j :=
  ⟨fun e l => bitsOf (f e l) 32, fun _ _ j h => bitsOf_get _ _ j h⟩

theorem witness_wide_bits (f : Env → Nat → Bool) : ∃ x : Env → DWord, ∀ e, ∀ j < 64, (x e).getLsbD j = f e j :=
  ⟨fun e => bitsOf (f e) 64, fun _ j h => bitsOf_get _ _ j h⟩

theorem witness_rot (a b : Env → Lane → Word) : ∃ x : Env → Lane → Word, ∀ e l, ∀ j < 32,
    (x e l).getLsbD ((j + (b e l).toNat) % 32) = (a e l).getLsbD j := by
  refine ⟨fun e l => bitsOf (fun i => (a e l).getLsbD ((i + 32 - (b e l).toNat % 32) % 32)) 32, fun e l j h => ?_⟩
  rw [bitsOf_get _ _ _ (by omega)]
  congr 1
  omega

theorem witness_bytes (f : Env → Lane → Nat → Nat) (hf : ∀ e l i, f e l i < 256) : ∃ x : Env → Lane → Word, ∀ e l, ∀ i < 4,
    (x e l).toNat / 256 ^ i % 256 = f e l i := by
  refine ⟨fun e l => BitVec.ofNat 32 (f e l 0 + 256 * f e l 1 + 65536 * f e l 2 + 16777216 * f e l 3), fun e l i h => ?_⟩
  have h0 := hf e l 0; have h1 := hf e l 1; have h2 := hf e l 2; have h3 := hf e l 3
  have k : (f e l 0 + 256 * f e l 1 + 65536 * f e l 2 + 16777216 * f e l 3) % 2 ^ 32 = f e l 0 + 256 * f e l 1 + 65536 * f e l 2 + 16777216 * f e l 3 :=
    Nat.mod_eq_of_lt (by omega)
  rw [BitVec.toNat_ofNat, k]
  match i, h with
  | 0, _ => omega
  | 1, _ => omega
  | 2, _ => omega
  | 3, _ => omega

theorem witness_clz (a : Word) : ∃ x : Word, x.toNat ≤ 32 ∧ a.toNat < 2 ^ (32 - x.toNat) ∧ (x.toNat < 32 → a.getLsbD (31 - x.toNat) = true) := by
  have key : ∀ n ≤ 32, a.toNat < 2 ^ n → ∃ k ≤ 32, a.toNat < 2 ^ (32 - k) ∧ (k < 32 → a.getLsbD (31 - k) = true) := by
    intro n
    induction n with
    | zero => exact fun _ h => ⟨32, Nat.le_refl _, by simpa using h, by omega⟩
    | succ n ih =>
      intro hn h
      by_cases k : a.toNat < 2 ^ n
      · exact ih (by omega) k
      · refine ⟨31 - n, by omega, by rw [show 32 - (31 - n) = n + 1 by omega]; exact h, fun _ => ?_⟩
        rw [show 31 - (31 - n) = n by omega, BitVec.getLsbD, Nat.testBit_eq_decide_div_mod_eq, decide_eq_true_eq]
        have : a.toNat / 2 ^ n = 1 := by
          apply Nat.div_eq_of_lt_le
          · omega
          · rw [Nat.pow_succ] at h; omega
        omega
  obtain ⟨k, h1, h2, h3⟩ := key 32 (Nat.le_refl _) a.isLt
  refine ⟨BitVec.ofNat 32 k, ?_⟩
  rw [BitVec.toNat_ofNat, Nat.mod_eq_of_lt (by omega)]
  exact ⟨h1, h2, h3⟩

theorem witness_ffs (a : Word) : ∃ x : Word, (a = 0 ∧ x = 0xFFFFFFFF#32) ∨ (x.toNat < 32 ∧ a.getLsbD x.toNat = true ∧ ∀ j < x.toNat, a.getLsbD j = false) := by
  have key : ∀ n ≤ 32, (∀ j < n, a.getLsbD j = false) ∨ ∃ k < n, a.getLsbD k = true ∧ ∀ j < k, a.getLsbD j = false := by
    intro n
    induction n with
    | zero => exact fun _ => .inl (by omega)
    | succ n ih =>
      intro hn
      rcases ih (by omega) with h | ⟨k, h1, h2⟩
      · by_cases hb : a.getLsbD n = true
        · exact .inr ⟨n, by omega, hb, h⟩
        · refine .inl (fun j hj => ?_)
          by_cases hj' : j = n
          · subst hj'; simpa using hb
          · exact h j (by omega)
      · exact .inr ⟨k, by omega, h2⟩
  rcases key 32 (Nat.le_refl _) with h | ⟨k, h1, h2, h3⟩
  · refine ⟨0xFFFFFFFF#32, .inl ⟨?_, rfl⟩⟩
    apply BitVec.eq_of_getLsbD_eq
    intro i hi
    simp [h i hi]
  · refine ⟨BitVec.ofNat 32 k, .inr ?_⟩
    rw [BitVec.toNat_ofNat, Nat.mod_eq_of_lt (by omega)]
    exact ⟨h1, h2, h3⟩

/-! MODE, memory, translation, the order of faults. -/

/-- Each selector with its field, a value that MODE may hold there, and, for the fields that have one, a value it may not. -/
def modeCases : List (Nat × Nat × Nat × Nat × Bool) :=
  [(0, 0, 16, 0x563F, true), (1, 16, 16, 0xFFFF - 0x30, true), (2, 7, 5, 12, true), (3, 12, 3, 5, true), (4, 15, 1, 1, true), (5, 16, 1, 0, true),
   (6, 17, 3, 7, true), (7, 20, 3, 4, true), (8, 23, 2, 3, true), (9, 25, 1, 1, true), (10, 26, 1, 0, true), (11, 27, 1, 1, true),
   (12, 28, 4, 15, true), (0, 0, 16, 48, false), (1, 16, 16, 0x50, false), (2, 7, 5, 13, false), (3, 12, 3, 6, false), (7, 20, 3, 5, false)]

theorem witness_mode_fields : ∀ x ∈ modeCases, ∃ e, Ready (tiny 0) e ∧ x.2.2.2.1 < 2 ^ x.2.2.1 ∧
    modeLegal (e.g.mode &&& ~~~ (BitVec.ofNat 32 ((2 ^ x.2.2.1 - 1) * 2 ^ x.2.1)) ||| BitVec.ofNat 32 (x.2.2.2.1 * 2 ^ x.2.1) : Word).toNat = x.2.2.2.2 := by
  have h : modeCases.all (fun x => ready (tiny 0) (fun e => decide (x.2.2.2.1 < 2 ^ x.2.2.1 ∧
    modeLegal (e.g.mode &&& ~~~ (BitVec.ofNat 32 ((2 ^ x.2.2.1 - 1) * 2 ^ x.2.1)) ||| BitVec.ofNat 32 (x.2.2.2.1 * 2 ^ x.2.1) : Word).toNat = x.2.2.2.2))) = true := by
    decide +kernel
  intro x hx
  obtain ⟨e, hr, hc⟩ := ready_env (List.all_eq_true.mp h x hx)
  exact ⟨e, hr, decide_eq_true_eq.mp hc⟩

theorem witness_guard_legal : ∃ e, Ready (tiny 0) e ∧ modeLegal e.g.mode.toNat = true := by
  obtain ⟨e, hr, hc⟩ := ready_env (show ready (tiny 0) (fun e => modeLegal e.g.mode.toNat) = true by decide +kernel)
  exact ⟨e, hr, hc⟩

theorem witness_bytes_written : (tiny 0).st.wf = true ∧ (Place.pa 0x20000070 true false false).deferred = false ∧
    (tiny 0).st.placeUp (.pa 0x20000070 true false false) = true ∧ 0x20000070 % 128 + 16 ≤ 128 := by
  decide +kernel

/-- A page that is mapped, and one that is not. -/
theorem witness_walks : (tiny 0).st.wf = true ∧ (tiny 0).st.walk 0 1 0x2000000 0x20000000 = .leaf 0xBB 0x2000000 42 ∧
    (tiny 0).st.walk 0 1 0x2000000 (2 ^ 43) = .absent := by decide +kernel

/-- An address whose page leads outside the partition's share is no place (R291). -/
theorem test_leaf_leads_outside : ((unitAgent (tiny 0).dev 0).resolve (tiny 0).st (2 ^ 40) .read, (unitAgent (tiny 0).dev 0).resolve (tiny 0).st 0x2FFFFFFFFF .read) =
    (.fatal, .ok (.pa 0x2FFFFFFFFF true false false)) := by decide +kernel

/-- A register to be waited for, and operands that fault. -/
def pendingV2 : State := tinyOf { tinyGroup 0 (tinyMode 0 0) with
  lanes := (List.range 4).map (fun i => { tinyLane 0 i with v := (tinyLane 0 i).v.set 2 { bits := 0, tag := .pending } }) } tinyTeam 0

theorem witness_fault_order : (∃ e f, Ready pendingV2 e ∧ valueForm (.mov false (.v 16) (.v 2)) = some f ∧
      ∃ c ∈ valueChks e f.u f.d (f.shape e) f.val, c.2.wait = true) ∧
    ∀ i ∈ [Instr.mov false (.s 16) (.v 2), .mov false (.v 32) (.v 2), .add true (.v 2) (.vx 0) (.v 32)], ∃ e f, Ready (tiny 0) e ∧ valueForm i = some f ∧
      (∀ c ∈ valueChks e f.u f.d (f.shape e) f.val, c.2.wait = false) ∧ (∃ c ∈ valueChks e f.u f.d (f.shape e) f.val, c.2.bad ≠ []) ∧
      e.g.part < (tiny 0).dev.parts.length := by
  constructor
  · obtain ⟨e, hr, hc⟩ := ready_env (show ready pendingV2 (fun e => decide (∃ c ∈ valueChks e false (.v 16) (1, false) (movVal (.v 2)), c.2.wait = true)) = true by
      decide +kernel)
    exact ⟨e, _, hr, rfl, decide_eq_true_eq.mp hc⟩
  · have h : [Instr.mov false (.s 16) (.v 2), .mov false (.v 32) (.v 2), .add true (.v 2) (.vx 0) (.v 32)].all (fun i => match valueForm i with
        | some f => ready (tiny 0) (fun e => decide ((∀ c ∈ valueChks e f.u f.d (f.shape e) f.val, c.2.wait = false) ∧
            (∃ c ∈ valueChks e f.u f.d (f.shape e) f.val, c.2.bad ≠ []) ∧ e.g.part < (tiny 0).dev.parts.length))
        | none => false) = true := by decide +kernel
    intro i hi
    have := List.all_eq_true.mp h i hi
    split at this
    · rename_i f hf
      obtain ⟨e, hr, hc⟩ := ready_env this
      exact ⟨e, f, hr, hf, decide_eq_true_eq.mp hc⟩
    · cases this

/-! Events. Values of an operation, an access and a place in the scratchpad of group 0. -/

def tinyAcc (pl : Place) : Acc :=
  { lid := 0, va := 0xFFFFFF0000000000#64, place := pl, data := [], writers := [(0, .v 16)], got := none, cell := none, joined := 0 }

def tinyOp (k : OpKind) (accs : List Acc) : Op :=
  { opid := 7, gid := 0, tid := 0, part := 0, core := 0, gslot := 0, gen := 0, pc := 0x10004#64, word := 0, mode := 0, fmv := 0, omv := 0, flag := some 1, kind := k,
    size := 4, tags := [.raw], accs := accs, started := true, breached := false, deadline := none, missed := false, words := [], hdrVa := 0, hdr := [] }

def tinyD (f : Dev → Dev) : State := (tiny 0).onDev f
def withOp (o : Op) : State := tinyD (fun d => { d with ops := [o] })
def inPart (f : Part → Part) : State := tinyD (fun d => d.modPart 0 f)
def inGroup (f : Group → Group) : State := tinyOf (f (tinyGroup 0 (tinyMode 0 0))) tinyTeam 0
def hardLine (s : State) : State := s.onSt (fun st => { st with errs := [(.mem (0x20000000 / 128), true)] })

def memPlace : Place := .pa 0x20000000 true false false
def loadOp (pl : Place) : Op := tinyOp .load [tinyAcc pl]

theorem witness_completion :
    ((withOp (loadOp memPlace)).dev.op? 7 = some (loadOp memPlace) ∧ (withOp (loadOp memPlace)).dev.working 0 = true ∧
      OpKind.load.completes = true ∧ (loadOp memPlace).goesOn = true ∧ (withOp (loadOp memPlace)).dev.writeHeld (loadOp memPlace) = false ∧
      ((State.afterAttempt 7 ((withOp (loadOp memPlace)).attempt 7 false)).dev.op? 7).isSome = true) ∧
    State.allGot { loadOp memPlace with accs := [{ tinyAcc memPlace with got := some [1, 2, 3, 4] }] } = true ∧
    ((hardLine (withOp (loadOp memPlace))).dev.op? 7 = some (loadOp memPlace) ∧ (hardLine (withOp (loadOp memPlace))).dev.working 0 = true ∧
      (State.afterAttempt 7 ((hardLine (withOp (loadOp memPlace))).attempt 7 false)).dev.op? 7 = none) := by decide +kernel

def strlState : State := withOp (tinyOp .strl [tinyAcc memPlace])
def dirtyState : State := (tiny 0).onSt (fun st => { st with lines :=
  [{ core := 0, cache := 0, line := 5, stream := false, body := { data := List.replicate 128 1, dirty := List.replicate 128 true } },
   { core := 0, cache := 1, line := 6, stream := false, body := { data := List.replicate 128 1, dirty := List.replicate 128 false } }] })

theorem witness_writes_performed :
    (strlState.dev.ops.find? (fun o => o.core == 0 && strlState.dev.writeReady o && strlState.dev.working o.part &&
      o.accs.any (fun x => x.place.base / 128 == 0x20000000 / 128))).isSome = true ∧
    dirtyState.st.lines.length = 2 := by decide +kernel

theorem witness_evictions : (dirtyState.dev.part (dirtyState.dev.partOfCore 0)).paused = false ∧ (lineAt dirtyState.st.lines 0 0 5).isSome = true ∧ (lineAt dirtyState.st.lines 0 0 6).isSome = false ∧
    ∃ l ∈ dirtyState.st.lines, l.core = 0 ∧ l.line = 6 := by decide +kernel

theorem witness_walk_event : (tiny 0).dev.working 0 = true ∧ (tiny 0).dev.present 0 ≠ [] ∧ (0x20000000#64 : DWord).toNat < windowBase ∧
    canonical (0x20000000#64 : DWord).toNat = true ∧ (tiny 0).st.tlbHit 0 0 0x20000000 = none ∧
    (tiny 0).st.walk 0 1 0x2000000 0x20000000 = .leaf 0xBB 0x2000000 42 ∧ bit 0xBB 4 = true := by decide +kernel

def starving : State := (inGroup (fun g => { g with since := some 0 })).onDev (fun d => d.modCluster 0 (fun c => { c with cyc := 256 }))
theorem witness_starved : (starving.dev.group? 0).isSome = true ∧ (∀ g ∈ starving.dev.groups, (∃ c, g.since = some c ∧ c + 256 ≤ starving.dev.cycOf g.part g.core) ∧ g.canIssue starving.dev = true ∧
    (starving.dev.core g.core).starved.contains (g.islot, 0) = false) := by decide +kernel

def replaying : State := inPart (fun p => { p with replaying := [64] })
theorem witness_waiter_replay : (List.range 4).find? (fun q => (replaying.dev.part q).replaying.contains 64) = some 0 ∧
    replaying.dev.working 0 = true := by decide +kernel

def waitingOp : Op := tinyOp .load [{ tinyAcc (.pa 0x20000000 true false true) with cell := some 0x20000000 }]
def timedOut : State := (withOp waitingOp).onDev (fun d => { d with time := 20000000 })
theorem witness_defer_timeout : timedOut.dev.op? 7 = some waitingOp ∧ timedOut.dev.working 0 = true ∧
    (timedOut.dev.part 0).replaying.contains 0x20000000 = false ∧ ∃ x ∈ waitingOp.accs.filter (fun x => x.cell == some 0x20000000),
      x.joined + ((timedOut.dev.part 0).desc.getD Desc.none).deferTimeout * 2000 ≤ timedOut.dev.time := by decide +kernel

/-! Groups and teams. -/

def spent : State := inGroup (fun g => { g with lanes := g.lanes.map (fun l => { l with exited := true }) })
theorem witness_group_retire : (spent.dev.group? 0).isSome = true ∧ (∀ g ∈ spent.dev.groups, (∀ l ∈ g.lanes, l.live = false) ∧
    (∀ n ∈ g.flags, n = 0) ∧ spent.dev.working g.part = true) := by decide +kernel

def emptyTeam (succ : Option LaunchRec) : State := (tinyOf (tinyGroup 0 0) { tinyTeam with succ := succ } 0).onDev (fun d => { d with groups := [] })
theorem witness_team_retire :
    ((emptyTeam none).dev.team? 0 = some tinyTeam ∧ (emptyTeam none).dev.teamGroups 0 = [] ∧ tinyTeam.pending = [] ∧
      (∀ e ∈ (emptyTeam none).dev.engs, e.tid = 0 → e.packet.isSome = true) ∧ (emptyTeam none).dev.ops = [] ∧
      (emptyTeam none).dev.cores.all (fun c => c.mq.all (fun x => x.tid != 0)) = true ∧ (emptyTeam none).dev.working 0 = true ∧ tinyTeam.succ = none) ∧
    ((emptyTeam (some tinyShape)).dev.team? 0 = some { tinyTeam with succ := some tinyShape } ∧
      (emptyTeam (some tinyShape)).dev.teamGroups 0 = [] ∧ ((emptyTeam (some tinyShape)).dev.part 0).run = .running ∧
      (emptyTeam none).dev.working 0 = true ∧
      { (emptyTeam (some tinyShape)).dev with teams := [] }.teamFits tinyShape tinyTeam.cores = true ∧
      ({ (emptyTeam (some tinyShape)).dev with teams := [] }.framesFor 0 false tinyShape.stack (tinyShape.width * tinyShape.groups)).isSome = true) := by
  decide +kernel

def regrouping : State := (tiny 0).onDev (fun d =>
  { d with groups := [{ tinyGroup 0 0 with wait := some (.regroup true 1 1 1 [0]) },
                      { tinyGroup 0 0 with gid := 1, gix := 1, gslot := 1, wait := some (.regroup false 0 1 1 [0]) }] })
theorem witness_regroup_move : ∃ g r, regrouping.dev.group? 0 = some g ∧ regrouping.dev.group? 1 = some r ∧
    g.wait = some (.regroup true 1 1 1 [0]) ∧ r.wait = some (.regroup false 0 1 1 [0]) ∧ regrouping.dev.working g.part = true ∧ g.tid = r.tid ∧ 1 = r.gix ∧ 0 = g.gix ∧
    (∀ k ∈ g.flags, k = 0) ∧ (∀ x ∈ g.sregs, x.tag ≠ .pending) ∧ (∀ l ∈ g.lanes, ∀ x ∈ l.v, x.tag ≠ .pending) :=
  ⟨{ tinyGroup 0 0 with wait := some (.regroup true 1 1 1 [0]) },
   { tinyGroup 0 0 with gid := 1, gix := 1, gslot := 1, wait := some (.regroup false 0 1 1 [0]) }, by decide +kernel⟩

def leaving : Barrier := { ph := 1, arrived := [], marks := [], flip := none, leaving := [0], after := [(0, 9)], due := 0 }
def leavingTeam : Team := { tinyTeam with barriers := [leaving] }
def leavingState : State := tinyOf (tinyGroup 0 0) leavingTeam 0
theorem witness_barrier_release : leavingState.dev.team? 0 = some leavingTeam ∧
    leavingTeam.barriers[0]? = some leaving ∧ leavingState.dev.ops = [] ∧
    leavingTeam.out = false ∧ leavingState.dev.working 0 = true := by decide +kernel

def hiddenTeam : Team := { tinyTeam with hidden := [0] }
def hiddenState : State := (tinyOf (tinyGroup 0 0) hiddenTeam 0).onDev (fun d => d.modCluster 0 (fun c => { c with cyc := 4096 }))
theorem witness_wave : hiddenState.dev.team? 0 = some hiddenTeam ∧ hiddenTeam.hidden ≠ [] ∧ hiddenTeam.out = false ∧
    hiddenState.dev.working 0 = true ∧ hiddenTeam.placedAt + hiddenState.dev.waveSp 0 ≤ hiddenState.dev.cycOf 0 0 := by decide +kernel

def launchEntry : Launch := { lno := 9, part := 0, shape := { tinyShape with teams := 1 }, origin := .device, nextTix := 0, retired := 0, lastPlaced := none, inTable := true }
def launching : State := inPart (fun p => { p with launches := [launchEntry] })
def outTeam : Team := { tinyTeam with out := true }
def outState : State := (tinyOf (tinyGroup 0 0) outTeam 0).onDev (fun d => d.modPart 0 (fun p => { p with out := [0] }))

def isBack (t : Team) : Option Head → Bool | some (.back k) => k == t | _ => false
def isTeam (l : Launch) : Option Head → Bool | some (.team k) => k == l | _ => false
def isFrames (x : Draw) : Option Head → Bool | some (.frames k) => k == x | _ => false
theorem isBack_iff {t h} (k : isBack t h = true) : h = some (.back t) := by
  unfold isBack at k; split at k <;> simp_all
theorem isTeam_iff {t h} (k : isTeam t h = true) : h = some (.team t) := by
  unfold isTeam at k; split at k <;> simp_all
theorem isFrames_iff {t h} (k : isFrames t h = true) : h = some (.frames t) := by
  unfold isFrames at k; split at k <;> simp_all

theorem witness_team_placement :
    (launching.dev.working 0 = true ∧ launching.head 0 = some (.team launchEntry) ∧ (launching.dev.chooseSite 0 launchEntry.shape).isSome = true ∧
      (launching.dev.framesFor 0 false 4096 (32 * 1)).isSome = true ∧ launchEntry.lastPlaced = none) ∧
    (outState.dev.working 0 = true ∧ outState.head 0 = some (.back outTeam) ∧ (outState.dev.chooseSite 0 outTeam.shape).isSome = true) :=
  ⟨⟨by decide +kernel, isTeam_iff (by decide +kernel), by decide +kernel⟩, by decide +kernel, isBack_iff (by decide +kernel), by decide +kernel⟩

def swapTeam : Team := { tinyTeam with candidateSince := some 0 }
def swapLaunch : Launch := { launchEntry with shape := { tinyShape with acc := 60, teams := 1 } }
def swapping : State := (tinyOf { tinyGroup 0 0 with wait := some (.waitv 7 0), waiting := [0, 1, 2, 3] } swapTeam 0).onDev (fun d =>
  { (d.modPart 0 (fun p => { p with launches := [swapLaunch], desc := some { p.desc.getD Desc.none with saveLen := 2 ^ 30 } })).modCluster 0 (fun c => { c with cyc := 2 ^ 30 }) with
    cores := Core.reset :: List.replicate 143 { Core.reset with working := false } })
theorem witness_swap_out : ∃ h, swapping.dev.team? 0 = some swapTeam ∧ swapping.head swapTeam.part = some h ∧ swapping.dev.working 0 = true ∧
    swapping.dev.headFits 0 h = false ∧ (∃ k ∈ swappable swapping 0 h, k.tid = 0) ∧
    (∀ k ∈ swappable swapping 0 h, k.stamp ≤ swapTeam.stamp) ∧ swapping.dev.saveRoom swapTeam = true :=
  ⟨.team swapLaunch, by decide +kernel, isTeam_iff (by decide +kernel), by decide +kernel, by decide +kernel, by decide +kernel, by decide +kernel, by decide +kernel⟩

def overLaunch (counter : DWord) : Launch :=
  { launchEntry with shape := { tinyShape with teams := 1, counter := counter }, retired := 1, inTable := false }
def overState (counter : DWord) : State := inPart (fun p => { p with launches := [overLaunch counter] })

theorem release_clean {st : Store} (c : Nat) (h : st.lines = []) : st.release c = st := by
  simp [Store.release, Store.dirtyLines, h]

theorem releaseAll_clean {s : State} {q : Nat} (h : s.st.lines = []) : releaseAll s q = s := by
  have (cs : List Nat) (st : Store) (k : st.lines = []) : cs.foldl (fun st c => st.release c) st = st := by
    induction cs with
    | nil => rfl
    | cons c cs ih => rw [List.foldl_cons, release_clean c k, ih]
  simp only [releaseAll, State.onSt, this _ _ h]

theorem witness_launch_complete :
    (∀ c ∈ [0, 0x20000000], (List.range 4).findSome? (fun q => (((overState (BitVec.ofNat 64 c)).dev.part q).launch? 9).map (fun l => (q, l))) =
        some (0, overLaunch (BitVec.ofNat 64 c)) ∧ (overLaunch (BitVec.ofNat 64 c)).inTable = false ∧
      (overLaunch (BitVec.ofNat 64 c)).shape.teams ≤ (overLaunch (BitVec.ofNat 64 c)).retired ∧ (overState (BitVec.ofNat 64 c)).dev.working 0 = true) ∧
    (overLaunch 0#64).shape.counter = 0 ∧ (overLaunch 0x20000000#64).shape.counter ≠ 0 := by decide +kernel

theorem witness_launch_counter : let u := releaseAll (overState 0x20000000#64) 0
    (unitAgent u.dev 0).resolve u.st 0x20000000 .write = .ok (.pa 0x20000000 true false false) := by
  have h : releaseAll (overState 0x20000000#64) 0 = overState 0x20000000#64 := releaseAll_clean rfl
  rw [h]
  decide +kernel

def pendingTeam : Team := { tinyTeam with pending := [(3, record)] }
def pendingState : State := tinyOf (tinyGroup 0 0) pendingTeam 0
theorem witness_pending_accept : pendingState.dev.team? 0 = some pendingTeam ∧ pendingTeam.pending = (3, record) :: [] ∧
    pendingState.dev.working 0 = true ∧
    pendingState.dev.tableTakes 0 3 = true := by decide +kernel

/-! Task and evaluator waves. -/

def tinyWave : Wave := { wno := 5, entry := 0x20000000#64, regs := 24, stack := 4096, tasks := [(0, 0#64)], core := 0, first := 0 }
def gathered : State := tinyD (fun d => d.modCluster 0 (fun c => { c with waves := [tinyWave], cyc := 4096 }))
def released : State := tinyD (fun d => d.modCluster 0 (fun c => { c with released := [tinyWave] }))
theorem witness_task_waves :
    ((gathered.dev.cluster 0).waves.find? (fun w => w.wno == 5) = some tinyWave ∧ gathered.dev.working (gathered.dev.partOfCore 0) = true ∧
      tinyWave.first + ((gathered.dev.part 0).desc.getD Desc.none).gatherWait ≤ gathered.dev.cycOf 0 0) ∧
    ((released.dev.cluster 0).released = tinyWave :: [] ∧ (taskSite released (released.dev.partOfCore 0) 0 tinyWave).isSome = true ∧
      released.dev.working (released.dev.partOfCore 0) = true) := by decide +kernel

def tinyEval (queued : Bool) : EvalWave :=
  { entry := 0x20000000#64, lanes := [{ arg := 0, va := 0x20000000#64, ticket := 3, chain := [], cell := 0x20000000, trig := 0 }], core := 0, queued := queued }
def evaluating (queued : Bool) : State := (inPart (fun p => { p with evals := [tinyEval queued] })).onDev (fun d => d.modCore 0 (fun c => { c with cw := 1 }))
/-- The partition's cores all fail: no core takes a wave. -/
def noCores : State := (evaluating false).onDev (fun d => { d with cores := List.replicate 144 { Core.reset with working := false } })
theorem witness_evaluators :
    ((evaluating false).dev.working 0 = true ∧ ((evaluating false).dev.part 0).evals.zipIdx.find? (fun w => !w.1.queued) = some (tinyEval false, 0) ∧
      (evaluating false).dev.allWaiting 0 = false ∧ (evaluating false).dev.printSlots 0 64 ≠ 0 ∧
      ((evaluating false).placeEval 0 0 (tinyEval false) []).isSome = true) ∧
    (noCores.dev.working 0 = true ∧ (noCores.dev.part 0).evals.zipIdx.find? (fun w => !w.1.queued) = some (tinyEval false, 0) ∧
      noCores.dev.printSlots 0 64 = 0 ∧ noCores.dev.mostSlots ((List.range 4).filter (fun c => !noCores.dev.allWaiting c)) 64 = none) ∧
    ((evaluating true).dev.working 0 = true ∧ ((evaluating true).dev.part 0).evals = tinyEval true :: [] ∧ (tinyEval true).queued = true ∧
      (evaluating true).dev.mostSlots ((evaluating true).dev.coresOf 0) 64 = some 1 ∧
      ((evaluating true).placeEval 0 1 (tinyEval true) []).isSome = true) := by decide +kernel

/-! The matrix queue, engines and samplers. -/

def tinyMx (k : MxKind) (n : Nat) : MxEntry :=
  { opid := n, gid := 0, tid := 0, part := 0, gen := 0, pc := 0x10004#64, word := 0, kind := k, mode := tinyMode 4 0, fmv := 0, omv := 0, accKey := 0,
    accBase := 0, ncols := 8, aux := 0, dst := 16, rows := [], writers := [0], tile := { etag := 4, fm := 0, first := 0, rows := [], scales := [], keys := [] },
    flag := none, deadline := none, breached := false, jointNo := 0, member := 0, issued := 0, done := 0, cost := 0 }
def queued (x : MxEntry) (ops : List Op) : State := tinyD (fun d => { d.modCore 0 (fun c => { c with mq := [x] }) with ops := ops })

theorem witness_matrix_operations :
    (∀ k ∈ [MxKind.mma, .zero, .scale, .rd], ((queued (tinyMx k 7) []).dev.core 0).mq = tinyMx k 7 :: [] ∧
      (queued (tinyMx k 7) []).dev.working 0 = true ∧ (tinyMx k 7).kind = k) ∧
    (∀ k ∈ [MxKind.ld, .st], ((queued (tinyMx k 7) [loadOp memPlace]).dev.core 0).mq = tinyMx k 7 :: [] ∧
      (queued (tinyMx k 7) [loadOp memPlace]).dev.working 0 = true ∧ (queued (tinyMx k 7) [loadOp memPlace]).dev.op? 7 = some (loadOp memPlace) ∧
      (loadOp memPlace).goesOn = true) := by decide +kernel

/-- The entry's slot holds an error that cannot be corrected. -/
def hurtSlot (k : MxKind) : State := (queued (tinyMx k 7) []).onSt (fun st => { st with errs := [(.acc 0, true)] })
theorem witness_matrix_errors : ∀ k ∈ [MxKind.mma, .scale, .rd], ((hurtSlot k).dev.core 0).mq = tinyMx k 7 :: [] ∧ (hurtSlot k).dev.working 0 = true ∧
    ∃ y ∈ (tinyMx k 7).sites, (hurtSlot k).st.errAt y = some true := by decide +kernel

theorem witness_matrix_frames : ∀ k ∈ [MxKind.mma, .zero, .scale, .rd], Inv (queued (tinyMx k 7) []) ∧
    ∃ t, exec (.matrixOperation 0) (queued (tinyMx k 7) []) = .next t := by
  have h : [MxKind.mma, .zero, .scale, .rd].all (fun k => (queued (tinyMx k 7) []).st.wf && goes (exec (.matrixOperation 0) (queued (tinyMx k 7) []))) = true := by
    decide +kernel
  intro k hk
  have := List.all_eq_true.mp h k hk
  rw [Bool.and_eq_true] at this
  exact ⟨this.1, goes_iff this.2⟩

def jointTeam : Team := { tinyTeam with cores := [0, 1, 2, 3] }
/-- The first `n` members of a joint set have their operation queued. -/
def jointState (n : Nat) : State := (tinyOf (tinyGroup 0 0) jointTeam 0).onDev (fun d =>
  { d.modCluster 0 (fun c => { c with cyc := 2 ^ 30 }) with
    cores := (List.range n).map (fun i => { Core.reset with mq := [{ tinyMx .mmj (20 + i) with member := i }] }) ++ List.replicate (144 - n) Core.reset })
theorem witness_joint_operations : (jointState 4).dev.team? 0 = some jointTeam ∧ (jointState 2).dev.team? 0 = some jointTeam ∧
    (jointState 4).dev.working 0 = true ∧ (jointState 2).dev.working 0 = true ∧ ((jointState 4).dev.jointEntries jointTeam).length = 4 ∧
    (∀ cx ∈ (jointState 4).dev.jointEntries jointTeam, ((jointState 4).dev.core cx.1).mq.head?.map (·.opid) = some cx.2.opid) ∧
    ((jointState 2).dev.jointEntries jointTeam).length ≠ 4 ∧ ∃ cx ∈ (jointState 2).dev.jointEntries jointTeam,
      cx.2.issued + (((jointState 2).dev.part 0).desc.getD Desc.none).jointWait ≤ (jointState 2).dev.cycOf 0 cx.1 := by decide +kernel

/-- The joint set has started: each member's entry is one k step on. -/
def jointRunning : State := (jointState 4).onDev (fun d => { d with cores := d.cores.map (fun c =>
  { c with mq := c.mq.map (fun x => { x with done := 1 }) }) })
theorem witness_joint_steps : (jointRunning.dev.core 0).mq = { tinyMx .mmj 20 with done := 1 } :: [] ∧ jointRunning.dev.working 0 = true ∧
    jointRunning.dev.team? 0 = some jointTeam ∧ jointRunning.dev.jointHeads (jointRunning.dev.jointEntries jointTeam) = true ∧
    (∀ cx ∈ jointRunning.dev.jointEntries jointTeam, cx.2.done ≠ 0) ∧ Inv jointRunning ∧ Inv (jointState 4) ∧
    (∃ t, exec (.matrixOperation 0) jointRunning = .next t) ∧ ∃ t, exec (.jointOperationStart 0) (jointState 4) = .next t := by
  obtain ⟨t, ht⟩ := goes_iff (show goes (exec (.matrixOperation 0) jointRunning) = true by decide +kernel)
  obtain ⟨u, hu⟩ := goes_iff (show goes (exec (.jointOperationStart 0) (jointState 4)) = true by decide +kernel)
  exact ⟨by decide +kernel, by decide +kernel, by decide +kernel, by decide +kernel, by decide +kernel, by unfold Machine.Inv; decide +kernel,
    by unfold Machine.Inv; decide +kernel, ⟨t, ht⟩, ⟨u, hu⟩⟩

def tinyEng (k : EngKind) : Eng :=
  { eid := 7, kind := k, part := 0, core := 0, gid := 0, tid := 0, fut := 0, gen := 0, scope := 0, desc := copyDesc, hdrVa := 0x20010000#64, fm := [],
    cancelled := false, progress := 0, held := [], halfDone := [0, 1, 2, 3], parkSeq := none, deadline := none, packet := none, launch := 0, tix := 0, pc := 0, lids := [0] }
def engine (k : EngKind) : State := tinyD (fun d => { d with engs := [tinyEng k] })
theorem witness_engine_completion : ∀ k ∈ [EngKind.copy, .coll, .gath, .xfer, .smma, .wpin, .winv], (engine k).dev.eng? 7 = some (tinyEng k) ∧
    (engine k).engGoes (tinyEng k) = true ∧ (engine k).engTardy (tinyEng k) = false ∧ 4 ≤ (tinyEng k).halfDone.length := by decide +kernel

def quadOp (hdr : List Byte) (pl : Place) : Op := { tinyOp .smp [tinyAcc pl] with hdr := hdr, hdrVa := 0x20010000#64 }
def quadState (o : Op) : State := tinyD (fun d => { d.modSampler 0 0 (fun p => { p with order := [.quad 7 0] }) with ops := [o] })
def quadAfter (s : State) : State := State.afterAttempt 7 (s.attemptOn 7 false (fun x => x.lid / 4 == 0))
theorem witness_sampler_quads :
    ((quadState (quadOp neuralHeader memPlace)).dev.op? 7 = some (quadOp neuralHeader memPlace) ∧
      ((quadState (quadOp neuralHeader memPlace)).dev.sampler 0 0).order = .quad 7 0 :: [] ∧
      (quadState (quadOp neuralHeader memPlace)).dev.working 0 = true ∧ (Header.ofBytes 0x20010000#64 neuralHeader).neural = true ∧
      ((quadState (quadOp neuralHeader memPlace)).dev.sampler 0 0).fills = [] ∧
      ((quadState (quadOp neuralHeader memPlace)).dev.sampler 0 0).missing (Header.ofBytes 0x20010000#64 neuralHeader) ≠ []) ∧
    ((quadState (quadOp textureHeader memPlace)).dev.op? 7 = some (quadOp textureHeader memPlace) ∧
      (quadState (quadOp textureHeader memPlace)).dev.working 0 = true ∧ (Header.ofBytes 0x20010000#64 textureHeader).neural = false ∧
      (∃ x ∈ (quadOp textureHeader memPlace).accs, x.lid / 4 = 0 ∧ x.got = none ∧ x.cell = none) ∧
      ((quadAfter (quadState (quadOp textureHeader memPlace))).dev.op? 7).isSome = true ∧
      (quadAfter (hardLine (quadState (quadOp textureHeader memPlace)))).dev.op? 7 = none) := by decide +kernel

def tinyFill (base : DWord) : Fill := { hdrVa := 0x20010000#64, wver := 1, block := 0, pin := false, wbase := base, imageLen := 256, eng := none }
def fillState (base : DWord) : State := tinyD (fun d => d.modSampler 0 0 (fun p => { p with fills := [tinyFill base] }))

def readsOk (r : State × List Byte × EngStop) : Bool := match r.2.2 with | .ok => true | _ => false
theorem readsOk_iff {r : State × List Byte × EngStop} (h : readsOk r = true) : ∃ u bs, r = (u, bs, .ok) := by
  obtain ⟨u, bs, x⟩ := r
  cases x <;> simp_all [readsOk]
def readsAbsent (r : State × List Byte × EngStop) : Bool := match r.2.2 with | .absent _ => true | _ => false
theorem readsAbsent_iff {r : State × List Byte × EngStop} (h : readsAbsent r = true) : ∃ u bs va, r = (u, bs, .absent va) := by
  obtain ⟨u, bs, x⟩ := r
  cases x <;> simp_all [readsAbsent]

theorem witness_weight_fills :
    (∃ u bs, (fillState 0x20030000#64).engRead { unitAgent (fillState 0x20030000#64).dev 0 with core := 0 } (0x20030000 % 2 ^ 64) (min 1024 256) = (u, bs, .ok)) ∧
    (∃ u bs va, (fillState 0x500000000000#64).engRead { unitAgent (fillState 0x500000000000#64).dev 0 with core := 0 } (0x500000000000 % 2 ^ 64)
      (min 1024 256) = (u, bs, .absent va)) ∧
    ((fillState 0x20030000#64).dev.sampler 0 0).fills = tinyFill 0x20030000#64 :: [] ∧ (fillState 0x20030000#64).dev.working 0 = true ∧
    ((fillState 0x20030000#64).dev.part 0).parks = [] ∧ (fillState 0x20030000#64).fillSample 0 0 (tinyFill 0x20030000#64) = none ∧
    (fillState 0x500000000000#64).fillSample 0 0 (tinyFill 0x500000000000#64) = none :=
  ⟨readsOk_iff (by decide +kernel), readsAbsent_iff (by decide +kernel), by decide +kernel⟩

theorem witness_observe : firstObserve [] ((tinyD (fun d => d.modSampler 0 0 (fun p =>
      { p with order := [.quad 3 0, .observe 7 0x20010000#64 false] }))).dev.sampler 0 0).order =
    some ([.quad 3 0], 7, 0x20010000#64, []) := by decide +kernel

/-! Waits, holds and parks. -/

def waitOp : Op := { tinyOp .waitv [tinyAcc memPlace] with words := [1#32] }
def waitState : State := (tinyOf { tinyGroup 0 0 with wait := some (.waitv 7 0), waiting := [0, 1, 2, 3] } tinyTeam 0).onDev (fun d => { d with ops := [waitOp] })
theorem witness_waitv_recheck : (waitState.dev.group? 0).map (·.wait) = some (some (.waitv 7 0)) ∧ waitState.dev.op? 7 = some waitOp ∧
    waitState.dev.working 0 = true ∧ waitState.dev.team? 0 = some tinyTeam ∧ tinyTeam.out = false ∧
    (0 ≤ waitState.dev.cycOf 0 0 ∨ waitState.waitChanged waitOp = true) ∧ (∀ x ∈ waitOp.accs, x.cell = none) := by decide +kernel

def sleeping : State := inGroup (fun g => { g with lanes := g.lanes.map (fun l => { l with hold := some (.wcyc 0) }) })
theorem witness_wcyc_release : (sleeping.dev.group? 0).isSome = true ∧ (∀ g ∈ sleeping.dev.groups, sleeping.dev.working g.part = true ∧
    g.lanes.filter (·.wcycDue (sleeping.dev.cycOf g.part g.core)) ≠ []) := by decide +kernel

def tinyFault : FaultRec :=
  { gid := some 0, code := .translation, pc := 0x10004#64, mask := 15, addr := 0, core := 0, gslot := 0, gix := 0, tix := 0, launchId := 0, unit := 0,
    detail := 0, delivered := [], written := none, header := false, hword := none, trap := false, found := 0 }
theorem witness_park : ∃ g, (inGroup (fun g => { g with parking := some tinyFault })).dev.group? 0 = some g ∧ g.parking = some tinyFault ∧
    (inGroup (fun g => { g with parking := some tinyFault })).dev.working g.part = true :=
  ⟨{ tinyGroup 0 (tinyMode 0 0) with parking := some tinyFault }, by decide +kernel⟩

/-! Contexts that stop. -/

def allParked : State := inGroup (fun g => { g with parked := some 1 })
theorem witness_parked_switch_out : allParked.dev.working 0 = true ∧ allParked.dev.residents 0 ≠ [] ∧
    ((allParked.dev.part 0).desc.getD Desc.none).parkPct * (allParked.dev.residents 0).length ≤
      100 * ((allParked.dev.residents 0).filter (fun g => g.parked.isSome)).length := by decide +kernel

theorem witness_halt : ((inPart (fun p => { p with halt := true })).dev.part 0).halt = true ∧
    ((inPart (fun p => { p with halt := true })).dev.part 0).run = .running := by decide +kernel

def preempted : State := (inPart (fun p => { p with run := .draining, preemptAt := some 0 })).onDev (fun d => { d with time := 10 ^ 9 })
theorem witness_preempted : preempted.dev.sincePreempt 0 = some (10 ^ 9) ∧ (preempted.dev.part 0).run = .draining ∧ (preempted.dev.part 0).halt = false ∧
    ((preempted.dev.part 0).desc.getD Desc.none).deadlineA * 2000 ≤ 10 ^ 9 ∧
    ((preempted.dev.part 0).desc.getD Desc.none).deadlineB * 2000 ≤ 10 ^ 9 := by decide +kernel

def stalled : State := (inPart (fun p => { p with progress := 2000, desc := some { Desc.plain with watchdog := 1 } })).onDev
  (fun d => { d with engs := [tinyEng .copy] })
theorem witness_watchdog : stalled.dev.working 0 = true ∧ ((stalled.dev.part 0).desc.getD Desc.none).watchdog ≠ 0 ∧
    ((stalled.dev.part 0).desc.getD Desc.none).watchdog * 2000 ≤ (stalled.dev.part 0).progress ∧ stalled.dev.stallable 0 = true := by decide +kernel

/-- Lockup mode, the deadline of everything past. -/
def locked (f : Dev → Dev) : State := (inPart (fun p => { p with cyc := 100, desc := some { Desc.plain with timing := 1 } })).onDev f
def lateOp : Op := { loadOp memPlace with deadline := some 99 }
def lateMx : MxEntry := { tinyMx .mma 7 with deadline := some 99 }
def lateEng : Eng := { tinyEng .copy with deadline := some 99 }
def heldLane : Lane := { tinyLane 0 0 with hold := some (.eng 7 (some 99) [] 0 []) }
def heldGroup : Group := { tinyGroup 0 0 with lanes := [heldLane] }
def lateOpState : State := locked (fun d => { d with ops := [lateOp] })
def lateMxState : State := locked (fun d => d.modCore 0 (fun c => { c with mq := [lateMx] }))
def lateEngState : State := locked (fun d => { d with engs := [lateEng] })
def lateHeldState : State := locked (fun d => { d with groups := [heldGroup] })

theorem witness_breach_of_operation : lateOpState.dev.op? 7 = some lateOp ∧ (∀ c ∈ lateOpState.dev.cores, ∀ x ∈ c.mq, x.opid ≠ 7) ∧
    lateOp.breached = false ∧ lateOpState.dev.lockup 0 = true ∧ lateOpState.dev.working 0 = true ∧
    overdue (lateOpState.dev.part 0).cyc lateOp.deadline = true := by decide +kernel

theorem witness_breach_of_matrix : lateMxState.dev.op? 7 = none ∧
    lateMxState.dev.cores.zipIdx.findSome? (fun c => (c.1.mq.find? (fun x => x.opid == 7)).map (fun x => (c.2, x))) = some (0, lateMx) ∧
    lateMx.breached = false ∧ lateMxState.dev.lockup 0 = true ∧ lateMxState.dev.working 0 = true ∧
    overdue (lateMxState.dev.part 0).cyc lateMx.deadline = true := by decide +kernel

theorem witness_breach_of_engine : lateEngState.dev.op? 7 = none ∧ (∀ c ∈ lateEngState.dev.cores, ∀ x ∈ c.mq, x.opid ≠ 7) ∧
    lateEngState.dev.eng? 7 = some lateEng ∧ lateEngState.dev.lockup 0 = true ∧ lateEngState.dev.working 0 = true ∧
    overdue (lateEngState.dev.part 0).cyc lateEng.deadline = true := by decide +kernel

theorem witness_breach_of_held : lateHeldState.dev.op? 7 = none ∧ (∀ c ∈ lateHeldState.dev.cores, ∀ x ∈ c.mq, x.opid ≠ 7) ∧
    lateHeldState.dev.eng? 7 = none ∧ lateHeldState.dev.heldEng 7 = some (heldGroup, heldLane, some 99) ∧
    lateHeldState.dev.lockup 0 = true ∧ lateHeldState.dev.working 0 = true ∧
    overdue (lateHeldState.dev.part 0).cyc (some 99) = true := by decide +kernel

/-! Clocks and health. -/

def clock (t : Nat) (f : Dev → Dev) : State := tinyD (fun d => { f d with time := t })
def limited (l : Limit) : State := clock (5 * 10 ^ 6 * 2000 + 1000) (fun d =>
  { d.modCluster 0 (fun c => { c with thermal := l, current := l }) with power := l })
def hotLimit : Limit := { Limit.reset with since := [some 0, none, none] }
theorem witness_reference_pause :
    (((clock 2000 (fun d => d.modPart 0 (fun p => { p with paused := true }))).dev.part 0).paused = true ∧
      (clock 2000 (fun d => d.modPart 0 (fun p => { p with paused := true }))).dev.stopped 0 = false ∧
      (clock 2000 (fun d => d.modPart 0 (fun p => { p with paused := true }))).dev.time % usec = 0) ∧
    (((locked (fun d => d.modCluster 0 (fun c => { c with thermal := { Limit.reset with state := 3 } }))).dev.part 0).paused = false ∧
      (locked (fun d => d.modCluster 0 (fun c => { c with thermal := { Limit.reset with state := 3 } }))).dev.stopped 0 = true ∧
      (locked (fun d => d.modCluster 0 (fun c => { c with thermal := { Limit.reset with state := 3 } }))).dev.time % usec = 0) := by
  decide +kernel

theorem witness_frame_slots : (clock 0 id).dev.inSlots 0 3 = true ∧ (clock 500 id).dev.inSlots 4 5 = true ∧ (clock 750 id).dev.inSlots 6 7 = true ∧
    (clock 1000 id).dev.inSlots 8 9 = true := by decide +kernel

def movingLine : L2Line := { part := 0, line := 5, phys := 5, slice := 1, cls := 0, hist := List.replicate 16 9, body := { data := List.replicate 128 0, dirty := List.replicate 128 false } }
def moving : State := (clock 750 id).onSt (fun st => { st with l2 := [movingLine] })
theorem witness_migration : moving.dev.inSlots 6 7 = true ∧ moving.dev.lockup 0 = false ∧ moving.dev.clocked 0 = true ∧
    moving.st.l2.find? (fun l => l.part == 0 && l.line == 5) = some movingLine ∧ (moving.dev.moveTo movingLine).isSome = true := by decide +kernel

def oddSensor : State := clock (11 * msec + 1000) (fun d => d.modCluster 0 (fun c =>
  { c with tempSet := { SensorSet.reset with since := [none, some 0, none] }, currSet := { SensorSet.reset with since := [none, some 0, none] } }))
theorem witness_sensor_fail : (oddSensor.dev.cluster 0).tempSet.since.getD 1 none = some 0 ∧ (oddSensor.dev.cluster 0).currSet.since.getD 1 none = some 0 ∧
    0 + 10 * msec ≤ oddSensor.dev.time ∧ oddSensor.dev.inSlots 8 9 = true := by decide +kernel

theorem witness_limits : (limited hotLimit).dev.inSlots 8 9 = true ∧ ((limited hotLimit).dev.cluster 0).thermal.adopts (limited hotLimit).dev.time = some 1 ∧
    ((limited hotLimit).dev.cluster 0).current.adopts (limited hotLimit).dev.time = some 1 ∧
    (limited hotLimit).dev.power.adopts (limited hotLimit).dev.time = some 1 := by decide +kernel

def changing : State := clock (11 * usec) (fun d => d.modCluster 0 (fun c => { c with change := some (1, 0) }))
theorem witness_classes :
    (changing.dev.inLockup (changing.dev.partOfCore 0) = false ∧ (changing.dev.cluster 0).change = some (1, 0) ∧ 0 + 10 * usec ≤ changing.dev.time) ∧
    ((clock 1000 id).dev.inLockup ((clock 1000 id).dev.partOfCore 0) = false ∧ ((clock 1000 id).dev.cluster 0).change = none ∧
      (clock 1000 id).dev.wantedClass 0 ≠ ((clock 1000 id).dev.cluster 0).cls ∧ ((clock 1000 id).dev.cluster 0).lastChange = none ∧
      (clock 1000 id).dev.inSlots 8 9 = true) := by decide +kernel

def burning : State := tinyD (fun d => d.modCluster 3 (fun c => { c with thermal := { Limit.reset with reading := 118 * 32 } }))
theorem witness_health : burning.dev.health.hot = false ∧ (∃ c ∈ burning.dev.clusters, 118 * 32 ≤ c.thermal.reading) ∧
    bit (tiny 0).st.portsUp 11 = true ∧ bit (tiny 0).st.portsUp 0 = true ∧ 8 ∈ [1, 2, 4, 8, 16] := by decide +kernel

/-! Packets: queue 0 of partition 0 holds a packet that has been read. -/

def withPacket (waiting : Bool) (ws : List Word) (bs : List Byte) : State :=
  (withBytes (tiny 0) 0x20000000 bs).onDev (fun d => d.modQueue 0 0 (fun k => { k with cur := some ws, waiting := waiting, size := 4096 }))
def packet (ty flags addr a3 a4 : Nat) : List Word :=
  [BitVec.ofNat 32 (ty + 5 * 256 + flags * 65536), BitVec.ofNat 32 addr, BitVec.ofNat 32 (addr / 2 ^ 32), BitVec.ofNat 32 a3, BitVec.ofNat 32 a4]

theorem packetAt_held {s : State} {q n ty : Nat} {ws : List Word} (h : (s.dev.serves q n && !(s.dev.queue q n).held ws &&
    decide ((s.dev.queue q n).cur = some ws ∧ hdrType (ws.headD 0) = ty)) = true) : PacketAt s q n ty s ws := by
  simp only [Bool.and_eq_true, Bool.not_eq_true', decide_eq_true_eq] at h
  exact ⟨h.1.1, h.1.2, .inl ⟨h.2.1, h.2.2, rfl⟩⟩

theorem witness_packets : ∀ ty ∈ [1, 3, 4, 5, 6, 8, 9, 10], PacketAt (withPacket false (packet ty 0 0x20000000 0 0) []) 0 0 ty
    (withPacket false (packet ty 0 0x20000000 0 0) []) (packet ty 0 0x20000000 0 0) ∧ addrAt (packet ty 0 0x20000000 0 0) 1 % 128 = 0 := by
  intro ty h
  have : [1, 3, 4, 5, 6, 8, 9, 10].all (fun ty => let ws := packet ty 0 0x20000000 0 0
      let s := withPacket false ws []
      s.dev.serves 0 0 && !(s.dev.queue 0 0).held ws && decide ((s.dev.queue 0 0).cur = some ws ∧ hdrType (ws.headD 0) = ty)) = true := by decide +kernel
  refine ⟨packetAt_held (List.all_eq_true.mp this ty h), ?_⟩
  revert ty
  decide

/-- A queue whose next packet, a NOP, lies in its ring. -/
def ringState : State := (withBytes (tiny 0) 0x3000000 (leBytes 4 0x010A)).onDev (fun d =>
  d.modQueue 0 0 (fun k => { k with base := 0x3000000, size := 4096, tail := 4 }))
def fetches (ws : List Word) (f : State × Fetched) : Bool := match f.2 with | .words x => x == ws | _ => false
theorem fetches_iff {ws : List Word} {f : State × Fetched} (h : fetches ws f = true) : ∃ v, f = (v, .words ws) := by
  obtain ⟨v, x⟩ := f
  cases x <;> simp_all [fetches]

theorem witness_packet_read : ∃ u, PacketAt ringState 0 0 10 u [0x010A#32] := by
  obtain ⟨v, hv⟩ := fetches_iff (show fetches [0x010A#32] (ringState.readPacket 0 0) = true by decide +kernel)
  have hd : ((v.holdPacket 0 0 [0x010A#32]).dev.queue 0 0).held [0x010A#32] = false := by
    simp only [Queue.held, Bool.and_eq_false_imp]
    intro h
    exact absurd h (by decide)
  exact ⟨_, by decide +kernel, hd, .inr ⟨by decide +kernel, by decide +kernel, by decide +kernel, v, hv, rfl⟩⟩

def readsRecord (s : State) (a n : Nat) (ok : List Byte → State → Bool) : Bool :=
  let r := s.engRead (frontAgent s.dev 0) a n
  readsOk r && ok r.2.1 r.1
theorem readsRecord_iff {s : State} {a n : Nat} {ok : List Byte → State → Bool} (h : readsRecord s a n ok = true) :
    ∃ v bs, s.engRead (frontAgent s.dev 0) a n = (v, bs, .ok) ∧ ok bs v = true := by
  simp only [readsRecord, Bool.and_eq_true] at h
  obtain ⟨v, bs, hv⟩ := readsOk_iff h.1
  exact ⟨v, bs, hv, by simpa only [hv] using h.2⟩

def launchPacket : State := withPacket false (packet 1 0 0x20000000 0 0) record
theorem witness_launch_packet : launchPacket.dev.tableTakes 0 (launchPacket.dev.queue 0 0).stamp = true ∧
    ∃ v bs, launchPacket.engRead (frontAgent launchPacket.dev 0) 0x20000000 128 = (v, bs, .ok) ∧
      recordOk v.dev v.st 0 (frontAgent v.dev 0).core false bs = true :=
  ⟨by decide +kernel, readsRecord_iff (by decide +kernel)⟩

def feedWords : List Word := [BitVec.ofNat 32 (2 + 18 * 256), 5#32] ++ List.replicate 16 1
theorem witness_feed : PacketAt (withPacket false feedWords []) 0 0 2 (withPacket false feedWords []) feedWords ∧
    (((withPacket false feedWords []).dev.part 0).feeds.getD 5 { records := [], closed := false }).records.length + (hdrLen (feedWords.headD 0) - 2) / 16 ≤ 16 :=
  ⟨packetAt_held (by decide +kernel), by decide +kernel⟩

def semState (ty : Nat) (waiting : Bool) : State := withPacket waiting (packet ty 0 0x20000000 0 0) []
theorem witness_semaphores :
    (∃ v bs, (semState 3 false).engRead (frontAgent (semState 3 false).dev 0) 0x20000000 8 = (v, bs, .ok)) ∧
    (∃ v bs, (semState 3 true).engRead (frontAgent (semState 3 true).dev 0) 0x20000000 8 = (v, bs, .ok) ∧
      semOk (packet 3 0 0x20000000 0 0) (leNat bs) = true) ∧
    ((semState 3 true).dev.queue 0 0).waiting = true ∧ ((semState 3 true).dev.queue 0 0).cur = some (packet 3 0 0x20000000 0 0) ∧
    (semState 3 true).dev.working 0 = true ∧ ((semState 3 true).dev.queue 0 0).parkSeq = none :=
  ⟨readsOk_iff (by decide +kernel), readsRecord_iff (ok := fun bs _ => semOk (packet 3 0 0x20000000 0 0) (leNat bs)) (by decide +kernel), by decide +kernel⟩

/-- A write of 8 bytes after a read of them. -/
def readsWrites (s : State) (f : Nat → Nat) : Bool :=
  readsRecord s 0x20000000 8 (fun bs v => (v.engWrite (frontAgent s.dev 0) 0x20000000 (leBytes 8 (f (leNat bs)))).2 == .ok)
theorem readsWrites_iff {s : State} {f : Nat → Nat} (h : readsWrites s f = true) : ∃ v bs w,
    s.engRead (frontAgent s.dev 0) 0x20000000 8 = (v, bs, .ok) ∧ v.engWrite (frontAgent s.dev 0) 0x20000000 (leBytes 8 (f (leNat bs))) = (w, .ok) := by
  obtain ⟨v, bs, h1, h2⟩ := readsRecord_iff h
  exact ⟨v, bs, _, h1, by rw [← beq_iff_eq.mp h2]⟩

theorem witness_signals :
    (frontAgent (semState 4 false).dev 0).resolve (semState 4 false).st 0x20000000 .both ≠ .perm ∧
    (∃ v bs w, (semState 4 false).engRead (frontAgent (semState 4 false).dev 0) 0x20000000 8 = (v, bs, .ok) ∧
      v.engWrite (frontAgent (semState 4 false).dev 0) 0x20000000 (leBytes 8 ((leNat bs + 0) % 2 ^ 64)) = (w, .ok)) ∧
    ∃ v bs w, (semState 9 false).engRead (frontAgent (semState 9 false).dev 0) 0x20000000 8 = (v, bs, .ok) ∧
      v.engWrite (frontAgent (semState 9 false).dev 0) 0x20000000 (leBytes 8 ((semState 9 false).dev.time / 2 % 2 ^ 64)) = (w, .ok) :=
  ⟨by decide +kernel, readsWrites_iff (f := fun x => (x + 0) % 2 ^ 64) (by decide +kernel),
   readsWrites_iff (f := fun _ => (semState 9 false).dev.time / 2 % 2 ^ 64) (by decide +kernel)⟩

/-- A draw record: its launch record after it, a target of 2 by 2 pixels, one step. -/
def drawRecord : List Byte :=
  leBytes 8 0x20000080 ++ zeros 8 ++ leBytes 8 0 ++ zeros 4 ++ [0, 3] ++ zeros 2 ++ leBytes 8 0x20000400 ++ leBytes 8 0x20001000 ++
  leBytes 2 2 ++ leBytes 2 2 ++ zeros 4 ++ zeros 16 ++ zeros 2 ++ [0, 1] ++ zeros 4 ++ zeros 48
def drawPacket : State := withPacket false (packet 5 0 0x20000000 0 0) (drawRecord ++ record)
theorem witness_draw_packet : ∃ v bs w ms, drawPacket.engRead (frontAgent drawPacket.dev 0) 0x20000000 128 = (v, bs, .ok) ∧ drawShapeOk bs = true ∧
    v.engRead (frontAgent drawPacket.dev 0) (field bs 0 8) 128 = (w, ms, .ok) ∧ recordOk w.dev w.st 0 (frontAgent drawPacket.dev 0).core false ms = true ∧
    (LaunchRec.ofBytes ms).pair = false ∧ (LaunchRec.ofBytes ms).quad = false ∧ (LaunchRec.ofBytes ms).forme = false ∧
    w.targetStop (frontAgent drawPacket.dev 0) (field bs 40 8) (16 * field bs 48 2 * field bs 50 2) = .ok ∧
    drawPacket.dev.tableTakes 0 (drawPacket.dev.queue 0 0).stamp = true := by
  obtain ⟨v, bs, h1, h2⟩ := readsRecord_iff (s := drawPacket) (a := 0x20000000) (n := 128) (ok := fun bs v => drawShapeOk bs &&
    (let r := v.engRead (frontAgent drawPacket.dev 0) (field bs 0 8) 128
     readsOk r && recordOk r.1.dev r.1.st 0 (frontAgent drawPacket.dev 0).core false r.2.1 && !(LaunchRec.ofBytes r.2.1).pair &&
     !(LaunchRec.ofBytes r.2.1).quad && !(LaunchRec.ofBytes r.2.1).forme &&
     r.1.targetStop (frontAgent drawPacket.dev 0) (field bs 40 8) (16 * field bs 48 2 * field bs 50 2) == .ok)) (by decide +kernel)
  simp only [Bool.and_eq_true, Bool.not_eq_true', beq_iff_eq] at h2
  obtain ⟨hs, ⟨⟨⟨⟨hr, hk⟩, hp⟩, hq⟩, hf⟩, ht⟩ := h2
  obtain ⟨w, ms, hw⟩ := readsOk_iff hr
  rw [hw] at hk hp hq hf ht
  exact ⟨v, bs, w, ms, h1, hs, hw, hk, hp, hq, hf, ht, by decide +kernel⟩

def copyPacket : State := withPacket false (packet 6 0 0x20000000 0 0) copyDesc
theorem witness_copy_packet : ∃ v bs, copyPacket.engRead (frontAgent copyPacket.dev 0) 0x20000000 64 = (v, bs, .ok) ∧
    (∀ r ∈ copyRows bs, r.1 + field bs 32 4 ≤ windowBase ∧ r.2 + field bs 32 4 ≤ windowBase) ∧ ((frontAgent copyPacket.dev 0).copyRanges bs).isSome = true ∧
    v.copyStop (frontAgent copyPacket.dev 0) bs = .ok := by
  obtain ⟨v, bs, h1, h2⟩ := readsRecord_iff (s := copyPacket) (a := 0x20000000) (n := 64) (ok := fun bs v =>
    decide (∀ r ∈ copyRows bs, r.1 + field bs 32 4 ≤ windowBase ∧ r.2 + field bs 32 4 ≤ windowBase) && ((frontAgent copyPacket.dev 0).copyRanges bs).isSome &&
    v.copyStop (frontAgent copyPacket.dev 0) bs == .ok) (by decide +kernel)
  simp only [Bool.and_eq_true, decide_eq_true_eq, beq_iff_eq] at h2
  exact ⟨v, bs, h1, h2.1.1, h2.1.2, h2.2⟩

theorem witness_fence_packet : PacketAt (withPacket false (packet 7 0 0 0 0) []) 0 0 7 (withPacket false (packet 7 0 0 0 0) []) (packet 7 0 0 0 0) ∧
    ((withPacket false (packet 7 0 0 0 0) []).dev.queue 0 0).live = [] := ⟨packetAt_held (by decide +kernel), by decide +kernel⟩

/-! Draws. -/

def tinyPrim : Prim := { key := { draw := 0, mesh := 0, prim := 0 }, kind := 2, payload := 0, coords := [0x3F000000, 0x3F000000, 0, 0x3F800000] }
def tinyFrag (st : FragState) : DrawFrag := { key := { draw := 0, mesh := 0, prim := 0 }, tile := 0, px := 0, py := 0, st := st }
def tinyDraw : Draw :=
  { idx := 0, queue := 0, serial := 0, width := 2, height := 2, target := 0x20001000, clear := true, clearV := [0, 0, 0, 0], prog := [], thresh := 0,
    fentry := 0x20000400, fregs := 24, fwidth := 0, farg := 0, mesh := { tinyShape with teams := 1 }, launch := 9, allocs := [], needs := [0],
    prims := [tinyPrim], closedGroups := [], released := [], frags := [], written := [] }
def tinyFrame : TileFrame := { draw := 0, tile := 0, pixels := List.replicate 4 0, closed := [] }
def drawing (x : Draw) (c : Cluster → Cluster) : State :=
  tinyD (fun d => (d.modPart 0 (fun p => { p with draws := [x], launches := [{ launchEntry with origin := .draw 0 }] })).modCluster 0 c)

theorem witness_frame_allocation : (drawing tinyDraw id).head 0 = some (.frames tinyDraw) ∧
    ((drawing tinyDraw id).dev.frameCore tinyDraw).isSome = true ∧ (drawing tinyDraw id).dev.working 0 = true :=
  ⟨isFrames_iff (by decide +kernel), by decide +kernel⟩

theorem witness_fragment_release : DrawAt (drawing tinyDraw (fun c => { c with frames := [tinyFrame] })) 0 0 tinyDraw ∧
    (((drawing tinyDraw (fun c => { c with frames := [tinyFrame] })).dev.cluster 0).frame? 0 0).isSome = true ∧
    1 ≤ tinyDraw.groupWidth / 4 ∧ 1 ≤ (tinyDraw.ready 0).length := ⟨⟨by decide +kernel, by decide +kernel⟩, by decide +kernel⟩

theorem witness_tile_load : DrawAt (drawing tinyDraw id) 0 0 tinyDraw ∧ 0 < tinyDraw.tiles ∧ tinyDraw.ready 0 ≠ [] ∧ tinyDraw.written.contains 0 = false ∧
    ((drawing tinyDraw id).dev.cluster 0).frame? 0 0 = none ∧ ((drawing tinyDraw id).dev.part 0).frameParked 0 0 = false ∧
    (∀ y ∈ ((drawing tinyDraw id).dev.part 0).draws, y.idx < tinyDraw.idx → False) := ⟨⟨by decide +kernel, by decide +kernel⟩, by decide +kernel⟩

def closedDraw : Draw := { tinyDraw with closedGroups := [0], prims := [], frags := [tinyFrag .resolved] }
theorem witness_write_back : DrawAt (drawing closedDraw (fun c => { c with frames := [tinyFrame] })) 0 0 closedDraw ∧
    (((drawing closedDraw (fun c => { c with frames := [tinyFrame] })).dev.cluster 0).frame? 0 0).isSome = true ∧ closedDraw.allClosed = true ∧
    closedDraw.ready 0 = [] ∧ ((drawing closedDraw (fun c => { c with frames := [tinyFrame] })).dev.part 0).frameParked 0 0 = false ∧
    (∀ k ∈ closedDraw.frags, k.tile = 0 → k.st.isResolved = true) := ⟨⟨by decide +kernel, by decide +kernel⟩, by decide +kernel⟩

def tinyFragGroup : FragGroup := { draw := 0, tile := 0, first := 0, quads := [] }
theorem witness_fragment_placement : ((drawing tinyDraw (fun c => { c with frags := [tinyFragGroup] })).dev.cluster 0).frags = tinyFragGroup :: [] ∧
    DrawAt (drawing tinyDraw (fun c => { c with frags := [tinyFragGroup] })) 0 0 tinyDraw ∧
    ((drawing tinyDraw (fun c => { c with frags := [tinyFragGroup] })).dev.coreInCluster 0
      { groups := 1, lanes := tinyDraw.groupWidth, regs := tinyDraw.groupWidth * tinyDraw.fregs, scratch := 0, acc := 0 }).isSome = true :=
  ⟨by decide +kernel, ⟨by decide +kernel, by decide +kernel⟩, by decide +kernel⟩

def fouted : Draw := { tinyDraw with frags := [tinyFrag (.fout [1, 2, 3, 4])] }
theorem witness_overprint : DrawAt (drawing fouted (fun c => { c with frames := [tinyFrame] })) 0 0 fouted ∧
    fouted.lowest 0 0 = some (tinyFrag (.fout [1, 2, 3, 4])) ∧
    ((drawing fouted (fun c => { c with frames := [tinyFrame] })).dev.cluster 0).frame? 0 0 = some tinyFrame ∧
    (∀ y ∈ ((drawing fouted (fun c => { c with frames := [tinyFrame] })).dev.part 0).draws, y.idx < fouted.idx → False) ∧
    (fouted.closedGroups.filter (· < 0)).length = 0 := ⟨⟨by decide +kernel, by decide +kernel⟩, by decide +kernel⟩

/-! The host, other modules and the mailbox. -/

def peered : State := tinyD (fun d => { d with inbound := [(3, 0x20000000, 0x20000FFF)] })
theorem witness_outside : 0 < (tiny 0).dev.nparts ∧ 0x20000000 + 8 ≤ bar2Bytes ∧ peered.dev.sliceWaits 0x20000000 8 = false ∧
    peered.dev.inbounds 3 0x20000000 8 = true ∧ peered.dev.inbounds 4 0x20000000 8 = false ∧ State.reset.dev.fw.powered = false := by decide +kernel

/-- The mailbox holds a command for partition 0; the frame is in its slot. -/
def told (code : Nat) (x y : Nat) (f : Part → Part) : State := tinyD (fun d =>
  let box : Mailbox := { d.mbox with busy := true, taken := [BitVec.ofNat 8 code, 0] ++ zeros 6 ++ leBytes 8 x ++ leBytes 8 y ++ zeros 40 }
  { d.modPart 0 f with time := 1250, fw := { d.fw with powered := true }, mbox := box })

theorem witness_accepts : ∀ c ∈ (List.range 14).drop 1, Accepts (told c 0 0 id) c true := by
  have : ((List.range 14).drop 1).all (fun c => (told c 0 0 id).dev.commanded c && !(told c 0 0 id).dev.barred c &&
    decide ((told c 0 0 id).dev.cmdPart < (told c 0 0 id).dev.nparts)) = true := by decide +kernel
  intro c h
  have := List.all_eq_true.mp this c h
  simp only [Bool.and_eq_true, Bool.not_eq_true', decide_eq_true_eq] at this
  exact ⟨this.1.1, this.1.2, fun _ => this.2⟩

def descBytes : List Byte :=
  leBytes 8 0x2000000 ++ leBytes 8 1 ++ zeros 8 ++ leBytes 8 0x1000000 ++ leBytes 8 0x40000000 ++ leBytes 8 0x20000000 ++ leBytes 8 0 ++ leBytes 8 512 ++
  leBytes 8 0 ++ leBytes 4 0 ++ leBytes 4 512 ++ zeros 2 ++ [100, 0, 2, 4] ++ leBytes 2 512 ++ leBytes 4 0 ++ leBytes 4 100 ++ leBytes 4 10000 ++
  leBytes 4 1048576 ++ leBytes 4 1048576 ++ leBytes 4 0 ++ leBytes 8 0x10000000 ++ leBytes 8 0x10000000 ++ zeros 128
def creating : State := (told 0x01 0x20000000 0 (fun p => { p with desc := none })).onSt (fun st => { st with mem := Memory.setN [] 0x20000000 descBytes })
theorem witness_create : creating.dev.commanded 0x01 = true ∧ creating.dev.barred 0x01 = false ∧ (creating.dev.part creating.dev.cmdPart).desc = none ∧
    (creating.readDesc creating.dev.cmdPart (creating.dev.operand 0)).isSome = true := by decide +kernel

theorem witness_contexts_told :
    (((told 0x02 0 0 (fun p => { p with run := .created })).dev.part 0).desc = some Desc.plain ∧
      ((told 0x02 0 0 (fun p => { p with run := .created })).dev.part 0).run.resting = true) ∧
    (((told 0x04 0 0 (fun p => { p with run := .out })).dev.part 0).run = .out ∧ (told 0x04 0 0 (fun p => { p with run := .out })).dev.operand 1 ≤ 0x10000 ∧
      (told 0x04 0 0 (fun p => { p with run := .out })).actions 0 0 = some [] ∧ ((told 0x04 0 0 (fun p => { p with run := .out })).dev.part 0).faults = []) ∧
    ((told 0x03 0 0 id).dev.part 0).run = .running ∧
    (told 0x06 0x20000000 4096 id).usesRange 0 0x20000000 4096 = false := by decide +kernel

theorem witness_parkres : (((told 0x07 5 0 (fun p => { p with parks := [(5, .group 0)] })).dev.part 0).parks.find? (fun k => k.1 == 5)) =
    some (5, .group 0) ∧ (told 0x07 5 0 (fun p => { p with parks := [(5, .group 0)] })).dev.operand 0 = 5 := by decide +kernel

def queueBytes : List Byte := leBytes 8 0x3000000 ++ leBytes 4 4096 ++ leBytes 4 0 ++ leBytes 4 0 ++ leBytes 2 1 ++ zeros 42
def queueTold : State := (told 0x08 3 0x20000000 id).onSt (fun st => { st with mem := Memory.setN [] 0x20000000 queueBytes })
theorem witness_queue : queueTold.dev.commanded 0x08 = true ∧ queueTold.dev.operand 0 < 64 ∧
    queueDescOk (queueTold.fwRead (queueTold.dev.operand 1) 64) = true := by decide +kernel

theorem witness_qreset : ((told 0x09 3 0 (fun p => { p with queues := modAt p.queues 3 (fun k => { k with state := 3 }) })).dev.queue 0 3).state = 3 := by
  decide +kernel

def bare (code x y : Nat) : State := (told code x y id).onDev (fun d => { d with parts := List.replicate 4 Part.reset })
theorem witness_module_commands : (bare 0x0A 4 0).dev.commanded 0x0A = true ∧ (bare 0x0A 4 0).dev.barred 0x0A = false ∧ (bare 0x0A 4 0).dev.operand 0 ∈ [1, 2, 4] ∧
    (∀ x ∈ (bare 0x0A 4 0).dev.parts, x.desc = none) ∧ (bare 0x0B 0 0).dev.commanded 0x0B = true ∧ (bare 0x0D 0 0).dev.commanded 0x0D = true ∧
    (bare 0x0C 0x20000000 0x20001000).dev.commanded 0x0C = true ∧
    (tinyD (fun d => { d with fw := { d.fw with update := some [1] } })).dev.fw.update = some [1] := by decide +kernel

/-! Values of every type, special registers, translations, and what instructions change. -/

/-- Arithmetic of each integer type, and of each floating-point type. -/
def intTypeCases : List (Nat × Instr) :=
  [0, 1, 2, 3, 9, 10, 11, 12].flatMap (fun ty => ([.add false (.v 16) (.v 4) (.v 8), .sub false (.v 16) (.v 4) (.v 8), .mul false (.v 16) (.v 4) (.v 8),
    .mad false (.v 4) (.v 8) (.v 6), .min false (.v 16) (.v 4) (.v 8), .max false (.v 16) (.v 4) (.v 8), .clamp false (.v 4) (.v 6) (.v 8),
    .abs false (.v 16) (.v 8), .neg false (.v 16) (.v 8)] : List Instr).map (fun i => (ty, i))) ++
  [0, 1, 9, 10].map (fun ty => (ty, .mulh false (.v 16) (.v 4) (.v 8))) ++
  [0, 1, 2, 3].flatMap (fun ty => ([.div false (.v 16) (.v 4) (.v 8), .rem false (.v 16) (.v 4) (.v 8), .addi false (.v 8) 0xFFFF#16,
    .muli false (.v 8) 0xFFFF#16] : List Instr).map (fun i => (ty, i)))
def floatTypeCases : List (Nat × Instr) :=
  [4, 5, 6, 7].flatMap (fun ty => ([.add false (.v 16) (.v 10) (.v 8), .sub false (.v 16) (.v 10) (.v 8), .mul false (.v 16) (.v 10) (.v 8),
    .mad false (.v 10) (.v 8) (.v 8), .fms false (.v 10) (.v 8) (.v 8), .fnma false (.v 10) (.v 8) (.v 8), .min false (.v 16) (.v 10) (.v 8),
    .max false (.v 16) (.v 10) (.v 8), .clamp false (.v 10) (.v 8) (.v 8), .rcp false (.v 16) (.v 10), .rsq false (.v 16) (.v 10),
    .sqrt false (.v 16) (.v 10), .frac false (.v 16) (.v 10), .rint false (.v 16) (.v 10), .abs false (.v 16) (.v 10), .neg false (.v 16) (.v 10)] :
      List Instr).map (fun i => (ty, i))) ++
  [4, 5].map (fun ty => (ty, .div false (.v 16) (.v 10) (.v 8))) ++
  [4, 6, 7].flatMap (fun ty => ([.exp2 false (.v 16) (.v 10), .log2 false (.v 16) (.v 10), .sinp false (.v 16) (.v 10), .cosp false (.v 16) (.v 10)] :
    List Instr).map (fun i => (ty, i)))
/-- `movi` and `dot` under each type, and conversions between the types. -/
def convCases : List (Nat × Instr) :=
  (List.range 13).map (fun ty => (ty, .movi false (.v 16) 0x12#16)) ++ [6, 7, 8, 9, 10, 11, 12].map (fun ty => (ty, .dot false (.v 8) (.v 12) (.v 12))) ++
  (List.range 6).flatMap (fun y => (List.range 6).map (fun z => (z, .cvt false (.v 16) (.v 8) 0#3 (BitVec.ofNat 4 y))) ++
    [6, 7, 8, 9, 10, 11, 12].map (fun z => (z, .pack false (.v 16) (.v 4) 0#3 (BitVec.ofNat 4 y))) ++
    [6, 7, 8, 9, 10, 11, 12].map (fun z => (y, .unpack false (.v 16) (.v 8) 0#3 (BitVec.ofNat 4 z)))) ++
  [(4, .unpack false (.v 16) (.v 8) 7#3 8#4)]

def formOk (s : State) (ty : Nat) (i : Instr) : Bool := match valueForm i with
  | some f => ready s (fun e => e.m.etype.code == ty && clean (valueChks e f.u f.d (f.shape e) f.val))
  | none => false
theorem formOk_iff {s : State} {ty : Nat} {i : Instr} (h : formOk s ty i = true) : ∃ f e, valueForm i = some f ∧ Ready s e ∧ e.m.etype.code = ty ∧
    Clean (valueChks e f.u f.d (f.shape e) f.val) := by
  unfold formOk at h
  split at h
  · rename_i f hf
    obtain ⟨e, hr, hc⟩ := ready_env h
    rw [Bool.and_eq_true, beq_iff_eq] at hc
    exact ⟨f, e, hf, hr, hc.1, clean_iff hc.2⟩
  · cases h

theorem witness_integer_types : ∀ x ∈ intTypeCases, ∃ f e, valueForm x.2 = some f ∧ Ready (tiny x.1) e ∧ e.m.etype.code = x.1 ∧
    Clean (valueChks e f.u f.d (f.shape e) f.val) := by
  have h : intTypeCases.all (fun x => formOk (tiny x.1) x.1 x.2) = true := by decide +kernel
  exact fun x hx => formOk_iff (List.all_eq_true.mp h x hx)

theorem witness_float_types : ∀ x ∈ floatTypeCases, ∃ f e, valueForm x.2 = some f ∧ Ready (tiny x.1) e ∧ e.m.etype.code = x.1 ∧
    Clean (valueChks e f.u f.d (f.shape e) f.val) := by
  have h : floatTypeCases.all (fun x => formOk (tiny x.1) x.1 x.2) = true := by decide +kernel
  exact fun x hx => formOk_iff (List.all_eq_true.mp h x hx)

theorem witness_conversions : ∀ x ∈ convCases, ∃ f e, valueForm x.2 = some f ∧ Ready (tiny x.1) e ∧ e.m.etype.code = x.1 ∧
    Clean (valueChks e f.u f.d (f.shape e) f.val) := by
  have h : convCases.all (fun x => formOk (tiny x.1) x.1 x.2) = true := by decide +kernel
  exact fun x hx => formOk_iff (List.all_eq_true.mp h x hx)

/-- A narrow type of one byte and one of a nibble, whose immediates `movi` repeats. -/
def nibbles : State := tinyOf { tinyGroup 0 (tinyMode 8 0) with fm := List.replicate 8 0x80225#32 } tinyTeam 0
theorem witness_narrow_movi : (∃ e, Ready (tiny 8) e ∧ e.m.etype = .nar ∧ contOf e.fmSel = 0 ∧ (fmtOf e.fmSel).width ≤ 8 ∧
      Clean (valueChks e false (.v 16) (byType e) (moviVal 0x12#16))) ∧
    ∃ e, Ready nibbles e ∧ e.m.etype = .nar ∧ contOf e.fmSel = 1 ∧ (fmtOf e.fmSel).width ≤ 4 ∧
      Clean (valueChks e false (.v 16) (byType e) (moviVal 0x2#16)) := by
  obtain ⟨e, hr, hc⟩ := ready_env (show ready (tiny 8) (fun e => decide (e.m.etype = .nar ∧ contOf e.fmSel = 0 ∧ (fmtOf e.fmSel).width ≤ 8) &&
    clean (valueChks e false (.v 16) (byType e) (moviVal 0x12#16))) = true by decide +kernel)
  obtain ⟨k, kr, kc⟩ := ready_env (show ready nibbles (fun e => decide (e.m.etype = .nar ∧ contOf e.fmSel = 1 ∧ (fmtOf e.fmSel).width ≤ 4) &&
    clean (valueChks e false (.v 16) (byType e) (moviVal 0x2#16))) = true by decide +kernel)
  simp only [Bool.and_eq_true, decide_eq_true_eq] at hc kc
  exact ⟨⟨e, hr, hc.1.1, hc.1.2.1, hc.1.2.2, clean_iff hc.2⟩, k, kr, kc.1.1, kc.1.2.1, kc.1.2.2, clean_iff kc.2⟩

/-- An immediate that a byte does not hold, and type fields that name no type or no format register. -/
theorem witness_refused_types : (∀ ty ∈ [11, 12], ∃ e, Ready (tiny ty) e ∧ e.m.etype.code = ty ∧ 256 ≤ (256#16).toNat ∧
      ∀ c ∈ valueChks e false (.v 16) (byType e) (moviVal 256#16), c.2.wait = false) ∧
    ∀ x ∈ [(0#3, 13#4), (7#3, 15#4), (1#3, 4#4)], (13 ≤ x.2.toNat ∨ (x.2.toNat ≠ 8 ∧ x.1 ≠ 0#3)) ∧ ∃ e, Ready (tiny 4) e ∧
      ∀ c ∈ valueChks e false (.v 16) (byType e) (cvtVal (.v 8) x.1 x.2), c.2.wait = false := by
  constructor
  · have h : [11, 12].all (fun ty => ready (tiny ty) (fun e => e.m.etype.code == ty &&
        (valueChks e false (.v 16) (byType e) (moviVal 256#16)).all (fun c => !c.2.wait))) = true := by decide +kernel
    intro ty ht
    obtain ⟨e, hr, hc⟩ := ready_env (List.all_eq_true.mp h ty ht)
    simp only [Bool.and_eq_true, beq_iff_eq, List.all_eq_true, Bool.not_eq_true'] at hc
    exact ⟨e, hr, hc.1, by decide, hc.2⟩
  · have h : [(0#3, 13#4), (7#3, 15#4), (1#3, 4#4)].all (fun x => decide (13 ≤ x.2.toNat ∨ (x.2.toNat ≠ 8 ∧ x.1 ≠ 0#3)) && ready (tiny 4) (fun e =>
        (valueChks e false (.v 16) (byType e) (cvtVal (.v 8) x.1 x.2)).all (fun c => !c.2.wait))) = true := by decide +kernel
    intro x hx
    have h := List.all_eq_true.mp h x hx
    rw [Bool.and_eq_true, decide_eq_true_eq] at h
    obtain ⟨e, hr, hc⟩ := ready_env h.2
    simp only [List.all_eq_true, Bool.not_eq_true'] at hc
    exact ⟨h.1, e, hr, hc⟩

/-- A code of each format that is no NaN, and each rounding with an overflow. -/
theorem witness_float_codes : (∀ x ∈ [(Fmt.f64, 0x7FEFFFFFFFFFFFFF), (.f32, 0x80000001), (.f16, 0x7C00), (.bf16, 0xFF7F)], x.2 < 2 ^ x.1.width ∧
      x.1.decode x.2 ≠ .nan) ∧
    ∃ a b c d e : RCtx, a.sat = true ∧ b.sat = false ∧ b.rnd = .rtz ∧ c.sat = false ∧ c.rnd ∈ [Rnd.rne, .rna, .rsto] ∧ d.sat = false ∧ d.rnd = .rdn ∧
      e.sat = false ∧ e.rnd = .rup :=
  ⟨by decide +kernel, { rnd := .rne, sat := true, ftz := false, word := 0 }, { rnd := .rtz, sat := false, ftz := false, word := 0 },
   { rnd := .rna, sat := false, ftz := false, word := 0 }, { rnd := .rdn, sat := false, ftz := false, word := 0 },
   { rnd := .rup, sat := false, ftz := false, word := 0 }, by decide⟩

/-- Reductions and scans of each scalar type. -/
theorem witness_reductions : ∀ ty ∈ List.range 6, ∀ i ∈ [Instr.laneRadd (.v 16) (.v 10), .laneRmin (.v 16) (.v 10), .laneRmax (.v 16) (.v 10),
    .laneScan (.v 16) (.v 10)], ∃ f e, crossForm i = some f ∧ Ready (tiny ty) e ∧ e.m.etype.code = ty ∧ Clean (laneChks e f.d (f.shape e) f.rd) := by
  have h : (List.range 6).all (fun ty => [Instr.laneRadd (.v 16) (.v 10), .laneRmin (.v 16) (.v 10), .laneRmax (.v 16) (.v 10),
    .laneScan (.v 16) (.v 10)].all (fun i => match crossForm i with
      | some f => ready (tiny ty) (fun e => e.m.etype.code == ty && clean (laneChks e f.d (f.shape e) f.rd)) | none => false)) = true := by
    decide +kernel
  intro ty ht i hi
  have := List.all_eq_true.mp (List.all_eq_true.mp h ty ht) i hi
  split at this
  · rename_i f hf
    obtain ⟨e, hr, hc⟩ := ready_env this
    rw [Bool.and_eq_true, beq_iff_eq] at hc
    exact ⟨f, e, hf, hr, hc.1, clean_iff hc.2⟩
  · cases this

/-- sr.flags with no flag in use and sr.pclass of a team that makes a request; indices and registers that `rdsr` refuses. -/
theorem witness_rdsr_cases : (∃ e, Ready (tiny 0) e ∧ (∀ i < 12, (0#32 : Word).getLsbD i = decide (e.g.flags.getD i 0 ≠ 0) ∧
      (0#32 : Word).getLsbD (12 + i) = decide (e.g.flags.getD i 0 = 63)) ∧ (∀ i, 24 ≤ i → (0#32 : Word).getLsbD i = false) ∧ e.t.pclass = some 2) ∧
    ∀ x ∈ [(Opnd.v 16, 0x14#16), (.v 16, 0xFFFF#16), (.v 17, 0x0E#16)], ∃ e, Ready (tiny 0) e ∧
      ∀ c ∈ valueChks e false x.1 (rdsrShape x.2 e) (rdsrVal x.2), c.2.wait = false := by
  constructor
  · obtain ⟨e, hr, hc⟩ := ready_env (show ready (tiny 0) (fun e => (List.range 12).all (fun i => decide ((0#32 : Word).getLsbD i = decide (e.g.flags.getD i 0 ≠ 0) ∧
      (0#32 : Word).getLsbD (12 + i) = decide (e.g.flags.getD i 0 = 63))) && decide (e.t.pclass = some 2)) = true by decide +kernel)
    simp only [Bool.and_eq_true, decide_eq_true_eq, List.all_eq_true, List.mem_range] at hc
    exact ⟨e, hr, hc.1, fun i _ => by simp, hc.2⟩
  · have h : [(Opnd.v 16, 0x14#16), (.v 16, 0xFFFF#16), (.v 17, 0x0E#16)].all (fun x => ready (tiny 0) (fun e =>
        (valueChks e false x.1 (rdsrShape x.2 e) (rdsrVal x.2)).all (fun c => !c.2.wait))) = true := by decide +kernel
    intro x hx
    obtain ⟨e, hr, hc⟩ := ready_env (List.all_eq_true.mp h x hx)
    simp only [List.all_eq_true, Bool.not_eq_true'] at hc
    exact ⟨e, hr, hc⟩

/-- MODE written with a legal value and with one that it may not hold, and with U = 0; indices and registers that `wrsr` refuses. -/
theorem witness_wrsr_cases : (∃ e, Ready (tiny 0) e ∧ modeLegal (anyBits e e.leader (.v 27)).toNat = true ∧ Clean (groupChks e true (srModeWrite (.v 27)))) ∧
    (∃ e, Ready (tiny 0) e ∧ modeLegal (anyBits e e.leader (.v 1)).toNat = false ∧
      ∀ c ∈ groupChks e true (srModeWrite (.v 1)), c.2.wait = false ∧ ∀ b ∈ c.2.bad, b = .modeField) ∧
    (∃ e, Ready (tiny 0) e ∧ ∀ c ∈ groupChks e false (srModeWrite (.v 27)), c.2.wait = false) ∧
    ∀ x ∈ [(Opnd.v 2, 0x00#16), (.v 2, 0x0D#16), (.v 5, 0x0E#16)], ∃ e, Ready (tiny 0) e ∧ ∀ c ∈ e.readChks false (srWrite x.1 x.2 e), c.2.wait = false := by
  obtain ⟨e, hr, hc⟩ := ready_env (show ready (tiny 0) (fun e => modeLegal (anyBits e e.leader (.v 27)).toNat &&
    clean (groupChks e true (srModeWrite (.v 27))) && !modeLegal (anyBits e e.leader (.v 1)).toNat &&
    (groupChks e true (srModeWrite (.v 1))).all (fun c => !c.2.wait && c.2.bad.all (· == .modeField)) &&
    (groupChks e false (srModeWrite (.v 27))).all (fun c => !c.2.wait)) = true by decide +kernel)
  simp only [Bool.and_eq_true, Bool.not_eq_true', List.all_eq_true, beq_iff_eq] at hc
  obtain ⟨⟨⟨⟨h1, h2⟩, h3⟩, h4⟩, h5⟩ := hc
  refine ⟨⟨e, hr, h1, clean_iff h2⟩, ⟨e, hr, h3, h4⟩, ⟨e, hr, h5⟩, ?_⟩
  have h : [(Opnd.v 2, 0x00#16), (.v 2, 0x0D#16), (.v 5, 0x0E#16)].all (fun x => ready (tiny 0) (fun e =>
    (e.readChks false (srWrite x.1 x.2 e)).all (fun c => !c.2.wait))) = true := by decide +kernel
  intro x hx
  obtain ⟨e, hr, hc⟩ := ready_env (List.all_eq_true.mp h x hx)
  simp only [List.all_eq_true, Bool.not_eq_true'] at hc
  exact ⟨e, hr, hc⟩

/-! A page whose entry a TLB holds, after a read of it. -/

def warm (st : Store) : Store := st.touchPage 0 1 0x2000000 0 0x20000000 false
def warmed (s : State) : State := s.onSt warm

theorem witness_translations : (tiny 0).st.wf = true ∧ (warmed (tiny 0)).st.wf = true ∧
    (∃ k, (warmed (tiny 0)).st.tlbHit 0 0 0x20000000 = some k ∧ k.leaf.getLsbD 53 = false) ∧
    (warmed (tiny 0)).st.walk 0 1 0x2000000 0x20000000 = .leaf (0xBB + 2 ^ 52) 0x2000000 42 ∧ (tiny 0).st.tlbHit 0 0 0x20000000 = none ∧
    (tiny 0).st.walk 0 1 0x2000000 (2 ^ 43) = .absent := by
  refine ⟨by decide +kernel, by decide +kernel, ?_, by decide +kernel⟩
  have h : ((warmed (tiny 0)).st.tlbHit 0 0 0x20000000).any (fun k => !k.leaf.getLsbD 53) = true := by decide +kernel
  cases hk : (warmed (tiny 0)).st.tlbHit 0 0 0x20000000 with
  | none => rw [hk] at h; cases h
  | some k => rw [hk] at h; exact ⟨k, rfl, by simpa using h⟩

theorem cached_warm {e : Env} {l : Lane} {s : State} (h : ((s.st.tlbHit (e.agent l).part (e.agent l).core 0x20000000).isSome) = true) :
    Cached s.st (e.agent l) 0x20000000 false := by
  obtain ⟨k, hk⟩ := Option.isSome_iff_exists.mp h
  exact .inr ⟨k, hk, by simp⟩

/-- The record of a successor on a page that a TLB holds, and on one that none holds. -/
theorem witness_successor_pages : (∃ e, Ready (warmed (withBytes (tiny 0) 0x20000000 record)) e ∧ succVa e true (.s 4) = 0x20000000 ∧
      Cached (warmed (withBytes (tiny 0) 0x20000000 record)).st (e.agent e.leader) 0x20000000 false) ∧
    ∃ e, Ready (withBytes (tiny 0) 0x20000000 record) e ∧ succVa e true (.s 4) = 0x20000000 ∧
      ¬ Cached (withBytes (tiny 0) 0x20000000 record).st (e.agent e.leader) 0x20000000 false ∧
      ((withBytes (tiny 0) 0x20000000 record).st.acquire e.g.core).walk (e.agent e.leader).part (e.agent e.leader).nparts (e.agent e.leader).root 0x20000000 =
        .leaf 0xBB 0x2000000 42 ∧
      (e.agent e.leader).nparts ∈ [1, 2, 4] ∧ (e.agent e.leader).part < (e.agent e.leader).nparts ∧ (e.agent e.leader).root % 2 ^ 16 = 0 := by
  obtain ⟨e, hr, hc⟩ := ready_env (show ready (warmed (withBytes (tiny 0) 0x20000000 record)) (fun e => decide (succVa e true (.s 4) = 0x20000000) &&
    ((warmed (withBytes (tiny 0) 0x20000000 record)).st.tlbHit (e.agent e.leader).part (e.agent e.leader).core 0x20000000).isSome) = true by decide +kernel)
  obtain ⟨k, kr, kc⟩ := ready_env (show ready (withBytes (tiny 0) 0x20000000 record) (fun e => decide (succVa e true (.s 4) = 0x20000000) &&
    ((withBytes (tiny 0) 0x20000000 record).st.tlbHit (e.agent e.leader).part (e.agent e.leader).core 0x20000000).isNone && decide (
      ((withBytes (tiny 0) 0x20000000 record).st.acquire e.g.core).walk (e.agent e.leader).part (e.agent e.leader).nparts (e.agent e.leader).root 0x20000000 =
        .leaf 0xBB 0x2000000 42 ∧
      (e.agent e.leader).nparts ∈ [1, 2, 4] ∧ (e.agent e.leader).part < (e.agent e.leader).nparts ∧ (e.agent e.leader).root % 2 ^ 16 = 0)) = true by
    decide +kernel)
  simp only [Bool.and_eq_true, decide_eq_true_eq] at hc kc
  refine ⟨⟨e, hr, hc.1, cached_warm hc.2⟩, k, kr, kc.1.1, ?_, kc.2⟩
  rintro (h | ⟨x, hx, _⟩)
  · exact absurd h (by decide)
  · rw [hx] at kc; exact absurd kc.1.2 (by simp)

/-- Entries that hold a transfer of one row piece of 16 bytes, to be performed. -/
def moveOp (k : OpKind) : Op := { tinyOp k [{ tinyAcc memPlace with data := zeros 16 }] with size := 16 }
theorem witness_transfers : ∀ x ∈ [(MxKind.ld, OpKind.accLd), (.st, .accSt)], let s := queued (tinyMx x.1 7) [moveOp x.2]
    Inv s ∧ (s.dev.core 0).mq = tinyMx x.1 7 :: [] ∧ s.dev.op? 7 = some (moveOp x.2) ∧ (∃ t, exec (.matrixOperation 0) s = .next t) ∧
    (∀ a ∈ (moveOp x.2).accs, a.data.length = 16 ∧ a.place.deferred = false ∧ a.cell = none ∧ s.dead 0 a.place = false) ∧
    ∃ g, s.dev.group? 0 = some g ∧ ∀ l ∈ g.lanes, l.hold = none := by
  have h : [(MxKind.ld, OpKind.accLd), (.st, .accSt)].all (fun x => let s := queued (tinyMx x.1 7) [moveOp x.2]
    s.st.wf && decide ((s.dev.core 0).mq = tinyMx x.1 7 :: [] ∧ s.dev.op? 7 = some (moveOp x.2)) && goes (exec (.matrixOperation 0) s) &&
    decide (∀ a ∈ (moveOp x.2).accs, a.data.length = 16 ∧ a.place.deferred = false ∧ a.cell = none ∧ s.dead 0 a.place = false) &&
    (s.dev.group? 0).any (fun g => g.lanes.all (fun l => l.hold.isNone))) = true := by decide +kernel
  intro x hx
  have h := List.all_eq_true.mp h x hx
  simp only [Bool.and_eq_true, decide_eq_true_eq] at h
  obtain ⟨⟨⟨⟨h1, h2, h3⟩, h4⟩, h5⟩, h6⟩ := h
  refine ⟨h1, h2, h3, goes_iff h4, h5, ?_⟩
  cases hg : (queued (tinyMx x.1 7) [moveOp x.2]).dev.group? 0 with
  | none => rw [hg] at h6; cases h6
  | some g =>
    rw [hg] at h6
    exact ⟨g, rfl, fun l hl => by simpa using List.all_eq_true.mp h6 l hl⟩

/-! What holds besides, for the frames of meetings, tasks and memory units. -/

theorem tiny_no_hold (p : Hold → Prop) : NoHold (tiny 0) p := by
  have h : (tiny 0).dev.groups.all (fun g => g.lanes.all (fun l => l.hold.isNone)) = true := by decide +kernel
  intro g hg l hl k hk
  have := List.all_eq_true.mp (List.all_eq_true.mp h g hg) l hl
  rw [hk] at this; cases this

theorem witness_meeting_frames : (∀ c ∈ tinyTeam.cores, lineAt (twins (some 0) 0).st.lines c 0 0 = none) ∧ tinyTeam.shape.pair = false ∧
    (∃ e, Ready (tiny 0) e ∧ Inv (tiny 0) ∧ ∀ p ∈ places e .read (waitvReqs e false (.v 16) (.v 4) (.v 9)), p.2.deferred = false ∧
      (e.touchAll false (places e .read (waitvReqs e false (.v 16) (.v 4) (.v 9))) (e.settleReads (waitvChks e false (.v 16) (.v 4) (.v 9)) (tiny 0))).dead
        e.g.core p.2 = false) ∧
    Inv (withBytes (tiny 0) 0x20000000 record) ∧ (∃ e, Ready (warmed (withBytes (tiny 0) 0x20000000 record)) e ∧
      (∀ x ∈ launchActs e true (.s 4), x.2 = 0x20000000) ∧ launchActs e true (.s 4) ≠ [] ∧
      ∀ x ∈ launchActs e true (.s 4), Cached (warmed (withBytes (tiny 0) 0x20000000 record)).st (e.agent x.1) x.2 false) ∧
    ∃ e, Ready (tiny 0) e ∧ ∀ r ∈ (fpopFeed e (.v 9) 5#6).records, r.length = 64 := by
  refine ⟨by decide +kernel, rfl, ?_, by unfold Machine.Inv; decide +kernel, ?_, ?_⟩
  · obtain ⟨e, hr, hc⟩ := ready_env (show ready (tiny 0) (fun e => decide (∀ p ∈ places e .read (waitvReqs e false (.v 16) (.v 4) (.v 9)), p.2.deferred = false ∧
      (e.touchAll false (places e .read (waitvReqs e false (.v 16) (.v 4) (.v 9))) (e.settleReads (waitvChks e false (.v 16) (.v 4) (.v 9)) (tiny 0))).dead
        e.g.core p.2 = false)) = true by decide +kernel)
    exact ⟨e, hr, tiny_inv 0, decide_eq_true_eq.mp hc⟩
  · obtain ⟨e, hr, hc⟩ := ready_env (show ready (warmed (withBytes (tiny 0) 0x20000000 record)) (fun e => !(launchActs e true (.s 4)).isEmpty &&
      (launchActs e true (.s 4)).all (fun x => x.2 == 0x20000000 &&
        ((warmed (withBytes (tiny 0) 0x20000000 record)).st.tlbHit (e.agent x.1).part (e.agent x.1).core 0x20000000).isSome)) = true by decide +kernel)
    simp only [Bool.and_eq_true, Bool.not_eq_true', List.isEmpty_eq_false_iff, List.all_eq_true, beq_iff_eq] at hc
    exact ⟨e, hr, fun x hx => (hc.2 x hx).1, hc.1, fun x hx => by rw [(hc.2 x hx).1]; exact cached_warm (hc.2 x hx).2⟩
  · obtain ⟨e, hr, hc⟩ := ready_env (show ready (tiny 0) (fun e => decide (∀ r ∈ (fpopFeed e (.v 9) 5#6).records, r.length = 64)) = true by decide +kernel)
    exact ⟨e, hr, decide_eq_true_eq.mp hc⟩

theorem witness_future_frames : ∀ s ∈ [holder .busy none, holder .done (some 0)], Inv s ∧ ∀ gid, ¬ EngWaits s gid := by
  have h : [holder .busy none, holder .done (some 0)].all (fun s => s.st.wf && s.dev.groups.all (fun g => g.lanes.all (fun l => l.hold.isNone))) = true := by
    decide +kernel
  intro s hs
  have h := List.all_eq_true.mp h s hs
  rw [Bool.and_eq_true] at h
  refine ⟨h.1, ?_⟩
  rintro gid ⟨k, hk, _, l, hl, n, due, rest, sc, fm, hh⟩
  have := List.all_eq_true.mp (List.all_eq_true.mp h.2 k hk) l hl
  rw [hh] at this; cases this

/-- A page that `pref` finds in a TLB; a galley of one acting lane, in the scratchpad; a line that a `cmo` does not name. -/
theorem witness_memory_frames : (∃ e, Ready (warmed (tiny 0)) e ∧ Inv (warmed (tiny 0)) ∧
      ∀ x ∈ e.accessLanes true, (prefVa (.s 4) 0#8 e x.1).val / 128 * 128 = 0x20000000 ∧ Cached (warmed (tiny 0)).st (e.agent x.1) 0x20000000 false) ∧
    (∃ e x st g, Ready (galleys 0 0 0 0) e ∧ Inv (galleys 0 0 0 0) ∧ galActs e true (galResOp (.s 0)) = [x] ∧ windowBase ≤ x.2.1 ∧
      e.openGalley x.1 (galleys 0 0 0 0).st x.2.1 = .ok (st, g) ∧ ∀ off < 128, windowBase ≤ g.addr off) ∧
    ∃ e, Ready (tiny 0) e ∧ ∀ x ∈ cmoChecks e 0 (cmoRanges e false 1#4 (.v 4) (.v 9)), ∀ ks, x.2 = .ok ks → ∀ k ∈ ks, 5 ≠ k / 128 := by
  refine ⟨?_, ?_, ?_⟩
  · obtain ⟨e, hr, hc⟩ := ready_env (show ready (warmed (tiny 0)) (fun e => (e.accessLanes true).all (fun x =>
      (prefVa (.s 4) 0#8 e x.1).val / 128 * 128 == 0x20000000 &&
      ((warmed (tiny 0)).st.tlbHit (e.agent x.1).part (e.agent x.1).core 0x20000000).isSome)) = true by decide +kernel)
    simp only [Bool.and_eq_true, List.all_eq_true, beq_iff_eq] at hc
    exact ⟨e, hr, by unfold Machine.Inv; decide +kernel, fun x hx => ⟨(hc x hx).1, cached_warm (hc x hx).2⟩⟩
  · obtain ⟨e, hr, hc⟩ := ready_env (show ready (galleys 0 0 0 0) (fun e => match galActs e true (galResOp (.s 0)) with
      | [x] => decide (windowBase ≤ x.2.1) && (match e.openGalley x.1 (galleys 0 0 0 0).st x.2.1 with
        | .ok r => (List.range 128).all (fun off => decide (windowBase ≤ r.2.addr off)) | .error _ => false)
      | _ => false) = true by decide +kernel)
    split at hc
    · rename_i x hx
      rw [Bool.and_eq_true, decide_eq_true_eq] at hc
      obtain ⟨h1, h2⟩ := hc
      split at h2
      · rename_i r hg
        exact ⟨e, x, r.1, r.2, hr, by unfold Machine.Inv; decide +kernel, hx, h1, hg, fun off ho => of_decide_eq_true (List.all_eq_true.mp h2 off (List.mem_range.mpr ho))⟩
      · cases h2
    · cases hc
  · obtain ⟨e, hr, hc⟩ := ready_env (show ready (tiny 0) (fun e => (cmoChecks e 0 (cmoRanges e false 1#4 (.v 4) (.v 9))).all (fun x =>
      match x.2 with | .ok ks => ks.all (fun k => 5 != k / 128) | .bad _ => false)) = true by decide +kernel)
    refine ⟨e, hr, fun x hx ks hk k hm => ?_⟩
    have := List.all_eq_true.mp hc x hx
    rw [hk] at this
    simpa using List.all_eq_true.mp this k hm

theorem witness_prim_frames : Inv fragments ∧ NoHold fragments (fun h => ∃ rest, h = .fout rest) := by
  refine ⟨by unfold Machine.Inv; decide +kernel, ?_⟩
  have h : fragments.dev.groups.all (fun g => g.lanes.all (fun l => l.hold.isNone)) = true := by decide +kernel
  intro g hg l hl k hk
  have := List.all_eq_true.mp (List.all_eq_true.mp h g hg) l hl
  rw [hk] at this; cases this

/-! The steps at which an access stops (R180). Every lane's v4:v5 and the group's s4:s5 hold one address, its stack pointer that or the one
above; the third page may be executed alone, the fourth is absent, and an engine operation writes one line of the first. -/

def pointing (va : Nat) : State :=
  (tinyOf { tinyGroup 0 (tinyMode 4 0) with width := 64, sregs := setFrom (tinyGroup 0 0).sregs 4 (pair va), lanes := (List.range 4).map (fun i =>
      { tinyLane 0 i with v := setFrom (tinyRegs i) 4 (pair va), depth := 1, sp := BitVec.ofNat 64 va }) }
    { tinyTeam with shape := { tinyShape with quad := true, width := 64 } } 0).onDev (fun d =>
      { d.modCore 0 (fun c => { c with locks := [{ eid := 9, src := [], dst := [(0x20000400, 128), (2 ^ 42 + 0x20000400, 128)] }] }) with sel := some { tinySel 0 with depth := 1 } })
def pointed (va : Nat) : State := (pointing va).onSt (fun st => { st with mem := (tinyPages []).setN 0x2000010 (leBytes 8 0x23) })

/-- The first step that some lane does not pass, counted from 1; 0 where none stops. -/
def stopsAt (e : Env) (align n : Nat) (need : Need) (srcToo winLocks : Bool) (refuse : Req → Place → Bool) (rs : List Req) : Nat :=
  if rs.any (fun r => r.va % align != 0) then 1
  else if rs.any (fun r => e.meets need refuse r == .fatal) then 2
  else if rs.any (fun r => e.meets need refuse r == .absent) then 3
  else if rs.any (fun r => e.meets need refuse r == .perm) then 4
  else if rs.any (fun r => match e.meets need refuse r with
    | .ok pl => (winLocks || decide (r.va < windowBase)) && e.s.dev.locked e.g.core srcToo (lockAt r.va pl, n)
    | _ => false) then 5
  else 0

theorem stopsAt_says {e : Env} {align n : Nat} {need : Need} {a b : Bool} {refuse : Req → Place → Bool} {rs : List Req} (k : Nat)
    (h : stopsAt e align n need a b refuse rs = k) :
    (k = 1 → ∃ r ∈ rs, r.va % align ≠ 0) ∧ (1 < k → ∀ r ∈ rs, ¬ r.va % align ≠ 0) ∧
    (k = 2 → ∃ r ∈ rs, e.meets need refuse r = .fatal) ∧ (2 < k → ∀ r ∈ rs, ¬ e.meets need refuse r = .fatal) ∧
    (k = 3 → ∃ r ∈ rs, e.meets need refuse r = .absent) ∧ (3 < k → ∀ r ∈ rs, ¬ e.meets need refuse r = .absent) ∧
    (k = 4 → ∃ r ∈ rs, e.meets need refuse r = .perm) ∧ (4 < k → ∀ r ∈ rs, ¬ e.meets need refuse r = .perm) ∧
    (k = 5 → ∃ r ∈ rs, ∃ pl, e.meets need refuse r = .ok pl ∧ (b = true ∨ r.va < windowBase) ∧
      e.s.dev.locked e.g.core a (lockAt r.va pl, n) = true) := by
  subst h
  unfold stopsAt
  split
  · simp_all
  split
  · simp_all
  split
  · simp_all
  split
  · simp_all
  split
  · rename_i h
    refine ⟨by simp, by simp_all, by simp, by simp_all, by simp, by simp_all, by simp, by simp_all, fun _ => ?_⟩
    obtain ⟨r, hr, hk⟩ := List.any_eq_true.mp h
    split at hk
    · rename_i pl hp
      simp only [Bool.and_eq_true, Bool.or_eq_true, decide_eq_true_eq] at hk
      exact ⟨r, hr, pl, hp, hk.1, hk.2⟩
    · cases hk
  · simp

/-- Addresses with the step they stop at: the first odd one, one that is not canonical, a page that is absent, one that may not be read, a
line that an operation writes, and one that passes. -/
def stopAddrs : List (Nat × Nat) :=
  [(0x20000001, 1), (0x4000000000000000, 2), (3 * 2 ^ 42, 3), (2 ^ 43 + 0x20000000, 4), (0x20000400, 5), (0x20000470, 5), (0x20000480, 0)]

def free (_ : Req) (_ : Place) : Bool := false

theorem witness_access_steps : ∀ x ∈ stopAddrs, ∃ e, Ready (pointed x.1) e ∧
    (∃ f, longForm (.ld32 false (.v 16) (.v 4) 0#8) = some f ∧ Clean (longChks e f.u f.d f.k) ∧ e.g.flagFull e.flag = false ∧
      stopsAt e (f.k.spec e).size (f.k.spec e).size f.k.need f.k.srcToo true (f.k.refuse e) (longReqs e f.u f.d f.k) = x.2) ∧
    (∃ f, storeForm (.st32 false (.v 9) (.v 4) 0#8) = some f ∧ Clean (e.readChks f.u (f.k.read e)) ∧
      stopsAt e (f.k.size e) (f.k.size e) .write true true free (storeReqs e f.u f.k) = x.2) ∧
    (Clean (e.readChks false ((strlOp (.v 10) (.v 4) 0#8).read e)) ∧
      stopsAt e (typeSize e) (typeSize e) .write true true free (storeReqs e false (strlOp (.v 10) (.v 4) 0#8)) = x.2) ∧
    (Clean (waitvChks e false (.v 16) (.v 4) (.v 9)) ∧ stopsAt e 4 4 .read false true free (waitvReqs e false (.v 16) (.v 4) (.v 9)) = x.2) := by
  have h : stopAddrs.all (fun x => ready (pointed x.1) (fun e =>
      (match longForm (.ld32 false (.v 16) (.v 4) 0#8) with
        | some f => clean (longChks e f.u f.d f.k) && !e.g.flagFull e.flag &&
            stopsAt e (f.k.spec e).size (f.k.spec e).size f.k.need f.k.srcToo true (f.k.refuse e) (longReqs e f.u f.d f.k) == x.2
        | none => false) &&
      (match storeForm (.st32 false (.v 9) (.v 4) 0#8) with
        | some f => clean (e.readChks f.u (f.k.read e)) && stopsAt e (f.k.size e) (f.k.size e) .write true true free (storeReqs e f.u f.k) == x.2
        | none => false) &&
      (clean (e.readChks false ((strlOp (.v 10) (.v 4) 0#8).read e)) &&
        stopsAt e (typeSize e) (typeSize e) .write true true free (storeReqs e false (strlOp (.v 10) (.v 4) 0#8)) == x.2) &&
      (clean (waitvChks e false (.v 16) (.v 4) (.v 9)) && stopsAt e 4 4 .read false true free (waitvReqs e false (.v 16) (.v 4) (.v 9)) == x.2))) = true := by
    decide +kernel
  intro x hx
  obtain ⟨e, hr, hc⟩ := ready_env (List.all_eq_true.mp h x hx)
  simp only [Bool.and_eq_true] at hc
  obtain ⟨⟨⟨h1, h2⟩, h3, h3'⟩, h4, h4'⟩ := hc
  refine ⟨e, hr, ?_, ?_, ⟨clean_iff h3, beq_iff_eq.mp h3'⟩, clean_iff h4, beq_iff_eq.mp h4'⟩
  · split at h1
    · rename_i f hf
      simp only [Bool.and_eq_true, Bool.not_eq_true', beq_iff_eq] at h1
      exact ⟨f, hf, clean_iff h1.1.1, h1.1.2, h1.2⟩
    · cases h1
  · split at h2
    · rename_i f hf
      simp only [Bool.and_eq_true, beq_iff_eq] at h2
      exact ⟨f, hf, clean_iff h2.1, h2.2⟩
    · cases h2

/-- Transfers, matrix moves, engine descriptors and plates at the addresses of those steps that their alignment allows. -/
def wideAddrs : List (Nat × Nat) := [(0x20000001, 1), (0x4000000000000000, 2), (3 * 2 ^ 42, 3), (2 ^ 43 + 0x20000000, 4), (0x20000400, 5), (0x20000480, 0)]
def callAddrs : List (Nat × Nat) := [(0x4000000000000008, 2), (3 * 2 ^ 42 + 8, 3), (2 ^ 43 + 0x20000008, 4), (0x20000408, 5), (0x20000488, 0)]
def plateAddrs : List (Nat × Nat) := [(0x20000001, 1), (0x4000000000000000, 2), (3 * 2 ^ 42, 3), (0x20000000, 4), (2 ^ 42 + 0x20000470, 5), (2 ^ 42 + 0x20000480, 0)]

theorem witness_call_steps : ∀ x ∈ callAddrs, ∃ e, Ready (pointed x.1) e ∧ Clean (e.branchChks false 63#6 false) ∧
    (let ts := callTakers e false 63#6 false 8#16
     callDeep ts = [] ∧ callOdd ts = [] ∧ callLow e ts = [] ∧ stopsAt e 8 8 .write true false free (callReqs e ts) = x.2) ∧
    Clean (e.readChks true (targetRead (.s 6) e)) ∧ (∀ t ∈ targets e true (.s 6), t.2 % 4 = 0) ∧
    (let ts := targets e true (.s 6)
     callDeep ts = [] ∧ callOdd ts = [] ∧ callLow e ts = [] ∧ stopsAt e 8 8 .write true false free (callReqs e ts) = x.2) := by
  have h : callAddrs.all (fun x => ready (pointed x.1) (fun e =>
      let ts := callTakers e false 63#6 false 8#16
      let us := targets e true (.s 6)
      clean (e.branchChks false 63#6 false) && ((callDeep ts).isEmpty && (callOdd ts).isEmpty && (callLow e ts).isEmpty &&
        stopsAt e 8 8 .write true false free (callReqs e ts) == x.2) &&
      clean (e.readChks true (targetRead (.s 6) e)) && us.all (fun t => decide (t.2 % 4 = 0)) &&
      ((callDeep us).isEmpty && (callOdd us).isEmpty && (callLow e us).isEmpty && stopsAt e 8 8 .write true false free (callReqs e us) == x.2))) = true := by
    decide +kernel
  intro x hx
  obtain ⟨e, hr, hc⟩ := ready_env (List.all_eq_true.mp h x hx)
  simp only [Bool.and_eq_true, List.isEmpty_iff, List.all_eq_true, decide_eq_true_eq, beq_iff_eq] at hc
  obtain ⟨⟨⟨⟨h1, ⟨⟨h2, h3⟩, h4⟩, h5⟩, h6⟩, h7⟩, ⟨⟨k2, k3⟩, k4⟩, k5⟩ := hc
  exact ⟨e, hr, clean_iff h1, ⟨h2, h3, h4, h5⟩, clean_iff h6, h7, k2, k3, k4, k5⟩

theorem witness_wide_steps : ∀ x ∈ wideAddrs, ∃ e, Ready (pointed x.1) e ∧ (∀ l ∈ e.lanes, l.depth ≠ 0) ∧
    stopsAt e 8 8 .read false true free (retReqs e) = x.2 ∧ e.mxFull e.flag = false ∧
    (∃ k, accMoveForm (.accLd (.v 4) 0#6 0#2 0#3) = some k ∧ Clean (accMoveChks e k) ∧ stopsAt e 16 16 .read false true free (accMoveReqs e k) = x.2) ∧
    (∃ k, accMoveForm (.accSt (.v 4) 0#6 0#2 0#3) = some k ∧ Clean (accMoveChks e k) ∧ stopsAt e 16 16 .write true true free (accMoveReqs e k) = x.2) ∧
    ∃ f, engForm (.engCopy true (.s 8) (.s 4)) = some f ∧ Clean (engChks e f.u f.d (targetRead f.a)) ∧
      stopsAt e f.kind.descLen f.kind.descLen .read false true free (engReqs e f.u f.d f.a) = x.2 := by
  have h : wideAddrs.all (fun x => ready (pointed x.1) (fun e => decide (∀ l ∈ e.lanes, l.depth ≠ 0) &&
      stopsAt e 8 8 .read false true free (retReqs e) == x.2 && !e.mxFull e.flag &&
      (match accMoveForm (.accLd (.v 4) 0#6 0#2 0#3) with
        | some k => clean (accMoveChks e k) && stopsAt e 16 16 .read false true free (accMoveReqs e k) == x.2 | none => false) &&
      (match accMoveForm (.accSt (.v 4) 0#6 0#2 0#3) with
        | some k => clean (accMoveChks e k) && stopsAt e 16 16 .write true true free (accMoveReqs e k) == x.2 | none => false) &&
      (match engForm (.engCopy true (.s 8) (.s 4)) with
        | some f => clean (engChks e f.u f.d (targetRead f.a)) && stopsAt e f.kind.descLen f.kind.descLen .read false true free (engReqs e f.u f.d f.a) == x.2
        | none => false))) = true := by decide +kernel
  intro x hx
  obtain ⟨e, hr, hc⟩ := ready_env (List.all_eq_true.mp h x hx)
  simp only [Bool.and_eq_true, decide_eq_true_eq, beq_iff_eq, Bool.not_eq_true'] at hc
  obtain ⟨⟨⟨⟨⟨h1, h2⟩, h3⟩, h4⟩, h5⟩, h6⟩ := hc
  refine ⟨e, hr, h1, h2, h3, ?_, ?_, ?_⟩
  · split at h4
    · rename_i k hk
      rw [Bool.and_eq_true, beq_iff_eq] at h4
      exact ⟨k, hk, clean_iff h4.1, h4.2⟩
    · cases h4
  · split at h5
    · rename_i k hk
      rw [Bool.and_eq_true, beq_iff_eq] at h5
      exact ⟨k, hk, clean_iff h5.1, h5.2⟩
    · cases h5
  · split at h6
    · rename_i f hf
      rw [Bool.and_eq_true, beq_iff_eq] at h6
      exact ⟨f, hf, clean_iff h6.1, h6.2⟩
    · cases h6

theorem witness_plate_steps : ∀ x ∈ plateAddrs, ∃ e, Ready (pointed x.1) e ∧ Clean (e.readChks false ((plateOp (.v 16) (.v 4) 0#8).read e)) ∧
    (∀ r ∈ storeReqs e false (plateOp (.v 16) (.v 4) 0#8), field r.data 0 4 % 4 = 0) ∧
    stopsAt e 16 16 .write true true (fun _ pl => notDeferred e pl) (storeReqs e false (plateOp (.v 16) (.v 4) 0#8)) = x.2 := by
  have h : plateAddrs.all (fun x => ready (pointed x.1) (fun e => clean (e.readChks false ((plateOp (.v 16) (.v 4) 0#8).read e)) &&
      (storeReqs e false (plateOp (.v 16) (.v 4) 0#8)).all (fun r => decide (field r.data 0 4 % 4 = 0)) &&
      stopsAt e 16 16 .write true true (fun _ pl => notDeferred e pl) (storeReqs e false (plateOp (.v 16) (.v 4) 0#8)) == x.2)) = true := by decide +kernel
  intro x hx
  obtain ⟨e, hr, hc⟩ := ready_env (List.all_eq_true.mp h x hx)
  simp only [Bool.and_eq_true, List.all_eq_true, decide_eq_true_eq, beq_iff_eq] at hc
  exact ⟨e, hr, clean_iff hc.1.1, hc.1.2, hc.2⟩

/-- A tile that begins past the scratchpad, and one that an engine operation writes. -/
def farTile : State := tinyOf { tinyGroup 0 (tinyMode 4 0) with width := 64, lanes := [tinyLane 0 0], om := List.replicate 8 0x0003000800FF0000#128 }
  { tinyTeam with shape := { tinyShape with quad := true, width := 64 } } 0
def lockedTile : State := (matrix 4).onDev (fun d => d.modCore 0 (fun c => { c with locks := [{ eid := 9, src := [], dst := [(2 ^ 64 + scrKey 0 0 0, 16)] }] }))
def isStop : TileRead → Bool | .stop _ => true | _ => false
theorem isStop_iff {t : TileRead} (h : isStop t = true) : ∃ x, t = .stop x := by
  cases t <;> simp_all [isStop]
theorem witness_tile_stops : ∀ s ∈ [farTile, lockedTile], ∃ x e out, matrixForm (.mma false (.v 0) 4#6 0#2 0#3 0#4) = some x ∧ Ready s e ∧ Clean (mxChks e x) ∧
    e.mxFull e.flag = false ∧ mxTile e x = .stop out := by
  have h : [farTile, lockedTile].all (fun s => match matrixForm (.mma false (.v 0) 4#6 0#2 0#3 0#4) with
      | some x => ready s (fun e => clean (mxChks e x) && !e.mxFull e.flag && isStop (mxTile e x))
      | none => false) = true := by decide +kernel
  intro s hs
  have := List.all_eq_true.mp h s hs
  split at this
  · rename_i x hx
    obtain ⟨e, hr, hc⟩ := ready_env this
    simp only [Bool.and_eq_true, Bool.not_eq_true'] at hc
    obtain ⟨t, ht⟩ := isStop_iff hc.2
    exact ⟨x, e, t, hx, hr, clean_iff hc.1.1, hc.1.2, ht⟩
  · cases this

/-! Decoding: for every instruction a word made from the opcode and the fields of R59, R94 and R95. -/

theorem test_words_1 : ([
    (0x03020015, .mode 2#8 21#16),
    (0x0500001F, .guard false 31#6),
    (0x0705E300, .fmt 5#8 (.vx 3)),
    (0x09060C00, .omap 6#8 (.v 12)),
    (0x0BC00A14, .xset true 6#3 10#8 20#8),
    (0x0CA0EA00, .xoff false 5#3 (.lit 2)),
    (0x0F80E300, .xadd true 4#3 (.vx 3)),
    (0x10281400, .mov false (.v 40) (.v 20)),
    (0x13D06348, .movi true (.s 16) 25416#16),
    (0x143018EF, .movh false (.v 48) 6383#16),
    (0x17D0E3EC, .sel true (.s 16) (.vx 3) (.lit 4)),
    (0x18381C14, .retag false (.v 56) (.v 28) 20#8),
    (0x1BD0C600, .tagof true (.s 16) (.s 6)),
    (0x1C40000B, .rdsr false (.v 64) 11#16),
    (0x1FD0000C, .wrsr true (.s 16) 12#16),
    (0x204824CA, .add false (.v 72) (.v 36) (.s 10)),
    (0x23D0C6EC, .sub true (.s 16) (.s 6) (.lit 4)),
    (0x2450EA30, .mul false (.v 80) (.lit 2) (.v 48))] : List (Nat × Instr)).all (fun x => decodeWord x.1 == some x.2) = true := by decide +kernel

theorem test_words_2 : ([
    (0x27D0E3CA, .mulh true (.s 16) (.vx 3) (.s 10)),
    (0x28582CEC, .mad false (.v 88) (.v 44) (.lit 4)),
    (0x2BD0C636, .div true (.s 16) (.s 6) (.v 54)),
    (0x2C60EACA, .rem false (.v 96) (.lit 2) (.s 10)),
    (0x2FD0E3EC, .min true (.s 16) (.vx 3) (.lit 4)),
    (0x3068343C, .max false (.v 104) (.v 52) (.v 60)),
    (0x33D0C600, .abs true (.s 16) (.s 6)),
    (0x3470EA00, .neg false (.v 112) (.lit 2)),
    (0x37D0E342, .add64 true (.s 16) (.vx 3) (.v 66)),
    (0x38783CCA, .mad64 false (.v 120) (.v 60) (.s 10)),
    (0x3BD0C6EC, .clamp true (.s 16) (.s 6) (.lit 4)),
    (0x3C8049FB, .addi false (.v 128) 18939#16),
    (0x3FD0FFA2, .muli true (.s 16) 65442#16),
    (0x408844EC, .and false (.v 136) (.v 68) (.lit 4)),
    (0x43D0C64E, .or true (.s 16) (.s 6) (.v 78)),
    (0x4490EACA, .xor false (.v 144) (.lit 2) (.s 10)),
    (0x47D0E300, .not true (.s 16) (.vx 3)),
    (0x48984C54, .andn false (.v 152) (.v 76) (.v 84))] : List (Nat × Instr)).all (fun x => decodeWord x.1 == some x.2) = true := by decide +kernel

theorem test_words_3 : ([
    (0x4BD0C6CA, .shl true (.s 16) (.s 6) (.s 10)),
    (0x4CA0EAEC, .shr false (.v 160) (.lit 2) (.lit 4)),
    (0x4FD0E35A, .sra true (.s 16) (.vx 3) (.v 90)),
    (0x500854CA, .rot false (.v 8) (.v 84) (.s 10)),
    (0x53D0C600, .popc true (.s 16) (.s 6)),
    (0x5410EA00, .clz false (.v 16) (.lit 2)),
    (0x57D0E300, .brev true (.s 16) (.vx 3)),
    (0x58185CEC, .bfx false (.v 24) (.v 92) (.lit 4)),
    (0x5BD0C666, .bfi true (.s 16) (.s 6) (.v 102)),
    (0x5C20EACA, .perm false (.v 32) (.lit 2) (.s 10)),
    (0x5FD0E300, .ffs true (.s 16) (.vx 3)),
    (0x608F646C, .ceq false 35#6 3#2 (.v 100) (.v 108)),
    (0x63AAC6CA, .cne true 42#6 2#2 (.s 6) (.s 10)),
    (0x6405EAEC, .clt false 1#6 1#2 (.lit 2) (.lit 4)),
    (0x6720E372, .cle true 8#6 0#2 (.vx 3) (.v 114)),
    (0x683F6CCA, .cgt false 15#6 3#2 (.v 108) (.s 10)),
    (0x6B5AC6EC, .cge true 22#6 2#2 (.s 6) (.lit 4)),
    (0x6C75EA78, .cun false 29#6 1#2 (.lit 2) (.v 120))] : List (Nat × Instr)).all (fun x => decodeWord x.1 == some x.2) = true := by decide +kernel

theorem test_words_4 : ([
    (0x6F90E3CA, .cclass true 36#6 0#2 (.vx 3) (.s 10)),
    (0x70AFA021, .plog false 43#6 3#2 2#2 false 32#6 false 33#6),
    (0x73D02511, .ptov true (.s 16) 37#8 17#8),
    (0x7425EACA, .vtop false 9#6 1#2 (.lit 2) (.s 10)),
    (0x7740E3EC, .pset true 16#6 0#2 (.vx 3) (.lit 4)),
    (0x78587C84, .shfl (.v 88) (.v 124) (.v 132)),
    (0x7A5CC6CA, .shfx (.v 92) (.s 6) (.s 10)),
    (0x7C252700, .laneAny 37#6 false 39#6),
    (0x7C2C6E01, .laneAll 44#6 true 46#6),
    (0x7C680502, .laneBallot (.v 104) false 5#6),
    (0x7C6CC603, .laneBcast (.v 108) (.s 6)),
    (0x7C701304, .laneCount (.v 112) false 19#6),
    (0x7C745A05, .laneFirst (.v 116) true 26#6),
    (0x7C780006, .laneRnd (.v 120)),
    (0x7C7CC607, .laneRadd (.v 124) (.s 6)),
    (0x7C80EA08, .laneRmin (.v 128) (.lit 2)),
    (0x7C84E309, .laneRmax (.v 132) (.vx 3)),
    (0x7C88940A, .laneRband (.v 136) (.v 148))] : List (Nat × Instr)).all (fun x => decodeWord x.1 == some x.2) = true := by decide +kernel

theorem test_words_5 : ([
    (0x7C8CC60B, .laneRbor (.v 140) (.s 6)),
    (0x7C90EA0C, .laneRbxor (.v 144) (.lit 2)),
    (0x7C94E30D, .laneScan (.v 148) (.vx 3)),
    (0x7E9C9C00, .regrpGive false 39#6 (.v 156)),
    (0x7FB8C601, .regrpTake true 46#6 (.s 6)),
    (0x82A0EAA8, .fms false (.v 160) (.lit 2) (.v 168)),
    (0x85D0E3CA, .fnma true (.s 16) (.vx 3) (.s 10)),
    (0x8608A400, .rcp false (.v 8) (.v 164)),
    (0x89D0C600, .rsq true (.s 16) (.s 6)),
    (0x8A10EA00, .sqrt false (.v 16) (.lit 2)),
    (0x8DD0E300, .exp2 true (.s 16) (.vx 3)),
    (0x8E18AC00, .log2 false (.v 24) (.v 172)),
    (0x91D0C600, .sinp true (.s 16) (.s 6)),
    (0x9220EA00, .cosp false (.v 32) (.lit 2)),
    (0x95D0E300, .frac true (.s 16) (.vx 3)),
    (0x9628B400, .rint false (.v 40) (.v 180)),
    (0x99D0C606, .cvt true (.s 16) (.s 6) 0#3 6#4),
    (0x9A30EA04, .pack false (.v 48) (.lit 2) 0#3 4#4)] : List (Nat × Instr)).all (fun x => decodeWord x.1 == some x.2) = true := by decide +kernel

theorem test_words_6 : ([
    (0x9DD0E305, .unpack true (.s 16) (.vx 3) 0#3 5#4),
    (0x9E3808EC, .dot false (.v 56) (.v 8) (.lit 4)),
    (0xA1D0C61A, .ld8 true (.s 16) (.s 6) 26#8),
    (0xA240EAC1, .ld16 false (.v 64) (.lit 2) 193#8),
    (0xA5D0E368, .ld32 true (.s 16) (.vx 3) 104#8),
    (0xA648100F, .ld64 false (.v 72) (.v 16) 15#8),
    (0xA9D0C6B6, .ld128 true (.s 16) (.s 6) 182#8),
    (0xAA50EA5D, .st8 false (.v 80) (.lit 2) 93#8),
    (0xAD54E304, .st16 true (.v 84) (.vx 3) 4#8),
    (0xAE5818AB, .st32 false (.v 88) (.v 24) 171#8),
    (0xB15CC652, .st64 true (.v 92) (.s 6) 82#8),
    (0xB260EAF9, .st128 false (.v 96) (.lit 2) 249#8),
    (0xB5D0E3A0, .lda true (.s 16) (.vx 3) 160#8),
    (0xB6682047, .strl false (.v 104) (.v 32) 71#8),
    (0xB9000000, .fenceFull true),
    (0xB8010000, .fenceAcq false),
    (0xB9020000, .fenceRel true),
    (0xB8030000, .fenceEngine false)] : List (Nat × Instr)).all (fun x => decodeWord x.1 == some x.2) = true := by decide +kernel

theorem test_words_7 : ([
    (0xBB01C6CA, .cmoClean true 1#4 (.s 6) (.s 10)),
    (0xBA12EAEC, .cmoInv false 2#4 (.lit 2) (.lit 4)),
    (0xBB23E34A, .cmoCinv true 3#4 (.vx 3) (.v 74)),
    (0xBA3030CA, .cmoSettle false 0#4 (.v 48) (.s 10)),
    (0xBD01C626, .pref true true (.s 6) 38#8),
    (0xBE90EACD, .dtag false (.v 144) (.lit 2) 205#8),
    (0xC1D0E3CA, .aadd true (.s 16) (.vx 3) (.s 10)),
    (0xC29838EC, .amin false (.v 152) (.v 56) (.lit 4)),
    (0xC5D0C656, .amax true (.s 16) (.s 6) (.v 86)),
    (0xC6A0EACA, .aand false (.v 160) (.lit 2) (.s 10)),
    (0xC9D0E3EC, .aor true (.s 16) (.vx 3) (.lit 4)),
    (0xCA08405C, .axor false (.v 8) (.v 64) (.v 92)),
    (0xCDD0C6CA, .axchg true (.s 16) (.s 6) (.s 10)),
    (0xCE10EAEC, .acas false (.v 16) (.lit 2) (.lit 4)),
    (0xD1D0E3AC, .dplate true (.s 16) (.vx 3) 172#8),
    (0xD2180005, .dpub (.v 24) 5#8),
    (0xD5D0C600, .galRes true (.s 16) (.s 6)),
    (0xD420EA01, .galCom false (.v 32) (.lit 2))] : List (Nat × Instr)).all (fun x => decodeWord x.1 == some x.2) = true := by decide +kernel

theorem test_words_8 : ([
    (0xD5D0E302, .galTake true (.s 16) (.vx 3)),
    (0xD4285003, .galFree false (.v 40) (.v 80)),
    (0xD7D0C61A, .fpop true (.s 16) (.s 6) 26#6),
    (0xD8843F3D, .br false 33#6 false 16189#16),
    (0xDB00E300, .jmp true (.vx 3)),
    (0xDCBCAA8B, .call false 47#6 false 43659#16),
    (0xDF00C600, .callr true (.s 6)),
    (0xE0000000, .ret),
    (0xE3000000, .exit true),
    (0xE2006001, .exitSuccessor false (.v 96)),
    (0xE5090000, .barMeet true 9#8),
    (0xE40A0001, .barPost false 10#8),
    (0xE50B0002, .barAwait true 11#8),
    (0xE65868EC, .waitv false (.v 88) (.v 104) (.lit 4)),
    (0xE909C669, .spawn true 9#5 (.s 6) 105#8),
    (0xEA00EA00, .launch false (.lit 2)),
    (0xEDD0E300, .futWait true (.s 16) (.vx 3)),
    (0xEC687001, .futTest false (.v 104) (.v 112))] : List (Nat × Instr)).all (fun x => decodeWord x.1 == some x.2) = true := by decide +kernel

theorem test_words_9 : ([
    (0xED00C602, .futCancel true (.s 6)),
    (0xEC70EA03, .futAdopt false (.v 112) (.lit 2)),
    (0xEFD00000, .timCyc true (.s 16)),
    (0xEE007801, .timWcyc false (.v 120)),
    (0xEF00C602, .timPclass true (.s 6)),
    (0xEE000003, .timYield false),
    (0xEFD0E304, .timLockq true (.s 16) (.vx 3)),
    (0xF0802EE3, .mma false (.v 128) 11#6 2#2 7#3 3#4),
    (0xF382C9DA, .mmj true (.v 130) 50#6 1#2 6#3 10#4),
    (0xF4006440, .accZero 25#6 0#2 2#3),
    (0xF4860364, .accLd (.v 134) 0#6 3#2 3#3),
    (0xF4889E08, .accSt (.v 136) 39#6 2#2 0#3),
    (0xF49C382C, .accRd (.v 156) 14#6 1#3),
    (0xF48CD450, .accScale (.v 140) 53#6 0#2 2#3),
    (0xF6A4E3DB, .smp (.v 164) (.vx 3) 27#5),
    (0xF8089000, .engCopy false (.v 8) (.v 144)),
    (0xF9D0C601, .engColl true (.s 16) (.s 6)),
    (0xF810EA02, .engGath false (.v 16) (.lit 2))] : List (Nat × Instr)).all (fun x => decodeWord x.1 == some x.2) = true := by decide +kernel

theorem test_words_10 : ([
    (0xF9D0E303, .engXfer true (.s 16) (.vx 3)),
    (0xF8189804, .engSmma false (.v 24) (.v 152)),
    (0xF9D0C605, .engWpin true (.s 16) (.s 6)),
    (0xF820EA06, .engWinv false (.v 32) (.lit 2)),
    (0xFB00E300, .sysTrap true (.vx 3)),
    (0xFA00A001, .sysBrk false (.v 160)),
    (0xFB00C602, .sysPerf true (.s 6)),
    (0xFC30EA00, .primTri (.v 48) (.lit 2)),
    (0xFC34E301, .primEll (.v 52) (.vx 3)),
    (0xFC38A802, .primPt (.v 56) (.v 168)),
    (0xFC000003, .primCut),
    (0xFC00EA04, .primFout (.lit 2)),
    (0xFC000005, .primKill)] : List (Nat × Instr)).all (fun x => decodeWord x.1 == some x.2) = true := by decide +kernel

/-! Ill-formed terms: for every check of `wellFormed` a term that breaks it. -/

theorem test_ill_formed_1 : ([
    .mode 13#8 21#16, .mode 2#8 32#16, .guard false 50#6, .fmt 13#8 (.vx 3), .fmt 5#8 (.reserved 1), .omap 13#8 (.v 12), .omap 6#8 (.reserved 1),
    .xset true 6#3 192#8 20#8, .xset true 6#3 10#8 192#8, .xoff false 5#3 (.reserved 1), .xadd true 4#3 (.reserved 1),
    .mov false (.reserved 1) (.v 20), .mov false (.v 40) (.reserved 1), .movi true (.reserved 1) 25416#16, .movh false (.reserved 1) 6383#16,
    .sel true (.reserved 1) (.vx 3) (.lit 4), .sel true (.s 16) (.reserved 1) (.lit 4), .sel true (.s 16) (.vx 3) (.reserved 1),
    .retag false (.reserved 1) (.v 28) 20#8, .retag false (.v 56) (.reserved 1) 20#8, .retag false (.v 56) (.v 28) 26#8,
    .tagof true (.reserved 1) (.s 6), .tagof true (.s 16) (.reserved 1), .rdsr false (.reserved 1) 11#16, .rdsr false (.v 64) 0x14#16,
    .wrsr true (.reserved 1) 12#16, .wrsr true (.s 16) 0x0B#16, .add false (.reserved 1) (.v 36) (.s 10), .add false (.v 72) (.reserved 1) (.s 10),
    .add false (.v 72) (.v 36) (.reserved 1), .sub true (.reserved 1) (.s 6) (.lit 4), .sub true (.s 16) (.reserved 1) (.lit 4),
    .sub true (.s 16) (.s 6) (.reserved 1), .mul false (.reserved 1) (.lit 2) (.v 48), .mul false (.v 80) (.reserved 1) (.v 48),
    .mul false (.v 80) (.lit 2) (.reserved 1), .mulh true (.reserved 1) (.vx 3) (.s 10), .mulh true (.s 16) (.reserved 1) (.s 10),
    .mulh true (.s 16) (.vx 3) (.reserved 1), .mad false (.reserved 1) (.v 44) (.lit 4), .mad false (.v 88) (.reserved 1) (.lit 4),
    .mad false (.v 88) (.v 44) (.reserved 1), .div true (.reserved 1) (.s 6) (.v 54), .div true (.s 16) (.reserved 1) (.v 54),
    .div true (.s 16) (.s 6) (.reserved 1), .rem false (.reserved 1) (.lit 2) (.s 10), .rem false (.v 96) (.reserved 1) (.s 10),
    .rem false (.v 96) (.lit 2) (.reserved 1), .min true (.reserved 1) (.vx 3) (.lit 4), .min true (.s 16) (.reserved 1) (.lit 4),
    .min true (.s 16) (.vx 3) (.reserved 1), .max false (.reserved 1) (.v 52) (.v 60), .max false (.v 104) (.reserved 1) (.v 60),
    .max false (.v 104) (.v 52) (.reserved 1), .abs true (.reserved 1) (.s 6), .abs true (.s 16) (.reserved 1), .neg false (.reserved 1) (.lit 2),
    .neg false (.v 112) (.reserved 1), .add64 true (.reserved 1) (.vx 3) (.v 66), .add64 true (.s 16) (.reserved 1) (.v 66)] : List Instr).all (fun i => !wellFormed i) = true := by decide

theorem test_ill_formed_2 : ([
    .add64 true (.s 16) (.vx 3) (.reserved 1), .mad64 false (.reserved 1) (.v 60) (.s 10), .mad64 false (.v 120) (.reserved 1) (.s 10),
    .mad64 false (.v 120) (.v 60) (.reserved 1), .clamp true (.reserved 1) (.s 6) (.lit 4), .clamp true (.s 16) (.reserved 1) (.lit 4),
    .clamp true (.s 16) (.s 6) (.reserved 1), .addi false (.reserved 1) 18939#16, .muli true (.reserved 1) 65442#16,
    .and false (.reserved 1) (.v 68) (.lit 4), .and false (.v 136) (.reserved 1) (.lit 4), .and false (.v 136) (.v 68) (.reserved 1),
    .or true (.reserved 1) (.s 6) (.v 78), .or true (.s 16) (.reserved 1) (.v 78), .or true (.s 16) (.s 6) (.reserved 1),
    .xor false (.reserved 1) (.lit 2) (.s 10), .xor false (.v 144) (.reserved 1) (.s 10), .xor false (.v 144) (.lit 2) (.reserved 1),
    .not true (.reserved 1) (.vx 3), .not true (.s 16) (.reserved 1), .andn false (.reserved 1) (.v 76) (.v 84),
    .andn false (.v 152) (.reserved 1) (.v 84), .andn false (.v 152) (.v 76) (.reserved 1), .shl true (.reserved 1) (.s 6) (.s 10),
    .shl true (.s 16) (.reserved 1) (.s 10), .shl true (.s 16) (.s 6) (.reserved 1), .shr false (.reserved 1) (.lit 2) (.lit 4),
    .shr false (.v 160) (.reserved 1) (.lit 4), .shr false (.v 160) (.lit 2) (.reserved 1), .sra true (.reserved 1) (.vx 3) (.v 90),
    .sra true (.s 16) (.reserved 1) (.v 90), .sra true (.s 16) (.vx 3) (.reserved 1), .rot false (.reserved 1) (.v 84) (.s 10),
    .rot false (.v 8) (.reserved 1) (.s 10), .rot false (.v 8) (.v 84) (.reserved 1), .popc true (.reserved 1) (.s 6),
    .popc true (.s 16) (.reserved 1), .clz false (.reserved 1) (.lit 2), .clz false (.v 16) (.reserved 1), .brev true (.reserved 1) (.vx 3),
    .brev true (.s 16) (.reserved 1), .bfx false (.reserved 1) (.v 92) (.lit 4), .bfx false (.v 24) (.reserved 1) (.lit 4),
    .bfx false (.v 24) (.v 92) (.reserved 1), .bfi true (.reserved 1) (.s 6) (.v 102), .bfi true (.s 16) (.reserved 1) (.v 102),
    .bfi true (.s 16) (.s 6) (.reserved 1), .perm false (.reserved 1) (.lit 2) (.s 10), .perm false (.v 32) (.reserved 1) (.s 10),
    .perm false (.v 32) (.lit 2) (.reserved 1), .ffs true (.reserved 1) (.vx 3), .ffs true (.s 16) (.reserved 1),
    .ceq false 50#6 3#2 (.v 100) (.v 108), .ceq false 35#6 3#2 (.reserved 1) (.v 108), .ceq false 35#6 3#2 (.v 100) (.reserved 1),
    .cne true 50#6 2#2 (.s 6) (.s 10), .cne true 42#6 2#2 (.reserved 1) (.s 10), .cne true 42#6 2#2 (.s 6) (.reserved 1),
    .clt false 50#6 1#2 (.lit 2) (.lit 4), .clt false 1#6 1#2 (.reserved 1) (.lit 4)] : List Instr).all (fun i => !wellFormed i) = true := by decide

theorem test_ill_formed_3 : ([
    .clt false 1#6 1#2 (.lit 2) (.reserved 1), .cle true 50#6 0#2 (.vx 3) (.v 114), .cle true 8#6 0#2 (.reserved 1) (.v 114),
    .cle true 8#6 0#2 (.vx 3) (.reserved 1), .cgt false 50#6 3#2 (.v 108) (.s 10), .cgt false 15#6 3#2 (.reserved 1) (.s 10),
    .cgt false 15#6 3#2 (.v 108) (.reserved 1), .cge true 50#6 2#2 (.s 6) (.lit 4), .cge true 22#6 2#2 (.reserved 1) (.lit 4),
    .cge true 22#6 2#2 (.s 6) (.reserved 1), .cun false 50#6 1#2 (.lit 2) (.v 120), .cun false 29#6 1#2 (.reserved 1) (.v 120),
    .cun false 29#6 1#2 (.lit 2) (.reserved 1), .cclass true 50#6 0#2 (.vx 3) (.s 10), .cclass true 36#6 0#2 (.reserved 1) (.s 10),
    .cclass true 36#6 0#2 (.vx 3) (.reserved 1), .plog false 50#6 3#2 2#2 false 32#6 false 33#6, .plog false 43#6 3#2 2#2 false 50#6 false 33#6,
    .plog false 43#6 3#2 2#2 false 32#6 false 50#6, .ptov true (.reserved 1) 37#8 17#8, .ptov true (.s 16) 48#8 17#8, .ptov true (.s 16) 37#8 33#8,
    .vtop false 50#6 1#2 (.lit 2) (.s 10), .vtop false 9#6 1#2 (.reserved 1) (.s 10), .vtop false 9#6 1#2 (.lit 2) (.reserved 1),
    .pset true 50#6 0#2 (.vx 3) (.lit 4), .pset true 16#6 0#2 (.reserved 1) (.lit 4), .pset true 16#6 0#2 (.vx 3) (.reserved 1),
    .shfl (.reserved 1) (.v 124) (.v 132), .shfl (.v 88) (.reserved 1) (.v 132), .shfl (.v 88) (.v 124) (.reserved 1),
    .shfx (.reserved 1) (.s 6) (.s 10), .shfx (.v 92) (.reserved 1) (.s 10), .shfx (.v 92) (.s 6) (.reserved 1), .laneAny 50#6 false 39#6,
    .laneAny 37#6 false 50#6, .laneAll 50#6 true 46#6, .laneAll 44#6 true 50#6, .laneBallot (.reserved 1) false 5#6, .laneBallot (.v 104) false 50#6,
    .laneBcast (.reserved 1) (.s 6), .laneBcast (.v 108) (.reserved 1), .laneCount (.reserved 1) false 19#6, .laneCount (.v 112) false 50#6,
    .laneFirst (.reserved 1) true 26#6, .laneFirst (.v 116) true 50#6, .laneRnd (.reserved 1), .laneRadd (.reserved 1) (.s 6),
    .laneRadd (.v 124) (.reserved 1), .laneRmin (.reserved 1) (.lit 2), .laneRmin (.v 128) (.reserved 1), .laneRmax (.reserved 1) (.vx 3),
    .laneRmax (.v 132) (.reserved 1), .laneRband (.reserved 1) (.v 148), .laneRband (.v 136) (.reserved 1), .laneRbor (.reserved 1) (.s 6),
    .laneRbor (.v 140) (.reserved 1), .laneRbxor (.reserved 1) (.lit 2), .laneRbxor (.v 144) (.reserved 1), .laneScan (.reserved 1) (.vx 3)] : List Instr).all (fun i => !wellFormed i) = true := by decide

theorem test_ill_formed_4 : ([
    .laneScan (.v 148) (.reserved 1), .regrpGive false 50#6 (.v 156), .regrpGive false 39#6 (.reserved 1), .regrpTake true 50#6 (.s 6),
    .regrpTake true 46#6 (.reserved 1), .fms false (.reserved 1) (.lit 2) (.v 168), .fms false (.v 160) (.reserved 1) (.v 168),
    .fms false (.v 160) (.lit 2) (.reserved 1), .fnma true (.reserved 1) (.vx 3) (.s 10), .fnma true (.s 16) (.reserved 1) (.s 10),
    .fnma true (.s 16) (.vx 3) (.reserved 1), .rcp false (.reserved 1) (.v 164), .rcp false (.v 8) (.reserved 1), .rsq true (.reserved 1) (.s 6),
    .rsq true (.s 16) (.reserved 1), .sqrt false (.reserved 1) (.lit 2), .sqrt false (.v 16) (.reserved 1), .exp2 true (.reserved 1) (.vx 3),
    .exp2 true (.s 16) (.reserved 1), .log2 false (.reserved 1) (.v 172), .log2 false (.v 24) (.reserved 1), .sinp true (.reserved 1) (.s 6),
    .sinp true (.s 16) (.reserved 1), .cosp false (.reserved 1) (.lit 2), .cosp false (.v 32) (.reserved 1), .frac true (.reserved 1) (.vx 3),
    .frac true (.s 16) (.reserved 1), .rint false (.reserved 1) (.v 180), .rint false (.v 40) (.reserved 1), .cvt true (.reserved 1) (.s 6) 0#3 6#4,
    .cvt true (.s 16) (.reserved 1) 0#3 6#4, .cvt true (.s 16) (.s 6) 1#3 6#4, .cvt true (.s 16) (.s 6) 0#3 13#4,
    .pack false (.reserved 1) (.lit 2) 0#3 4#4, .pack false (.v 48) (.reserved 1) 0#3 4#4, .pack false (.v 48) (.lit 2) 1#3 4#4,
    .pack false (.v 48) (.lit 2) 0#3 13#4, .unpack true (.reserved 1) (.vx 3) 0#3 5#4, .unpack true (.s 16) (.reserved 1) 0#3 5#4,
    .unpack true (.s 16) (.vx 3) 1#3 5#4, .unpack true (.s 16) (.vx 3) 0#3 13#4, .dot false (.reserved 1) (.v 8) (.lit 4),
    .dot false (.v 56) (.reserved 1) (.lit 4), .dot false (.v 56) (.v 8) (.reserved 1), .ld8 true (.reserved 1) (.s 6) 26#8,
    .ld8 true (.s 16) (.reserved 1) 26#8, .ld16 false (.reserved 1) (.lit 2) 193#8, .ld16 false (.v 64) (.reserved 1) 193#8,
    .ld32 true (.reserved 1) (.vx 3) 104#8, .ld32 true (.s 16) (.reserved 1) 104#8, .ld64 false (.reserved 1) (.v 16) 15#8,
    .ld64 false (.v 72) (.reserved 1) 15#8, .ld128 true (.reserved 1) (.s 6) 182#8, .ld128 true (.s 16) (.reserved 1) 182#8,
    .st8 false (.reserved 1) (.lit 2) 93#8, .st8 false (.v 80) (.reserved 1) 93#8, .st16 true (.reserved 1) (.vx 3) 4#8,
    .st16 true (.v 84) (.reserved 1) 4#8, .st32 false (.reserved 1) (.v 24) 171#8, .st32 false (.v 88) (.reserved 1) 171#8] : List Instr).all (fun i => !wellFormed i) = true := by decide

theorem test_ill_formed_5 : ([
    .st64 true (.reserved 1) (.s 6) 82#8, .st64 true (.v 92) (.reserved 1) 82#8, .st128 false (.reserved 1) (.lit 2) 249#8,
    .st128 false (.v 96) (.reserved 1) 249#8, .lda true (.reserved 1) (.vx 3) 160#8, .lda true (.s 16) (.reserved 1) 160#8,
    .strl false (.reserved 1) (.v 32) 71#8, .strl false (.v 104) (.reserved 1) 71#8, .cmoClean true 4#4 (.s 6) (.s 10),
    .cmoClean true 1#4 (.reserved 1) (.s 10), .cmoClean true 1#4 (.s 6) (.reserved 1), .cmoInv false 4#4 (.lit 2) (.lit 4),
    .cmoInv false 2#4 (.reserved 1) (.lit 4), .cmoInv false 2#4 (.lit 2) (.reserved 1), .cmoCinv true 4#4 (.vx 3) (.v 74),
    .cmoCinv true 3#4 (.reserved 1) (.v 74), .cmoCinv true 3#4 (.vx 3) (.reserved 1), .cmoSettle false 4#4 (.v 48) (.s 10),
    .cmoSettle false 0#4 (.reserved 1) (.s 10), .cmoSettle false 0#4 (.v 48) (.reserved 1), .pref true true (.reserved 1) 38#8,
    .dtag false (.reserved 1) (.lit 2) 205#8, .dtag false (.v 144) (.reserved 1) 205#8, .aadd true (.reserved 1) (.vx 3) (.s 10),
    .aadd true (.s 16) (.reserved 1) (.s 10), .aadd true (.s 16) (.vx 3) (.reserved 1), .amin false (.reserved 1) (.v 56) (.lit 4),
    .amin false (.v 152) (.reserved 1) (.lit 4), .amin false (.v 152) (.v 56) (.reserved 1), .amax true (.reserved 1) (.s 6) (.v 86),
    .amax true (.s 16) (.reserved 1) (.v 86), .amax true (.s 16) (.s 6) (.reserved 1), .aand false (.reserved 1) (.lit 2) (.s 10),
    .aand false (.v 160) (.reserved 1) (.s 10), .aand false (.v 160) (.lit 2) (.reserved 1), .aor true (.reserved 1) (.vx 3) (.lit 4),
    .aor true (.s 16) (.reserved 1) (.lit 4), .aor true (.s 16) (.vx 3) (.reserved 1), .axor false (.reserved 1) (.v 64) (.v 92),
    .axor false (.v 8) (.reserved 1) (.v 92), .axor false (.v 8) (.v 64) (.reserved 1), .axchg true (.reserved 1) (.s 6) (.s 10),
    .axchg true (.s 16) (.reserved 1) (.s 10), .axchg true (.s 16) (.s 6) (.reserved 1), .acas false (.reserved 1) (.lit 2) (.lit 4),
    .acas false (.v 16) (.reserved 1) (.lit 4), .acas false (.v 16) (.lit 2) (.reserved 1), .dplate true (.reserved 1) (.vx 3) 172#8,
    .dplate true (.s 16) (.reserved 1) 172#8, .dpub (.reserved 1) 5#8, .dpub (.v 24) 17#8, .galRes true (.reserved 1) (.s 6),
    .galRes true (.s 16) (.reserved 1), .galCom false (.reserved 1) (.lit 2), .galCom false (.v 32) (.reserved 1),
    .galTake true (.reserved 1) (.vx 3), .galTake true (.s 16) (.reserved 1), .galFree false (.reserved 1) (.v 80),
    .galFree false (.v 40) (.reserved 1), .fpop true (.reserved 1) (.s 6) 26#6] : List Instr).all (fun i => !wellFormed i) = true := by decide

theorem test_ill_formed_6 : ([
    .fpop true (.s 16) (.reserved 1) 26#6, .fpop true (.s 16) (.s 6) 50#6, .br false 50#6 false 16189#16, .jmp true (.reserved 1),
    .call false 50#6 false 43659#16, .callr true (.reserved 1), .exitSuccessor false (.reserved 1), .barMeet true 16#8, .barPost false 16#8,
    .barAwait true 16#8, .waitv false (.reserved 1) (.v 104) (.lit 4), .waitv false (.v 88) (.reserved 1) (.lit 4),
    .waitv false (.v 88) (.v 104) (.reserved 1), .spawn true 25#5 (.s 6) 105#8, .spawn true 9#5 (.reserved 1) 105#8, .launch false (.reserved 1),
    .futWait true (.reserved 1) (.vx 3), .futWait true (.s 16) (.reserved 1), .futTest false (.reserved 1) (.v 112),
    .futTest false (.v 104) (.reserved 1), .futCancel true (.reserved 1), .futAdopt false (.reserved 1) (.lit 2),
    .futAdopt false (.v 112) (.reserved 1), .timCyc true (.reserved 1), .timWcyc false (.reserved 1), .timPclass true (.reserved 1),
    .timLockq true (.reserved 1) (.vx 3), .timLockq true (.s 16) (.reserved 1), .mma false (.reserved 1) 11#6 2#2 7#3 3#4,
    .mmj true (.reserved 1) 50#6 1#2 6#3 10#4, .accZero 25#6 0#2 4#3, .accLd (.reserved 1) 0#6 3#2 3#3, .accLd (.v 134) 0#6 3#2 4#3,
    .accSt (.reserved 1) 39#6 2#2 0#3, .accSt (.v 136) 39#6 2#2 4#3, .accRd (.reserved 1) 14#6 1#3, .accRd (.v 156) 14#6 4#3,
    .accScale (.reserved 1) 53#6 0#2 2#3, .accScale (.v 140) 53#6 0#2 4#3, .smp (.reserved 1) (.vx 3) 27#5, .smp (.v 164) (.reserved 1) 27#5,
    .engCopy false (.reserved 1) (.v 144), .engCopy false (.v 8) (.reserved 1), .engColl true (.reserved 1) (.s 6),
    .engColl true (.s 16) (.reserved 1), .engGath false (.reserved 1) (.lit 2), .engGath false (.v 16) (.reserved 1),
    .engXfer true (.reserved 1) (.vx 3), .engXfer true (.s 16) (.reserved 1), .engSmma false (.reserved 1) (.v 152),
    .engSmma false (.v 24) (.reserved 1), .engWpin true (.reserved 1) (.s 6), .engWpin true (.s 16) (.reserved 1),
    .engWinv false (.reserved 1) (.lit 2), .engWinv false (.v 32) (.reserved 1), .sysTrap true (.reserved 1), .sysBrk false (.reserved 1),
    .sysPerf true (.reserved 1), .primTri (.reserved 1) (.lit 2), .primTri (.v 48) (.reserved 1)] : List Instr).all (fun i => !wellFormed i) = true := by decide

theorem test_ill_formed_7 : ([
    .primEll (.reserved 1) (.vx 3), .primEll (.v 52) (.reserved 1), .primPt (.reserved 1) (.v 168), .primPt (.v 56) (.reserved 1),
    .primFout (.reserved 1), .ptov false (.v 1) 0#8 0#8, .dpub (.v 4) 0#8, .spawn false 0#5 (.v 4) 0#8, .plog false 5#6 0#2 3#2 false 1#6 true 0#6,
    .plog false 5#6 0#2 3#2 false 1#6 false 2#6, .wrsr false (.v 4) 0x0A#16, .rdsr false (.v 5) 0x0E#16, .wrsr false (.v 5) 0x0E#16,
    .add false (.s 3) (.v 1) (.v 2), .add true (.lit 0) (.v 1) (.v 2), .add true (.const .one) (.v 1) (.v 2), .add true (.special .lid) (.v 1) (.v 2),
    .add false (.v 1) .sink (.v 2), .add false (.v 1) (.lit 7) (.v 2), .mad false .sink (.v 1) (.v 2), .movh false .sink 1#16,
    .sel false .sink (.v 1) (.v 2), .add64 false (.v 3) (.v 4) (.v 1), .add64 false (.v 4) (.v 3) (.v 1), .ld64 false (.v 3) (.v 4) 0#8,
    .ld128 true (.s 30) (.v 4) 0#8, .ld32 false (.v 3) (.v 5) 0#8, .ld32 false (.v 3) (.lit 6) 0#8, .st64 false (.const .zero) (.v 4) 0#8,
    .st128 false (.special .glid) (.v 4) 0#8, .st128 false (.lit 5) (.v 4) 0#8, .dpub (.const .zero) 1#8, .omap 0#8 (.const .zero),
    .omap 0#8 (.lit 4), .shfl (.s 1) (.v 1) (.v 2), .fpop true (.s 18) (.v 1) 0#6, .acas false (.v 1) (.v 4) (.v 5),
    .spawn false 8#5 (.const .zero) 0#8, .mma false (.s 4) 0#6 0#2 0#3 0#4, .accLd (.lit 0) 0#6 0#2 0#3, .smp (.v 3) (.v 4) 0#5,
    .smp (.s 4) (.v 4) 0#5, .barrierWaveRelease 0 16, .taskWaveTimeout 36 0, .taskWavePlacement 36, .evaluatorPlacement 4, .matrixOperation 144,
    .teamPlacement 4, .translationWalk 144 0 false, .parkedSwitchOut 4, .halt 4, .preemptSave 4, .preemptTimeout 4, .watchdog 4, .referencePause 4,
    .l2LineMigration 4 0 0, .telemetrySlot 36 [0, 0, 0] [0, 0, 0] 0, .telemetrySlot 0 [0, 0] [0, 0, 0] 0, .telemetrySlot 0 [0, 0, 0] [] 0,
    .sensorFail 36 .thermal 0] : List Instr).all (fun i => !wellFormed i) = true := by decide

theorem test_ill_formed_8 : ([
    .sensorFail 0 .current 3, .limitStateChange 36 .power 0, .limitStateChange 0 .power 4, .classChange 36, .droopStretch 36, .doorbell 4 0 0,
    .doorbell 0 64 0, .stoptail 4 0, .launchPacket 4 0, .launchPacket 0 64, .feed 4 0, .feed 0 64, .wait 4 0, .wait 0 64, .waitRecheck 4 0,
    .waitRecheck 0 64, .signal 4 0, .signal 0 64, .draw 4 0, .draw 0 64, .copy 4 0, .copy 0 64, .fence 4 0, .fence 0 64, .indirect 4 0,
    .indirect 0 64, .timestamp 4 0, .timestamp 0 64, .nop 4 0, .nop 0 64, .drawFrameAllocation 4, .fragmentGroupRelease 4 0 0 0,
    .fragmentGroupPlacement 36, .tileFrameLoad 4 0 0, .overprintFragment 4 0 0 0, .tileWriteBack 4 0 0, .samplerQuad 144 0, .samplerQuad 0 4,
    .weightFill 144 0, .weightFill 0 4, .winvObserve 144 0, .winvObserve 0 4, .hostWrite .bar2 0 [], .hostRead .bar2 0 0, .linkUnreachable 12,
    .hostAtomic .bar2 .cas 4 true 0 0, .hostAtomic .bar2 .cas 2 false 0 0, .l1LineEviction 144 0, .writePerformed 144 0] : List Instr).all (fun i => !wellFormed i) = true := by decide

end Sys2Proof.Tests
end

section
/-!
What a device shows in BAR0, and the values that reset gives it: the obligation of 00_scope.md.
-/

namespace Sys2Proof

/-- The number of the `n` bytes of a number keeps its low `n` bytes. -/
@[simp] theorem leNat_leBytes (n w : Nat) : leNat (leBytes n w) = w % 256 ^ n := by
  induction n generalizing w with
  | zero => simp [leBytes, leNat, Nat.mod_one]
  | succ n ih =>
    rw [leBytes, leNat, ih, BitVec.toNat_ofNat, Nat.pow_succ' (m := 256)]
    exact (Nat.mod_mul ..).symm

theorem leNat_eq_zero {bs : List Byte} (h : ∀ b ∈ bs, b = 0) : leNat bs = 0 := by
  induction bs with
  | nil => rfl
  | cons b bs ih => simp [leNat, h b (by simp), ih fun c hc => h c (by simp [hc])]

/-- Reading bytes one after the other gives the stretch of the list they stand in. -/
theorem map_getD_range {α : Type} (bs : List α) (x : α) (a n : Nat) (h : a + n ≤ bs.length) :
    (List.range n).map (fun i => bs.getD (a + i) x) = (bs.drop a).take n := by
  refine List.ext_getElem (by simp; omega) fun i hi _ => ?_
  have : a + i < bs.length := by simp at hi; omega
  simp [this]

end Sys2Proof

namespace Sys2Proof.Machine
open Sys2Proof

/-- The number that the host reads in `n` bytes of BAR0. -/
def Dev.bar0Num (d : Dev) (ports a n : Nat) : Nat := leNat ((List.range n).map (fun i => d.bar0Byte ports (a + i)))

/-! The identity block (R405). -/

/-- The module's digest, serial number and nearest slices fill the bytes of the identity block that hold them. -/
def Firmware.Sized (f : Firmware) : Prop := 64 ≤ f.digest.length ∧ 64 ≤ f.serialNo.length ∧ f.near.length = 36

theorem Firmware.sized_reset : Firmware.reset.Sized := by
  simp [Firmware.Sized, Firmware.reset]

theorem Dev.identity_length (d : Dev) (ports : Nat) (h : d.fw.Sized) : (d.identity ports).length = 256 := by
  obtain ⟨hd, hs, hn⟩ := h
  simp [Dev.identity, leBytes, hd, hs, hn]

theorem Dev.bar0Byte_identity (d : Dev) (ports a : Nat) (h : a < 0x1000) : d.bar0Byte ports a = (d.identity ports).getD a 0xFF := by
  simp only [Dev.bar0Byte, if_pos h]

/-- A register of the identity block holds the bytes of the block at its offset. -/
theorem Dev.bar0Num_identity (d : Dev) (ports a n : Nat) (h : d.fw.Sized) (ha : a + n ≤ 256) :
    d.bar0Num ports a n = field (d.identity ports) a n := by
  have hread : (List.range n).map (fun i => d.bar0Byte ports (a + i)) = (List.range n).map (fun i => (d.identity ports).getD (a + i) 0xFF) :=
    List.map_congr_left fun i hi => d.bar0Byte_identity ports (a + i) (by have := List.mem_range.1 hi; omega)
  rw [Dev.bar0Num, hread, map_getD_range _ _ _ _ (by rw [d.identity_length ports h]; exact ha), field]

section
variable (d : Dev) (ports : Nat)

theorem Dev.identity_head : field (d.identity ports) 0 23 = 0 :=
  leNat_leBytes 23 0

theorem Dev.identity_ports :
    field (d.identity ports) 23 1 = ((List.range 12).filter (fun i => bit ports i)).length % 256 :=
  leNat_leBytes 1 _

theorem Dev.identity_slices : field (d.identity ports) 24 2 = d.slices % 65536 :=
  leNat_leBytes 2 _

theorem Dev.identity_cores : field (d.identity ports) 26 2 = (d.cores.filter (·.working)).length % 65536 :=
  leNat_leBytes 2 _

theorem Dev.identity_t1Gib : field (d.identity ports) 28 4 = d.t1Gib % 4294967296 :=
  leNat_leBytes 4 _

theorem Dev.identity_t2Gib : field (d.identity ports) 32 4 = d.t2Gib % 4294967296 :=
  leNat_leBytes 4 _

theorem Dev.identity_nparts : field (d.identity ports) 37 1 = d.nparts % 256 :=
  leNat_leBytes 1 _

/-- The identity block ends in 44 reserved bytes of zero. -/
theorem Dev.identity_tail (h : d.fw.Sized) : field (d.identity ports) 212 44 = 0 := by
  have hlen := d.identity_length ports h
  rw [Dev.identity, List.length_append] at hlen
  rw [field, Dev.identity, List.drop_left' (Nat.add_right_cancel hlen), List.take_of_length_le (Nat.le_refl 44), leNat_leBytes, Nat.zero_mod]

end

/-! The health block (R416). -/

theorem Dev.bar0Byte_health (d : Dev) (ports a : Nat) (h : 0x1000 ≤ a) (h' : a < 0x2000) :
    d.bar0Byte ports a = d.health.shown.getD (a - 0x1000) 0 := by
  simp only [Dev.bar0Byte, if_neg (Nat.not_lt.2 h), if_pos h']

/-- At reset the health block shows nothing failed, and zero above its fields. -/
theorem Dev.reset_health (ports a : Nat) (h : 0x1000 ≤ a) (h' : a < 0x2000) : Dev.reset.bar0Byte ports a = 0 := by
  have hshown : Dev.reset.health.shown = List.replicate 68 0 := rfl
  rw [Dev.bar0Byte_health _ ports a h h', hshown, List.getD_eq_getElem?_getD, List.getElem?_replicate]
  split <;> rfl

theorem Dev.reset_bar0Num_health (ports a n : Nat) (h : 0x1000 ≤ a) (h' : a + n ≤ 0x2000) : Dev.reset.bar0Num ports a n = 0 := by
  refine leNat_eq_zero fun b hb => ?_
  obtain ⟨i, hi, rfl⟩ := List.mem_map.1 hb
  exact Dev.reset_health ports (a + i) (by omega) (by have := List.mem_range.1 hi; omega)

/-- At reset a register of the identity block holds the bytes of the block at its offset. -/
theorem Dev.reset_bar0Num_identity (ports a n : Nat) (ha : a + n ≤ 256) :
    Dev.reset.bar0Num ports a n = field (Dev.reset.identity ports) a n :=
  Dev.reset.bar0Num_identity ports a n Firmware.sized_reset ha

/-! What reset holds in each partition, cluster and core (R2, R283, R347, R396, R403). -/

theorem Part.reset_queues {q : Queue} (hq : q ∈ Part.reset.queues) :
    q.tickets = 1 ∧ q.head = 0 ∧ q.tail = 0 ∧ q.state = 0 ∧ q.errCode = 0 ∧ q.errOff = 0 := by
  cases List.eq_of_mem_replicate hq
  exact ⟨rfl, rfl, rfl, rfl, rfl, rfl⟩

theorem Dev.reset_parts {p : Part} (hp : p ∈ Dev.reset.parts) : p.desc = none ∧ p.halt = false ∧ p.queues.length = 64 ∧
    ∀ q ∈ p.queues, q.tickets = 1 ∧ q.head = 0 ∧ q.tail = 0 ∧ q.state = 0 ∧ q.errCode = 0 ∧ q.errOff = 0 := by
  cases List.eq_of_mem_replicate hp
  exact ⟨rfl, rfl, List.length_replicate, fun _ => Part.reset_queues⟩

theorem Dev.reset_clusters {c : Cluster} (hc : c ∈ Dev.reset.clusters) :
    c.cslope.extractLsb' 24 8 = 60#8 ∧ c.cslope.extractLsb' 16 8 = 16#8 ∧ c.cslope.extractLsb' 0 16 = 64#16 := by
  cases List.eq_of_mem_replicate hc
  decide

theorem Dev.reset_cores {c : Core} (hc : c ∈ Dev.reset.cores) : c.cw = 0 ∧ c.working = true := by
  cases List.eq_of_mem_replicate hc
  exact ⟨rfl, rfl⟩

theorem Dev.reset_working : (Dev.reset.cores.filter (·.working)).length = 144 := by
  rw [List.filter_eq_self.2 fun _ hc => (Dev.reset_cores hc).2]
  exact List.length_replicate

/-- The number of each named field of the identity block that reset gives (R405). -/
theorem Dev.reset_identity (ports : Nat) : let reg := Dev.reset.bar0Num ports
    reg 0 23 = 0 ∧ reg 23 1 = ((List.range 12).filter (fun i => bit ports i)).length % 256 ∧ reg 24 2 = 48 ∧ reg 26 2 = 144 ∧
    reg 28 4 = 192 ∧ reg 32 4 = 3072 ∧ reg 37 1 = 1 ∧ reg 212 44 = 0 := by
  have reg := Dev.reset_bar0Num_identity ports
  refine ⟨?_, ?_, ?_, ?_, ?_, ?_, ?_, ?_⟩
  · rw [reg 0 23 (by decide), Dev.identity_head]
  · rw [reg 23 1 (by decide), Dev.identity_ports]
  · rw [reg 24 2 (by decide), Dev.identity_slices]; rfl
  · rw [reg 26 2 (by decide), Dev.identity_cores]; exact congrArg (· % 65536) Dev.reset_working
  · rw [reg 28 4 (by decide), Dev.identity_t1Gib]; rfl
  · rw [reg 32 4 (by decide), Dev.identity_t2Gib]; rfl
  · rw [reg 37 1 (by decide), Dev.identity_nparts]; rfl
  · rw [reg 212 44 (by decide), Dev.identity_tail _ _ Firmware.sized_reset]

/-- Settles O60: each partition, queue, cluster and core is a copy of its own reset value, and the two blocks of BAR0 are read field by
field from the bytes that the device lists. One partition, a trained PCI Express link and all ports up are the model's choice (log entry 3). -/
theorem resetHoldsTheSpecsValues : Obligations.ResetHoldsTheSpecsValues := by
  unfold Obligations.ResetHoldsTheSpecsValues
  obtain ⟨head, ports, slices, cores, t1, t2, nparts, tail⟩ := Dev.reset_identity State.reset.st.portsUp
  exact ⟨rfl, List.length_replicate, fun _ => Dev.reset_parts, fun _ => Dev.reset_clusters, fun _ => Dev.reset_cores,
    List.length_replicate, List.length_replicate, rfl, rfl, rfl, rfl, rfl, rfl, rfl, rfl,
    head, ports.trans (by decide), slices, cores, t1, t2, nparts, tail,
    Dev.reset_bar0Num_health _ 0x1000 44 (by decide) (by decide),
    fun a h h' => Dev.reset_health _ a (Nat.le_trans (by decide) h) h'⟩

end Sys2Proof.Machine
end

section
/-!
The issues of 13_instructions_control.md that complete: transfers and exits, and the instructions that meet other groups, hand tasks
over or act on handles. The obligations TransfersAndExitsComplete and MeetingsTasksAndLaunchesComplete.
-/

namespace Sys2Proof.Machine
open Sys2Proof

/-! Transfers and exits that complete (R205-R209). -/

theorem oddTargets_nil {ts : List (Lane × Nat)} (h : ∀ t ∈ ts, t.2 % 4 = 0) : oddTargets ts = [] := by
  simpa [oddTargets, List.filter_eq_nil_iff] using h

theorem callTo_reached {e : Env} {cs : List (Nat × Chk)} {ts : List (Lane × Nat)} {counts : Bool} {ps : List (Req × Place)}
    (hd : callDeep ts = []) (ho : callOdd ts = []) (hl : callLow e ts = []) (hr : Reached e 8 .write true false (callReqs e ts) ps)
    (hs : e.orderStops 8 ps = false) : e.callTo cs ts counts = .next (callNext e cs ts counts ps) := by
  simp [Env.callTo, hd, ho, hl, checkAddrs_reached (f := fun _ _ => false) hr (fun _ _ => rfl), hs]

theorem checkReads_span {e : Env} {n : Nat} {rs : List (Lane × Nat)} {ps : List (Req × Place)} (h : SpanReached e n rs ps) :
    e.checkReads n n rs = .ok ps := by
  obtain ⟨hr, -, qs, hq⟩ := h
  simp [Env.checkReads, checkAddrs_reached (f := fun _ _ => false) hr (fun _ _ => rfl),
    checkAddrs_reached (f := fun _ _ => false) hq (fun _ _ => rfl)]

section
variable {s : State} {e : Env}

theorem br_ready {u n : Bool} {p : BitVec 6} {o : BitVec 16} (h : Ready s e) (hc : Clean (e.branchChks u p n)) :
    exec (.br u p n o) s = .next (brNext e u p n o) := by
  change execBr _ _ _ _ s = _
  simp only [execBr, withGang_ready h, gate_clean hc]

theorem jmp_ready {u : Bool} {a : Opnd} (h : Ready s e) (hc : Clean (e.readChks u (targetRead a e)))
    (ht : ∀ t ∈ targets e u a, t.2 % 4 = 0) : exec (.jmp u a) s = .next (jmpNext e u a) := by
  change execJmp _ _ s = _
  simp [execJmp, withGang_ready h, gate_clean hc, oddTargets_nil ht]

theorem call_ready {u n : Bool} {p : BitVec 6} {o : BitVec 16} {ps : List (Req × Place)} (h : Ready s e) (hc : Clean (e.branchChks u p n))
    (hd : callDeep (callTakers e u p n o) = []) (ho : callOdd (callTakers e u p n o) = []) (hl : callLow e (callTakers e u p n o) = [])
    (hr : Reached e 8 .write true false (callReqs e (callTakers e u p n o)) ps) (hs : e.orderStops 8 ps = false) :
    exec (.call u p n o) s = .next (callNext e (e.branchChks u p n) (callTakers e u p n o) false ps) := by
  change execCall _ _ _ _ s = _
  simp only [execCall, withGang_ready h, gate_clean hc, callTo_reached hd ho hl hr hs]

theorem callr_ready {u : Bool} {a : Opnd} {ps : List (Req × Place)} (h : Ready s e) (hc : Clean (e.readChks u (targetRead a e)))
    (ht : ∀ t ∈ targets e u a, t.2 % 4 = 0) (hd : callDeep (targets e u a) = []) (ho : callOdd (targets e u a) = [])
    (hl : callLow e (targets e u a) = []) (hr : Reached e 8 .write true false (callReqs e (targets e u a)) ps)
    (hs : e.orderStops 8 ps = false) :
    exec (.callr u a) s = .next (callNext e (e.readChks u (targetRead a e)) (targets e u a) true ps) := by
  change execCallr _ _ s = _
  simp [execCallr, withGang_ready h, gate_clean hc, oddTargets_nil ht, callTo_reached hd ho hl hr hs]

theorem ret_ready {ps : List (Req × Place)} (h : Ready s e) (hd : ∀ l ∈ e.lanes, l.depth ≠ 0)
    (hr : Reached e 8 .read false true (retReqs e) ps) (hs : e.orderStops 8 ps = false) : exec .ret s = .next (retNext e ps) := by
  have hf : flatLanes e = [] := by simpa [flatLanes, List.filter_eq_nil_iff] using hd
  change execRet s = _
  simp [execRet, withGang_ready h, hf, checkAddrs_reached (f := fun _ _ => false) hr (fun _ _ => rfl), hs]

theorem exit_ready {u : Bool} (h : Ready s e) : exec (.exit u) s = .next (e.exitNow s) := by
  change execExit u s = _
  simp only [execExit, withGang_ready h, h.s]

theorem exitSuccessor_early {u : Bool} {a : Opnd} (h : Ready s e) (hc : Clean (e.readChks u (targetRead a e))) (hl : e.isLast = false) :
    exec (.exitSuccessor u a) s = .next (e.exitNow (e.settleReads (e.readChks u (targetRead a e)) s)) := by
  change execExitSuccessor _ _ s = _
  simp [execExitSuccessor, withGang_ready h, gate_clean hc, hl, h.s]

theorem exitSuccessor_last {u : Bool} {a : Opnd} {ps : List (Req × Place)} (h : Ready s e) (hc : Clean (e.readChks u (targetRead a e)))
    (hl : e.isLast = true) (ho : succOdd e u a = []) (hk : e.t.kind ≠ .task) (hv : e.t.kind ≠ .evaluator) (hq : e.t.shape.quad = false)
    (hr : SpanReached e 128 [(e.leader, succVa e u a)] ps) (hs : e.recordStops ps = false)
    (hok : succOk (succState e u a ps) e (succBytes (succState e u a ps) e ps) = true)
    (hfit : successorFits e.t.shape (LaunchRec.ofBytes (succBytes (succState e u a ps) e ps)) = true) :
    exec (.exitSuccessor u a) s = .next (succNext e (succState e u a ps) (succBytes (succState e u a ps) e ps)) := by
  change execExitSuccessor _ _ s = _
  simp [execExitSuccessor, withGang_ready h, gate_clean hc, hl, ho, hk, hv, hq, checkReads_span hr, hs, readGate_ready hr.2.1, hok, hfit]

end

/-- Settles O13: each instruction's issue taken through its gate and its checks, one lemma for each way. -/
theorem transfersAndExitsComplete : Obligations.TransfersAndExitsComplete := by
  unfold Obligations.TransfersAndExitsComplete
  exact ⟨fun _ _ _ _ _ _ => br_ready, fun _ _ _ _ => jmp_ready, fun _ _ _ _ _ _ _ => call_ready, fun _ _ _ _ _ => callr_ready,
    fun _ _ _ => ret_ready, fun _ _ _ => exit_ready, fun _ _ _ _ => exitSuccessor_early, fun _ _ _ _ _ => exitSuccessor_last⟩

/-! Meetings, tasks and launches that complete (R44, R45, R215-R222, R228, R237-R241). -/

theorem Quiet.noneOutstanding {e : Env} (h : Quiet e) : e.lanes.any (fun l => e.s.dev.laneHas e.g.gid l.lid (fun _ => true)) = false :=
  List.any_eq_false.2 fun l hl => by simp [h l hl]

section
variable {s : State} {e : Env}

theorem regroupIssue_ready {give : Bool} {p : BitVec 6} {a : Opnd} {peer : Group} (h : Ready s e)
    (hc : Clean (e.readChks true (regrpRead p a e))) (hp : e.regroupPeer give (regrpVal e p a) = some peer) (hv : e.converged = .yes) :
    regroupIssue give p a s = .next (regrpNext e give p a peer) := by
  simp only [regroupIssue, withGang_ready h, gate_clean hc, hv, hp]

theorem barIssue_ready {post await : Bool} {b : BitVec 8} (h : Ready s e) (hb : b.toNat < 16) (hk : e.t.kind ≠ .task)
    (he : e.t.kind ≠ .evaluator) (hv : e.converged = .yes) (hs : barStep e (post && !e.leader.skip) await b.toNat ≠ .bad) :
    barIssue post await b s = .next (barNext e b.toNat (barStep e (post && !e.leader.skip) await b.toNat)) := by
  have hc : Clean (barChks e b) := by simp [Clean, barChks, hb, Chk.ok]
  simp only [barIssue, withGang_ready h, gate_clean hc, hk, he, or_self, if_false, hv]

/-- The three barrier instructions are one issue, with the halves of the arrival that each has. -/
theorem exec_barForm {i : Instr} {f : BarForm} (hf : barForm i = some f) (s : State) : exec i s = barIssue f.post f.await f.b s := by
  unfold barForm at hf
  split at hf <;> cases hf <;> rfl

theorem waitv_ready {u : Bool} {d a b : Opnd} {ps : List (Req × Place)} (h : Ready s e) (hc : Clean (waitvChks e u d a b))
    (hr : Reached e 4 .read false true (waitvReqs e u d a b) ps) (ho : e.orderStops 4 ps = false) :
    exec (.waitv u d a b) s = .next (waitvNext e u d a b ps) := by
  change execWaitv _ _ _ _ s = _
  simp [execWaitv, withGang_ready h, gate_clean hc, checkAddrs_reached (f := fun _ _ => false) hr (fun _ _ => rfl), ho]

theorem spawn_ready {u : Bool} {r : BitVec 5} {a : Opnd} {n : BitVec 8} (h : Ready s e) (hc : Clean (e.readChks u (spawnRead r a e)))
    (ho : spawnOdd e u r a = []) (hq : Quiet e) : exec (.spawn u r a n) s = .next (spawnNext e u r a n) := by
  change execSpawn _ _ _ _ s = _
  simp only [execSpawn, withGang_ready h, gate_clean hc, ho, hq.noneOutstanding]
  rfl

theorem launch_ready {u : Bool} {a : Opnd} {ps : List (Req × Place)} (h : Ready s e) (hc : Clean (e.readChks u (targetRead a e)))
    (hact : launchActs e u a ≠ []) (ho : launchOdd e u a = []) (hk : e.t.kind ≠ .task) (hv : e.t.kind ≠ .evaluator)
    (hr : SpanReached e 128 (launchActs e u a) ps) (hq : Quiet e)
    (hb : badRecs (launchState e u a ps) e (launchRecs (launchState e u a ps) e ps) = []) :
    exec (.launch u a) s = .next (launchNext e (launchState e u a ps) (launchRecs (launchState e u a ps) e ps)) := by
  change execLaunch _ _ s = _
  simp only [execLaunch, withGang_ready h, gate_clean hc, List.isEmpty_eq_false_iff.2 hact, ho, hk, hv, checkReads_span hr,
    readGate_ready hr.2.1, hq.noneOutstanding, hb]
  rfl

theorem fpop_ready {u : Bool} {d a : Opnd} {p : BitVec 6} (h : Ready s e) (hc : Clean (fpopChks e u d a p)) :
    exec (.fpop u d a p) s = .next (if (fpopFeed e a p).records = [] ∧ (fpopFeed e a p).closed = false then
      e.waitFor (e.settleReads (fpopChks e u d a p) s) (.fpop (fpopQueue e a p)) else fpopNext e u d a p) := by
  change execFpop _ _ _ _ s = _
  simp only [execFpop, withGang_ready h, gate_clean hc, h.s]
  by_cases hw : (fpopFeed e a p).records = [] ∧ (fpopFeed e a p).closed = false
  · simp [hw]
  · rw [if_neg (by simpa using hw), if_neg hw]

theorem futWait_ready {u : Bool} {d a : Opnd} (h : Ready s e) (hc : Clean (futChks e u d (futRead a)))
    (hl : staleLids (handles e u (futRead a)) = []) :
    exec (.futWait u d a) s = .next (if (handles e u (futRead a)).any Held.busy then e.waitFor s .futWait else futNext e u d a) := by
  change execFutWait _ _ _ s = _
  simp only [execFutWait, withGang_ready h, gate_clean hc, hl, h.s]
  cases (handles e u (futRead a)).any Held.busy <;> rfl

theorem futTest_ready {u : Bool} {d a : Opnd} (h : Ready s e) (hc : Clean (futChks e u d (futRead a)))
    (hl : staleLids (handles e u (futRead a)) = []) : exec (.futTest u d a) s = .next (futNext e u d a) := by
  change execFutTest _ _ _ s = _
  simp [execFutTest, withGang_ready h, gate_clean hc, hl]

theorem futCancel_ready {u : Bool} {a : Opnd} (h : Ready s e) (hc : Clean (e.readChks u (futRead a e)))
    (hl : staleLids (handles e u (futRead a)) = []) : exec (.futCancel u a) s = .next (cancelNext e u a) := by
  change execFutCancel _ _ s = _
  simp [execFutCancel, withGang_ready h, gate_clean hc, hl]

theorem futAdopt_ready {u : Bool} {d a : Opnd} (h : Ready s e) (hc : Clean (futChks e u d (adoptRead a)))
    (hl : staleLids (handles e u (adoptRead a)) = []) : exec (.futAdopt u d a) s = .next (adoptNext e u d a) := by
  change execFutAdopt _ _ _ s = _
  simp [execFutAdopt, withGang_ready h, gate_clean hc, hl]

end

/-- Settles O14: each instruction's issue taken through its gate and its checks; a regroup half and the barrier instructions are one
issue each, whichever half they are. -/
theorem meetingsTasksAndLaunchesComplete : Obligations.MeetingsTasksAndLaunchesComplete := by
  unfold Obligations.MeetingsTasksAndLaunchesComplete
  refine ⟨?_, ?_, fun _ _ _ _ _ _ _ => waitv_ready, fun _ _ _ _ _ _ => spawn_ready, fun _ _ _ _ _ => launch_ready,
    fun _ _ _ _ _ _ => fpop_ready, fun _ _ _ _ _ h hc hl => ⟨futWait_ready h hc hl, futTest_ready h hc hl⟩,
    fun _ _ _ _ => futCancel_ready, fun _ _ _ _ _ => futAdopt_ready⟩
  · intro u p a s e peer give h hc hp hv
    cases give <;> exact regroupIssue_ready h hc hp hv
  · intro i f s e hf h hb hk he hv hs
    rw [exec_barForm hf]
    exact barIssue_ready h hb hk he hv hs

end Sys2Proof.Machine
end

section
/-!
What a turn of an issue slot runs (R18, R20-R23, R28): the obligation StepRunsTheDecodedWord of 01_execution_model.md.
-/

namespace Sys2Proof.Machine
open Sys2Proof

theorem execWord_decoded {s : State} {e : Env} {i : Instr} (he : s.env? = some e) (hi : decodeWord e.word.toNat = some i)
    (hn : e.namesHurt i = []) : execWord s = exec i s := by
  simp [execWord, he, hi, hn]

theorem selStep_inClause {s : State} {x : Sel} (h : x.clause.isSome = true) :
    selStep s x = execWord (s.onDev (fun d => { d with sel := some x })) := by
  simp [selStep, h]

/-- A group whose first gang is free of interlocks and issues is ready with that gang. -/
theorem State.tryGroup_first {s t : State} {g : Group} {x : Bool × Sel} {more : List (Bool × Sel)} (hc : g.canIssue s.dev = true)
    (hg : g.gangs = x :: more) (hp : s.unpaced g x.2 = true) (ht : selStep s x.2 = .next t) : s.tryGroup g = some (x.2, .next t) := by
  simp [State.tryGroup, hc, hg, hp, firstReady, ht]

theorem Dev.pickGroup_nil (d : Dev) (core slot : Nat) : d.pickGroup core slot [] = none := by
  have : (d.core core).starved.findSome? (fun _ => (none : Option Group)) = none := List.findSome?_eq_none_iff.2 fun _ _ => rfl
  simp [Dev.pickGroup, this]

/-- The group that R28 takes first is the one that issues, if it is ready. -/
theorem State.trySlot_picked {s : State} {core slot : Nat} {gs : List Group} {g : Group} {r : Sel × Out}
    (hp : s.dev.pickGroup core slot gs = some g) (hr : s.tryGroup g = some r) : s.trySlot core slot gs.length gs = some (g, r) := by
  cases gs with
  | nil => simp [Dev.pickGroup_nil] at hp
  | cons k ks => simp only [List.length_cons, State.trySlot, hp, hr]

theorem State.issueAt_picked {s t : State} {core slot : Nat} {g : Group} {x : Sel} (hf : (s.starveAt core slot).dev.slotFree core slot = true)
    (hp : (s.starveAt core slot).dev.pickGroup core slot ((s.starveAt core slot).dev.slotGroups core slot) = some g)
    (hr : (s.starveAt core slot).tryGroup g = some (x, .next t)) :
    ∃ others, s.issueAt core slot =
      some (x.clause.isSome, .next (((s.starveAt core slot).regErrors g x t).afterSelect core slot g x others)) := by
  simp only [State.issueAt, hf, State.trySlot_picked hp hr]
  exact ⟨_, rfl⟩

/-- Settles O5: the first gang of the group that R28 takes is selected, its word decoded and run, and selection's bookkeeping follows. -/
theorem stepRunsTheDecodedWord : Obligations.StepRunsTheDecodedWord := by
  unfold Obligations.StepRunsTheDecodedWord
  intro s t core slot rest g x more e i ha s0 s1 hf hp hc hg hu hx he hi hn ht
  have hw : execWord s1 = exec i s1 := execWord_decoded he hi hn
  have hsel : selStep s0 x.2 = .next t := (selStep_inClause hx).trans (hw.trans ht)
  obtain ⟨others, hat⟩ := State.issueAt_picked hf hp (State.tryGroup_first hc hg hu hsel)
  refine ⟨hw, others, ?_⟩
  simp only [step, ha, State.turn, State.take, State.issue, hat, Option.map_some, Option.getD_some, outFit]
  rfl

end Sys2Proof.Machine
end

section
/-!
The events of 01_execution_model.md that happen where what they wait for has come: of the memory pipe, of groups, teams and launches, and
of task and evaluator waves. The obligations MemoryEventsComplete, GroupsAndTeamsGoOn and TaskAndEvaluatorWavesGoOn.
-/

namespace Sys2Proof.Machine
open Sys2Proof

section
variable {s : State}

/-! Events of the memory pipe (R28, R56, R187, R297, R298, R313, R341, R344). -/

section
variable {op : Nat} {o k : Op} (ho : s.dev.op? op = some o) (hw : s.dev.working o.part = true) (hk : o.kind.completes = true)
  (hg : o.goesOn = true) (hh : s.dev.writeHeld o = false)
include ho hw hk hg hh

theorem longLatencyCompletion_captured (hu : (State.afterAttempt op (s.attempt op false)).dev.op? op = none) :
    exec (.longLatencyCompletion op) s = .next ((State.afterAttempt op (s.attempt op false)).wakeHeld o.gid) := by
  change execLongLatencyCompletion _ s = _
  simp only [execLongLatencyCompletion, ho, hw, hk, hg, hh, hu]
  rfl

theorem longLatencyCompletion_attempted (hu : (State.afterAttempt op (s.attempt op false)).dev.op? op = some k) :
    exec (.longLatencyCompletion op) s =
      .next (if State.allGot k && !k.tardy then (State.afterAttempt op (s.attempt op false)).completeOp k
        else State.afterAttempt op (s.attempt op false)) := by
  change execLongLatencyCompletion _ s = _
  simp only [execLongLatencyCompletion, ho, hw, hk, hg, hh, hu]
  rfl

end

theorem writePerformed_enabled {core line : Nat} {o : Op}
    (ho : s.dev.ops.find? (fun o => o.core == core && s.dev.writeReady o && s.dev.working o.part &&
      o.accs.any (fun x => x.place.base / 128 == line)) = some o) : exec (.writePerformed core line) s = .next (s.finishWrite o) := by
  change execWritePerformed _ _ s = _
  simp only [execWritePerformed, ho]

theorem l1LineEviction_held {core line : Nat} (hp : (s.dev.part (s.dev.partOfCore core)).paused = false)
    (hl : (lineAt s.st.lines core 0 line).isSome = true) :
    exec (.l1LineEviction core line) s = .next (s.onSt (fun st => st.evictLine core line)) := by
  change execL1LineEviction _ _ s = _
  simp [execL1LineEviction, hp, hl]

theorem l1LineEviction_texels {core line : Nat} (hp : (s.dev.part (s.dev.partOfCore core)).paused = false)
    (hl : (lineAt s.st.lines core 0 line).isSome = false) (ht : ∃ l ∈ s.st.lines, l.core = core ∧ l.line = line) :
    exec (.l1LineEviction core line) s =
      .next (s.onSt (fun st => { st with lines := st.lines.filter (fun l => !(l.core == core && l.line == line)) })) := by
  have hany : s.st.lines.any (fun l => l.core == core && l.line == line) = true := by simpa using ht
  change execL1LineEviction _ _ s = _
  simp only [execL1LineEviction, hp, hl, hany]
  rfl

theorem translationWalk_enabled {core x c b : Nat} {va : DWord} {wr : Bool} (hw : s.dev.working (s.dev.partOfCore core) = true)
    (hg : s.dev.present core ≠ []) (hva : va.toNat < windowBase) (hc : canonical va.toNat = true)
    (hm : ∀ t, s.st.tlbHit (s.dev.partOfCore core) core va.toNat = some t → wr = true ∧ bit t.leaf.toNat 53 = false)
    (hl : s.st.walk (s.dev.partOfCore core) s.dev.nparts ((s.dev.part (s.dev.partOfCore core)).desc.getD Desc.none).root va.toNat = .leaf x c b)
    (hx : wr = true → bit x 4 = true) :
    exec (.translationWalk core va wr) s = .next (s.onSt (fun st =>
      st.touchPage (s.dev.partOfCore core) s.dev.nparts ((s.dev.part (s.dev.partOfCore core)).desc.getD Desc.none).root core va.toNat wr)) := by
  have hperm : (!wr || bit x 4) = true := by
    cases wr with
    | false => rfl
    | true => exact hx rfl
  change execTranslationWalk _ _ _ s = _
  cases ht : s.st.tlbHit (s.dev.partOfCore core) core va.toNat with
  | none => simp [execTranslationWalk, hw, hg, Nat.not_le.2 hva, hc, ht, hl, hperm]
  | some t => simp [execTranslationWalk, hw, hg, Nat.not_le.2 hva, hc, ht, hm t ht, hl, hx (hm t ht).1]

theorem starvedQueueEntry_enabled {gid : Nat} {g : Group} (hg : s.dev.group? gid = some g)
    (hs : ∃ c, g.since = some c ∧ c + 256 ≤ s.dev.cycOf g.part g.core) (hc : g.canIssue s.dev = true)
    (hn : (s.dev.core g.core).starved.contains (g.islot, gid) = false) :
    exec (.starvedQueueEntry gid) s =
      .next (s.onDev (fun d => d.modCore g.core (fun c => { c with starved := c.starved ++ [(g.islot, gid)] }))) := by
  obtain ⟨c, hsince, hle⟩ := hs
  have hgid : g.gid = gid := by simpa [Dev.group?] using List.find?_some hg
  have hst : s.dev.starves g = true := by simp only [Dev.starves, hsince, hc, hgid, hn, hle, decide_true]; rfl
  change execStarvedQueueEntry _ s = _
  simp only [execStarvedQueueEntry, hg, hst, if_true, Dev.enterStarved, hgid]

theorem waiterReplay_enabled {cell q : Nat} (hq : (List.range 4).find? (fun q => (s.dev.part q).replaying.contains cell) = some q)
    (hw : s.dev.working q = true) : exec (.waiterReplay cell) s = .next (s.drainCell q cell) := by
  change execWaiterReplay _ s = _
  simp only [execWaiterReplay, hq, hw, if_true]

theorem deferTimeout_enabled {cell op : Nat} {o : Op} (ho : s.dev.op? op = some o) (hw : s.dev.working o.part = true)
    (hr : (s.dev.part o.part).replaying.contains cell = false)
    (hx : ∃ x ∈ o.accs.filter (fun x => x.cell == some cell),
      x.joined + ((s.dev.part o.part).desc.getD Desc.none).deferTimeout * 2000 ≤ s.dev.time) :
    exec (.deferTimeout cell op) s = .next (((s.onDev (fun d => d.modPart o.part (fun p =>
      { p with waiters := p.waiters.filter (fun w => !(w.1 == op && w.2 == cell)) }))).recount o.part cell).deliver o
        ((o.accs.filter (fun x => x.cell == some cell)).map (fun x => (x.lid, .deferTimeout))) 0) := by
  have hne : (o.accs.filter (fun x => x.cell == some cell)).isEmpty = false :=
    List.isEmpty_eq_false_iff.2 (List.ne_nil_of_mem hx.choose_spec.1)
  have hdue := List.any_eq_true.2 (hx.imp fun x h => ⟨h.1, decide_eq_true h.2⟩)
  change execDeferTimeout _ _ s = _
  simp only [execDeferTimeout, ho, hw, hr, hne, hdue]
  rfl

/-! Groups and teams (R41-R46, R218, R226, R357-R360, R397). -/

theorem groupRetire_enabled {gid : Nat} {g : Group} (hg : s.dev.group? gid = some g) (hl : ∀ l ∈ g.lanes, l.live = false)
    (hf : ∀ n ∈ g.flags, n = 0) (hw : s.dev.working g.part = true) :
    exec (.groupRetire gid) s = .next ((s.onDev (fun d => d.closeStream gid)).retireGroup gid) := by
  have hlive : g.lanes.any (·.live) = false := by simpa using hl
  change execGroupRetire _ s = _
  simp only [execGroupRetire, hg, hlive, hw]
  simpa using hf

/-- What holds a team back from its end, all absent (R42, R226). -/
def Team.spent (s : State) (t : Team) : Prop :=
  s.dev.teamGroups t.tid = [] ∧ t.pending = [] ∧ (∀ e ∈ s.dev.engs, e.tid = t.tid → e.packet.isSome = true) ∧
  (∀ o ∈ s.dev.ops, o.tid ≠ t.tid) ∧ (∀ c ∈ s.dev.cores, ∀ x ∈ c.mq, x.tid ≠ t.tid) ∧ s.dev.working t.part = true

theorem Dev.team?_tid {d : Dev} {tid : Nat} {t : Team} (h : d.team? tid = some t) : t.tid = tid := by
  simpa [Dev.team?] using List.find?_some h

theorem Team.spent.notHeld {t : Team} (h : t.spent s) :
    (!(s.dev.teamGroups t.tid).isEmpty || !t.pending.isEmpty || s.dev.engs.any (fun e => e.tid == t.tid && e.packet.isNone) ||
      s.dev.accessing t.tid || !s.dev.working t.part) = false := by
  obtain ⟨hg, hp, he, ho, hm, hw⟩ := h
  have heng : s.dev.engs.any (fun e => e.tid == t.tid && e.packet.isNone) = false := by
    simpa [Option.isSome_iff_ne_none] using he
  have hacc : s.dev.accessing t.tid = false := by simpa [Dev.accessing] using ⟨ho, hm⟩
  simp [hg, hp, heng, hacc, hw]

theorem teamRetire_last {tid : Nat} {t : Team} (ht : s.dev.team? tid = some t) (h : t.spent s) (hs : t.succ = none) :
    exec (.teamRetire tid) s = .next (((s.dropTeam t).fragmentOver t).endDrain t.part) := by
  have hn := h.notHeld
  rw [Dev.team?_tid ht] at hn
  change execTeamRetire _ s = _
  simp only [execTeamRetire, ht, hn, hs]
  rfl

theorem teamRetire_succeeded {tid : Nat} {t : Team} {r : LaunchRec} {frames : List Nat} (ht : s.dev.team? tid = some t) (h : t.spent s)
    (hs : t.succ = some r) (hrun : (s.dev.part t.part).run = .running)
    (hfit : ({ s.dev with teams := s.dev.teams.filter (fun k => k.tid != tid) } : Dev).teamFits r
      (if t.shape.pair && !r.pair then t.cores.take 1 else t.cores) = true)
    (hf : ({ s.dev with teams := s.dev.teams.filter (fun k => k.tid != tid) } : Dev).framesFor t.part false r.stack (r.width * r.groups) =
      some frames) :
    exec (.teamRetire tid) s = .next (s.succeed t r (if t.shape.pair && !r.pair then t.cores.take 1 else t.cores) frames) := by
  have hn := h.notHeld
  rw [Dev.team?_tid ht] at hn
  change execTeamRetire _ s = _
  simp only [execTeamRetire, ht, hn, hs, hf, hrun, hfit]
  rfl

theorem regroupMove_enabled {donor receiver p1 p2 m n pd td : Nat} {okG okR : List Nat} {g r : Group} (hg : s.dev.group? donor = some g)
    (hr : s.dev.group? receiver = some r) (hgw : g.wait = some (.regroup true p1 m pd okG)) (hrw : r.wait = some (.regroup false p2 n td okR))
    (hw : s.dev.working g.part = true) (ht : g.tid = r.tid) (h1 : p1 = r.gix) (h2 : p2 = g.gix) (hf : ∀ k ∈ g.flags, k = 0)
    (hs : ∀ x ∈ g.sregs, x.tag ≠ .pending) (hv : ∀ l ∈ g.lanes, ∀ x ∈ l.v, x.tag ≠ .pending) :
    exec (.regroupMove donor receiver) s = .next
      (if (r.lanes.filter (·.exited)).length < (g.lanes.filter (·.live)).length then regroupFail s donor receiver pd okG td okR
       else regroupMoved s donor receiver (g.lanes.filter (·.live)) (r.lanes.filter (·.exited)) n pd okG td okR) := by
  have hflag : g.flags.any (· != 0) = false := by simpa using hf
  have hsreg : g.sregs.any (fun x => x.tag == Tag.pending) = false := by simpa using hs
  have hvreg : g.lanes.any (fun l => l.v.any (fun x => x.tag == Tag.pending)) = false := by simpa using hv
  change execRegroupMove _ _ s = _
  simp only [execRegroupMove, hg, hr, hgw, hrw, hw, ht, h1, h2, hflag, hsreg, hvreg, Bool.not_true, Bool.false_eq_true, ne_eq,
    not_true_eq_false, or_self, if_false]
  split <;> rfl

theorem barrierWaveRelease_enabled {tid b : Nat} {t : Team} {x : Barrier} (ht : s.dev.team? tid = some t) (hb : t.barriers[b]? = some x)
    (hl : x.leaving ≠ []) (hd : x.due ≤ s.dev.cycOf t.part (t.cores.headD 0))
    (ho : ∀ o ∈ s.dev.ops, ∀ m ∈ x.after, m.1 = o.gid → m.2 ≤ o.opid) (hout : t.out = false) (hw : s.dev.working t.part = true) :
    exec (.barrierWaveRelease tid b) s = .next (leaveNext s t b x) := by
  have hops : s.dev.ops.any (fun o => x.after.any (fun m => m.1 == o.gid && decide (o.opid < m.2))) = false := by
    refine List.any_eq_false.2 fun o hm hany => ?_
    obtain ⟨m, hmem, hlate⟩ := List.any_eq_true.1 hany
    rw [Bool.and_eq_true, beq_iff_eq, decide_eq_true_iff] at hlate
    exact Nat.not_lt.2 (ho o hm m hmem hlate.1) hlate.2
  change execBarrierWaveRelease _ _ s = _
  simp only [execBarrierWaveRelease, ht, hb, List.isEmpty_eq_false_iff.2 hl, Nat.not_lt.2 hd, hops, hout, hw]
  rfl

theorem placementWave_enabled {tid : Nat} {t : Team} (ht : s.dev.team? tid = some t) (hh : t.hidden ≠ []) (ho : t.out = false)
    (hw : s.dev.working t.part = true)
    (hd : t.placedAt + s.dev.waveSp (t.cores.headD 0) ≤ s.dev.cycOf t.part (t.cores.headD 0)) :
    exec (.placementWave tid) s = .next (waveNext s t) := by
  change execPlacementWave _ s = _
  simp only [execPlacementWave, ht, List.isEmpty_eq_false_iff.2 hh, ho, hw, Nat.not_lt.2 hd]
  rfl

theorem teamPlacement_back {part : Nat} {cores : List Nat} {t : Team} (hw : s.dev.working part = true) (hh : s.head part = some (.back t))
    (hc : s.dev.chooseSite part t.shape = some cores) : exec (.teamPlacement part) s = .next (s.bringBack t cores) := by
  change execTeamPlacement _ s = _
  simp [execTeamPlacement, hw, hh, hc]

theorem teamPlacement_launch {part : Nat} {cores frames : List Nat} {l : Launch} (hw : s.dev.working part = true)
    (hh : s.head part = some (.team l)) (hc : s.dev.chooseSite part l.shape = some cores)
    (hf : s.dev.framesFor part false l.shape.stack (l.shape.width * l.shape.groups) = some frames)
    (hl : ∀ c, l.lastPlaced = some c → c + l.shape.stagger ≤ (s.dev.part part).cyc) :
    exec (.teamPlacement part) s = .next (teamNext s part l cores frames) := by
  change execTeamPlacement _ s = _
  cases hp : l.lastPlaced with
  | none => simp [execTeamPlacement, hw, hh, hc, hf, hp]
  | some c => simp [execTeamPlacement, hw, hh, hc, hf, hp, Nat.not_lt.2 (hl c hp)]

theorem swapOut_enabled {tid : Nat} {t : Team} {h : Head} (ht : s.dev.team? tid = some t) (hh : s.head t.part = some h)
    (hw : s.dev.working t.part = true) (hf : s.dev.headFits t.part h = false) (ha : ∃ k ∈ swappable s t.part h, k.tid = tid)
    (hl : ∀ k ∈ swappable s t.part h, k.stamp ≤ t.stamp) (hr : s.dev.saveRoom t = true) : exec (.swapOut tid) s = .next (swapNext s t) := by
  have hable : (swappable s t.part h).any (fun k => k.tid == tid) = true := by simpa using ha
  have hlast : (swappable s t.part h).any (fun k => decide (t.stamp < k.stamp)) = false := by simpa using hl
  change execSwapOut _ s = _
  simp [execSwapOut, ht, hh, hw, hf, hable, hlast, hr]

theorem launchComplete_uncounted {n q : Nat} {l : Launch}
    (hf : (List.range 4).findSome? (fun q => ((s.dev.part q).launch? n).map (fun l => (q, l))) = some (q, l)) (ht : l.inTable = false)
    (hr : l.shape.teams ≤ l.retired) (hw : s.dev.working q = true) (hc : l.shape.counter = 0) :
    exec (.launchComplete n) s = .next (launchOver (releaseAll s q) q l) := by
  change execLaunchComplete _ s = _
  simp [execLaunchComplete, hf, ht, Nat.not_lt.2 hr, hw, hc]

theorem launchComplete_counted {n q k : Nat} {c sc df : Bool} {l : Launch}
    (hf : (List.range 4).findSome? (fun q => ((s.dev.part q).launch? n).map (fun l => (q, l))) = some (q, l)) (ht : l.inTable = false)
    (hr : l.shape.teams ≤ l.retired) (hw : s.dev.working q = true) (hc : l.shape.counter ≠ 0)
    (hp : (unitAgent (releaseAll s q).dev q).resolve (releaseAll s q).st l.shape.counter.toNat .write = .ok (.pa k c sc df)) :
    exec (.launchComplete n) s =
      .next (launchOver (counterDown (releaseAll s q) q l.shape.counter.toNat k c sc df) q l) := by
  change execLaunchComplete _ s = _
  simp only [execLaunchComplete, hf, ht, Nat.not_lt.2 hr, hw, if_neg hc, hp]
  rfl

theorem pendingLaunchAccept_enabled {tid seq : Nat} {t : Team} {bs : List Byte} {rest : List (Nat × List Byte)}
    (ht : s.dev.team? tid = some t) (hp : t.pending = (seq, bs) :: rest) (hw : s.dev.working t.part = true)
    (hk : s.dev.tableTakes t.part seq = true) : exec (.pendingLaunchAccept tid) s = .next (acceptNext s t bs rest) := by
  change execPendingLaunchAccept _ s = _
  simp [execPendingLaunchAccept, ht, hp, hw, hk]

/-! Task waves and evaluator waves (R36-R38, R338, R362). -/

theorem taskWaveTimeout_enabled {cluster wave : Nat} {w : Wave} (hf : (s.dev.cluster cluster).waves.find? (fun w => w.wno == wave) = some w)
    (hw : s.dev.working (s.dev.partOfCore (cluster * 4)) = true)
    (hd : w.first + ((s.dev.part (s.dev.partOfCore (cluster * 4))).desc.getD Desc.none).gatherWait ≤
      s.dev.cycOf (s.dev.partOfCore (cluster * 4)) (cluster * 4)) :
    exec (.taskWaveTimeout cluster wave) s = .next (s.onDev (fun d => (d.modCluster cluster (fun c =>
      { c with waves := c.waves.filter (fun x => x.wno != wave), released := c.released ++ [w] })).pumpSpawns cluster)) := by
  change execTaskWaveTimeout _ _ s = _
  simp [execTaskWaveTimeout, hf, hw, Nat.not_lt.2 hd]

theorem taskWavePlacement_enabled {cluster core slot : Nat} {frames : List Nat} {w : Wave} {rest : List Wave}
    (hr : (s.dev.cluster cluster).released = w :: rest)
    (hs : taskSite s (s.dev.partOfCore (4 * cluster)) cluster w = some (core, slot, frames))
    (hw : s.dev.working (s.dev.partOfCore (4 * cluster)) = true) :
    exec (.taskWavePlacement cluster) s = .next (taskNext s (s.dev.partOfCore (4 * cluster)) cluster core slot frames w rest) := by
  change execTaskWavePlacement _ s = _
  simp [execTaskWavePlacement, hr, hs, hw]

/-- The core near its first loader to which an evaluator wave goes (R338). -/
def State.nearCore (s : State) (w : EvalWave) : Option Nat :=
  let near := ((List.range 4).map (fun k => 4 * (w.core / 4) + k)).filter (fun c => !s.dev.allWaiting c)
  if near.contains w.core && decide (s.dev.printSlots w.core 64 ≠ 0) then some w.core else s.dev.mostSlots near 64

section
variable {part i : Nat} {w : EvalWave} (hw : s.dev.working part = true)
  (hf : (s.dev.part part).evals.zipIdx.find? (fun w => !w.1.queued) = some (w, i))
include hw hf

theorem evaluatorPlacement_near {c : Nat} {t : State} (hc : s.nearCore w = some c)
    (ht : s.placeEval part c w ((s.dev.part part).evals.eraseIdx i) = some t) : exec (.evaluatorPlacement part) s = .next t := by
  have hput : (s.nearCore w).bind (fun c => s.placeEval part c w ((s.dev.part part).evals.eraseIdx i)) = some t := by
    rw [hc, Option.bind_some, ht]
  unfold State.nearCore at hput
  change execEvaluatorPlacement _ s = _
  simp only [execEvaluatorPlacement, hw, hf, hput]
  rfl

theorem evaluatorPlacement_toQueue (hc : s.nearCore w = none) :
    exec (.evaluatorPlacement part) s = .next (s.onDev (fun d => d.modPart part (fun p =>
      { p with evals := modAt p.evals i (fun w => { w with queued := true }) }))) := by
  have hput : (s.nearCore w).bind (fun c => s.placeEval part c w ((s.dev.part part).evals.eraseIdx i)) = none := by
    rw [hc, Option.bind_none]
  unfold State.nearCore at hput
  change execEvaluatorPlacement _ s = _
  simp only [execEvaluatorPlacement, hw, hf, hput]
  rfl

end

theorem evaluatorPlacement_queued {part c : Nat} {w : EvalWave} {rest : List EvalWave} {t : State} (hw : s.dev.working part = true)
    (he : (s.dev.part part).evals = w :: rest) (hq : ∀ x ∈ w :: rest, x.queued = true)
    (hc : s.dev.mostSlots (s.dev.coresOf part) 64 = some c) (ht : s.placeEval part c w rest = some t) :
    exec (.evaluatorPlacement part) s = .next t := by
  have hnone : (w :: rest).zipIdx.find? (fun w => !w.1.queued) = none :=
    List.find?_eq_none.2 fun x hx => by simp [hq x.1 (List.fst_mem_of_mem_zipIdx hx)]
  change execEvaluatorPlacement _ s = _
  simp only [execEvaluatorPlacement, hw, he, hnone, hc, Option.bind_some, ht]
  rfl

end

/-- Settles O19: each event's condition holds, so it answers its state; one lemma for each event. -/
theorem memoryEventsComplete : Obligations.MemoryEventsComplete := by
  unfold Obligations.MemoryEventsComplete
  refine ⟨?_, fun _ _ _ _ => writePerformed_enabled, fun _ _ _ hp => ⟨l1LineEviction_held hp, l1LineEviction_texels hp⟩,
    fun _ _ _ _ _ _ _ => translationWalk_enabled, fun _ _ _ => starvedQueueEntry_enabled, fun _ _ _ => waiterReplay_enabled,
    fun _ _ _ _ => deferTimeout_enabled⟩
  exact fun s op o ho hw hk hg hh =>
    ⟨longLatencyCompletion_captured ho hw hk hg hh, fun k => longLatencyCompletion_attempted ho hw hk hg hh⟩

/-- Settles O20: each event's condition holds, so it answers its state; one lemma for each way an event goes. -/
theorem groupsAndTeamsGoOn : Obligations.GroupsAndTeamsGoOn := by
  unfold Obligations.GroupsAndTeamsGoOn
  refine ⟨fun _ _ _ => groupRetire_enabled, ?_, fun _ _ _ _ _ _ _ _ _ _ _ _ _ => regroupMove_enabled, fun _ _ _ _ _ => barrierWaveRelease_enabled,
    fun _ _ _ => placementWave_enabled,
    fun _ _ _ hw => ⟨fun _ => teamPlacement_back hw, fun _ _ => teamPlacement_launch hw⟩, fun _ _ _ _ => swapOut_enabled,
    fun _ _ _ _ hf ht hr hw => ⟨launchComplete_uncounted hf ht hr hw, fun _ _ _ _ => launchComplete_counted hf ht hr hw⟩,
    fun _ _ _ _ _ _ => pendingLaunchAccept_enabled⟩
  intro s tid t ht hg hp he ho hm hw
  have hspent : t.spent s := by
    rw [← Dev.team?_tid ht] at hg he ho hm
    exact ⟨hg, hp, he, ho, hm, hw⟩
  exact ⟨teamRetire_last ht hspent, fun _ _ hs hrun hfit hf => teamRetire_succeeded ht hspent hs hrun hfit hf⟩

/-- Settles O21: each event's condition holds, so it answers its state; an evaluator wave goes near its first loader or to the queue. -/
theorem taskAndEvaluatorWavesGoOn : Obligations.TaskAndEvaluatorWavesGoOn := by
  unfold Obligations.TaskAndEvaluatorWavesGoOn
  refine ⟨fun _ _ _ _ => taskWaveTimeout_enabled, fun _ _ _ _ _ _ _ => taskWavePlacement_enabled, fun s part hw => ⟨?_, ?_⟩⟩
  · exact fun w i hf => ⟨fun c t => evaluatorPlacement_near hw hf, evaluatorPlacement_toQueue hw hf⟩
  · exact fun w rest c t => evaluatorPlacement_queued hw

end Sys2Proof.Machine
end

section
/-!
The faults of one issue (R97, R98): which one is raised, for which lanes, and what it leaves. The obligation FaultsComeInTheirOrder of
01_execution_model.md.
-/

namespace Sys2Proof.Machine
open Sys2Proof

/-! The first fault in R97's order. -/

theorem foldl_min_mem_cons (a : Nat) (l : List Nat) : l.foldl Nat.min a ∈ a :: l := by
  induction l generalizing a with
  | nil => simp
  | cons x xs ih =>
    have hx : Nat.min a x = a ∨ Nat.min a x = x := (Nat.le_total a x).imp Nat.min_eq_left Nat.min_eq_right
    rw [List.foldl_cons]
    rcases List.mem_cons.1 (ih (Nat.min a x)) with h | h
    · rw [h]; rcases hx with hx | hx <;> simp [hx]
    · exact List.mem_cons_of_mem a (List.mem_cons_of_mem x h)

theorem foldl_min_le (a : Nat) (l : List Nat) : ∀ x ∈ a :: l, l.foldl Nat.min a ≤ x := by
  induction l generalizing a with
  | nil => simp
  | cons y ys ih =>
    have hle := ih (Nat.min a y)
    have hmin := hle _ List.mem_cons_self
    intro x hx
    rcases List.mem_cons.1 hx with rfl | hx
    · exact Nat.le_trans hmin (Nat.min_le_left _ y)
    · rcases List.mem_cons.1 hx with rfl | hx
      · exact Nat.le_trans hmin (Nat.min_le_right a _)
      · exact hle x (List.mem_cons_of_mem _ hx)

/-- The least rank of the faults that the checks of an issue found; 99 where they found none. -/
def leastRank (cs : List (Nat × Chk)) : Nat := (cs.flatMap (fun c => c.2.bad.map FCode.rank)).foldl Nat.min 99

theorem FCode.rank_le (c : FCode) : c.rank ≤ 9 := by cases c <;> decide

theorem leastRank_le {cs : List (Nat × Chk)} {c : Nat × Chk} (hc : c ∈ cs) {b : FCode} (hb : b ∈ c.2.bad) : leastRank cs ≤ b.rank :=
  foldl_min_le _ _ _ (List.mem_cons_of_mem _ (List.mem_flatMap.2 ⟨c, hc, List.mem_map_of_mem hb⟩))

/-- Checks that find a fault find one of the least rank. -/
theorem leastRank_met {cs : List (Nat × Chk)} (h : ∃ c ∈ cs, c.2.bad ≠ []) : ∃ c ∈ cs, ∃ b ∈ c.2.bad, b.rank = leastRank cs := by
  obtain ⟨c, hc, hne⟩ := h
  obtain ⟨b, hb⟩ := List.exists_mem_of_ne_nil _ hne
  have hle : leastRank cs ≤ 9 := Nat.le_trans (leastRank_le hc hb) b.rank_le
  rcases List.mem_cons.1 (foldl_min_mem_cons 99 (cs.flatMap (fun c => c.2.bad.map FCode.rank))) with h99 | hmem
  · exact absurd (show leastRank cs = 99 from h99) (by omega)
  · obtain ⟨c', hc', hmap⟩ := List.mem_flatMap.1 hmem
    obtain ⟨b', hb', hrank⟩ := List.mem_map.1 hmap
    exact ⟨c', hc', b', hb', hrank⟩

/-- The fault of an issue is one of the least rank found, for the whole gang up to rank 3 and else for the lanes that met it (R97). -/
theorem faultAmong_first {e : Env} {cs : List (Nat × Chk)} (h : ∃ c ∈ cs, c.2.bad ≠ []) : ∃ code lids, e.faultAmong cs = some (code, lids) ∧
    (∃ c ∈ cs, code ∈ c.2.bad) ∧ code.rank = leastRank cs ∧
    lids = if code.rank ≤ 3 then e.lids else (cs.filter (fun c => c.2.bad.contains code)).map (·.1) := by
  have hof : (cs.findSome? (fun c => c.2.bad.find? (fun b => b.rank == leastRank cs))).isSome := by
    obtain ⟨c, hc, b, hb, hr⟩ := leastRank_met h
    exact List.findSome?_isSome_iff.2 ⟨c, hc, List.find?_isSome.2 ⟨b, hb, by simp [hr]⟩⟩
  obtain ⟨code, hcode⟩ := Option.isSome_iff_exists.1 hof
  obtain ⟨c, hc, hfind⟩ := List.exists_of_findSome?_eq_some hcode
  have hrank : code.rank = leastRank cs := by simpa using List.find?_some hfind
  refine ⟨code, _, ?_, ⟨c, hc, List.mem_of_find?_eq_some hfind⟩, hrank, rfl⟩
  rw [hrank]
  unfold leastRank at hcode ⊢
  simp only [Env.faultAmong, hcode]
  split <;> rfl

/-! The gate of an issue. -/

theorem gate_waits {e : Env} {cs : List (Nat × Chk)} (h : ∃ c ∈ cs, c.2.wait = true) (k : Unit → Out) : e.gate cs k = .fault .blocked := by
  have hany : cs.any (fun c => c.2.wait) = true := by simpa using h
  simp [Env.gate, hany]

theorem gate_faults {e : Env} {cs : List (Nat × Chk)} {code : FCode} {lids : List Nat} (hw : ∀ c ∈ cs, c.2.wait = false)
    (hf : e.faultAmong cs = some (code, lids)) (k : Unit → Out) : e.gate cs k = .next (faultState e code lids 0) := by
  have hany : cs.any (fun c => c.2.wait) = false := by simpa using hw
  simp [Env.gate, hany, hf, raise_next]

/-! Each form of instruction is one issue. -/

theorem exec_moveForm {i : Instr} {f : ValueForm} (h : moveForm i = some f) (s : State) : exec i s = valueIssue s f.u f.d f.shape f.val := by
  unfold moveForm at h
  split at h <;> cases h <;> rfl

theorem exec_arithForm {i : Instr} {f : ValueForm} (h : arithForm i = some f) (s : State) : exec i s = valueIssue s f.u f.d f.shape f.val := by
  unfold arithForm at h
  split at h <;> cases h <;> rfl

theorem exec_bitForm {i : Instr} {f : ValueForm} (h : bitForm i = some f) (s : State) : exec i s = valueIssue s f.u f.d f.shape f.val := by
  unfold bitForm at h
  split at h <;> cases h <;> rfl

theorem exec_functionForm {i : Instr} {f : ValueForm} (h : functionForm i = some f) (s : State) :
    exec i s = valueIssue s f.u f.d f.shape f.val := by
  unfold functionForm at h
  split at h <;> cases h <;> rfl

/-- Every instruction that writes registers and nothing else is one issue of its fields. -/
theorem exec_valueForm {i : Instr} {f : ValueForm} (h : valueForm i = some f) (s : State) : exec i s = valueIssue s f.u f.d f.shape f.val := by
  simp only [valueForm, Option.or_eq_some_iff] at h
  obtain hm | ⟨-, ha | ⟨-, hb | ⟨-, hf⟩⟩⟩ := h
  · exact exec_moveForm hm s
  · exact exec_arithForm ha s
  · exact exec_bitForm hb s
  · exact exec_functionForm hf s

theorem exec_predForm {i : Instr} {f : PredForm} (h : predForm i = some f) (s : State) : exec i s = predIssue s f.u f.p f.c f.val := by
  unfold predForm at h
  split at h <;> cases h <;> rfl

/-- `wrsr` is a group's write for sr.mode and its lanes' for the others (R153). -/
theorem exec_groupForm {i : Instr} {f : GroupForm} (h : groupForm i = some f) (s : State) : exec i s = groupWrite s f.u f.rd := by
  unfold groupForm at h
  split at h
  case h_5 u d i =>
    obtain ⟨hi, rfl⟩ := Option.ite_none_right_eq_some.1 h |>.imp_right Option.some.inj
    exact if_pos hi
  all_goals cases h <;> rfl

theorem exec_laneForm {i : Instr} {f : LaneForm} (h : laneForm i = some f) (s : State) : exec i s = lanesIssue s f.u f.rd := by
  unfold laneForm at h
  split at h
  case h_4 u d i =>
    obtain ⟨hi, rfl⟩ := Option.ite_none_left_eq_some.1 h |>.imp_right Option.some.inj
    exact if_neg hi
  all_goals cases h <;> rfl

/-! What a fault leaves (R98, R316, R320). -/

theorem foldl_mask_testBit (lids : List Nat) (a j : Nat) : (lids.foldl (fun a i => a ||| 2 ^ i) a).testBit j = (a.testBit j || lids.contains j) := by
  induction lids generalizing a with
  | nil => simp
  | cons i is ih => simp [ih, Nat.testBit_or, Nat.testBit_two_pow, Bool.or_assoc, eq_comm]

theorem maskOf_testBit (lids : List Nat) (j : Nat) : (maskOf lids).testBit j = lids.contains j := by
  rw [maskOf, foldl_mask_testBit, Nat.zero_testBit, Bool.false_or]

theorem modAt_getD_self {α : Type} {l : List α} {i : Nat} (h : i < l.length) (f : α → α) (d : α) : (modAt l i f).getD i d = f (l.getD i d) := by
  simp [modAt, h]

theorem Dev.part_modPart_self {d : Dev} {q : Nat} (h : q < d.parts.length) (f : Part → Part) : (d.modPart q f).part q = f (d.part q) :=
  modAt_getD_self h f _

/-- A fault raises the halt line of the group's partition and adds its record to the faults found there. -/
theorem faultState_part (e : Env) (code : FCode) (lids : List Nat) (addr : DWord) (h : e.g.part < e.s.dev.parts.length) :
    ((faultState e code lids addr).dev.part e.g.part).halt = true ∧
    ((faultState e code lids addr).dev.part e.g.part).faults =
      (e.s.dev.part e.g.part).faults ++ [faultOf e.s.dev e.g e.t code e.sel.pc lids addr] := by
  simp only [faultState, State.onDev_dev, Dev.raiseFault, Dev.part_modPart_self h, and_self]

theorem faultState_groups (e : Env) (code : FCode) (lids : List Nat) (addr : DWord) :
    (faultState e code lids addr).dev.groups = e.s.dev.groups := rfl

/-- Settles O58: every form is one gate over its checks, which raises the first of the faults found in the order of their ranks; the
masks are the model's by log entries 9, 28 and 45. -/
theorem faultsComeInTheirOrder : Obligations.FaultsComeInTheirOrder := by
  unfold Obligations.FaultsComeInTheirOrder
  intro order rank i s e cs hr hform
  have hrank : ∀ c, rank c = c.rank := by intro c; cases c <;> rfl
  have hgate : ∃ k, exec i s = e.gate cs k := by
    rcases hform with ⟨f, hf, rfl⟩ | ⟨f, hf, rfl⟩ | ⟨f, hf, rfl⟩ | ⟨f, hf, rfl⟩
    · exact ⟨_, (exec_valueForm hf s).trans (withGang_ready hr _)⟩
    · exact ⟨_, (exec_predForm hf s).trans (withGang_ready hr _)⟩
    · exact ⟨_, (exec_laneForm hf s).trans (withGang_ready hr _)⟩
    · exact ⟨_, (exec_groupForm hf s).trans (withGang_ready hr _)⟩
  obtain ⟨k, hk⟩ := hgate
  refine ⟨fun hw => hk.trans (gate_waits hw k), fun hw hb => ?_, ?_⟩
  · obtain ⟨code, lids, hf, hmet, hleast, hlids⟩ := faultAmong_first (e := e) hb
    refine ⟨code, lids, hk.trans (gate_faults hw hf k), hmet, fun c hc b hcb => ?_, fun h3 => ?_, fun h3 n => ?_⟩
    · rw [hrank, hrank, hleast]
      exact leastRank_le hc hcb
    · rw [hrank] at h3
      rw [hlids, if_pos h3]
    · rw [hrank] at h3
      rw [hlids, if_neg (Nat.not_le.2 h3)]
      simp only [List.mem_map, List.mem_filter, List.contains_iff_mem]
      exact ⟨fun ⟨c, ⟨hc, hcode⟩, hn⟩ => ⟨c, hc, hn, hcode⟩, fun ⟨c, hc, hn, hcode⟩ => ⟨c, ⟨hc, hcode⟩, hn⟩⟩
  · intro code lids t
    have hs := hr.s
    refine ⟨by rw [← hs]; rfl, by rw [← hs]; rfl, fun hp => ?_⟩
    obtain ⟨hhalt, hfaults⟩ := faultState_part e code lids 0 (by rw [hs]; exact hp)
    rw [hs] at hfaults
    exact ⟨hhalt, _, hfaults, rfl, rfl, rfl, maskOf_testBit lids⟩

end Sys2Proof.Machine
end

section
/-!
What a `ret` changes in lanes outside its gang (R208): the obligation TransfersChangeOnlyTheWay of 01_execution_model.md, whose clause on
`ret` asks nothing of the state but that the gang is ready and its stack slots can be read.
-/

namespace Sys2Proof.Machine
open Sys2Proof

/-! A state in which a lane outside the gang bears the mark of the read that the gang's `ret` is about to start. -/

def strayClause : Clause := { hdr := 0x10000#64, header := 0x07800021#32, words := [0#32, 0#32, 0#32] }

/-- Lane 0 stands at `ret`, one call deep, its stack pointer a slot below the top. -/
def strayReturner : Lane :=
  { newLane 0 32 0x10004#64 0 (stackTop 4096 - 8#64) 0x30000000 [] false with depth := 1, clause := some strayClause }

/-- Lane 1 stands elsewhere and is marked as held by operation 1, which has not been started. -/
def strayMarked : Lane := { newLane 1 32 0x10008#64 1 (stackTop 4096) 0x30001000 [] false with hold := some (.ret 1) }

def strayGroup : Group := newGroup 0 0 0 0 2 32 0 0 0 0 0 [] [strayReturner, strayMarked]

/-- The next operation is operation 1, and the return address in lane 0's stack slot is the odd number 1. -/
def strayMark : State :=
  { dev := { Dev.reset with
      groups := [strayGroup], teams := [newTeam 0 .launch 0 0 0 (plainShape 0x10000#64 0 2 32 4096) [0] 1 0],
      sel := some { gid := 0, pc := 0x10004#64, depth := 1, clause := some strayClause }, nextGid := 1, nextTid := 1, nextLno := 1, nextOp := 1,
      parts := [{ Part.reset with desc := some Desc.plain, run := .running }] },
    st := { Store.reset with mem := Memory.setN [] 0x30000FF8 (leBytes 8 1) } }

def straySlot : Place := .pa 0x30000FF8 true false false

/-- The read of lane 0's stack slot. -/
def strayReads (e : Env) : List (Req × Place) := (retReqs e).map (fun r => (r, straySlot))

/-- The hold of the group's second lane, if it is outside the gang. -/
def secondHold (e : Env) (s : State) : Option (Option Hold) :=
  (s.dev.group? e.g.gid).bind (fun g => (g.lanes[1]?.filter (fun l => !e.lids.contains l.lid)).map Lane.hold)

/-- What the clause on `ret` asks of the gang, and the second lane's hold before and after. -/
def strayCheck (e : Env) : Bool :=
  let ps := strayReads e
  let w := e.touchAll false ps strayMark
  e.g.canIssue strayMark.dev && e.lanes.all (fun l => l.depth != 0) &&
  ps.all (fun p => p.1.va % 8 == 0 && (e.agent p.1.lane).resolve e.s.st p.1.va .read == .ok p.2 &&
    !e.s.dev.locked e.g.core false (lockAt p.1.va p.2, 8) && !w.dead e.g.core p.2 && !p.2.deferred) &&
  !e.orderStops 8 ps && secondHold e w == some (some (.ret 1)) && secondHold e (retNext e ps) == some none

theorem strayMark_checked : strayMark.env?.any strayCheck = true := by decide +kernel

theorem strayReads_reached {e : Env} (hva : ∀ p ∈ strayReads e, p.1.va % 8 = 0)
    (hpl : ∀ p ∈ strayReads e, (e.agent p.1.lane).resolve e.s.st p.1.va .read = .ok p.2)
    (hlk : ∀ p ∈ strayReads e, e.s.dev.locked e.g.core false (lockAt p.1.va p.2, 8) = false) :
    Reached e 8 .read false true (retReqs e) (strayReads e) :=
  ⟨⟨fun r hr => hva (r, straySlot) (List.mem_map_of_mem hr), by simp [strayReads, Function.comp_def], hpl⟩, fun p hp _ => hlk p hp⟩

theorem strayMark_ready : ∃ e, Ready strayMark e ∧ (∀ l ∈ e.lanes, l.depth ≠ 0) ∧ Reached e 8 .read false true (retReqs e) (strayReads e) ∧
    e.orderStops 8 (strayReads e) = false ∧
    (∀ p ∈ strayReads e, (e.touchAll false (strayReads e) strayMark).dead e.g.core p.2 = false ∧ p.2.deferred = false) ∧
    secondHold e (e.touchAll false (strayReads e) strayMark) = some (some (.ret 1)) ∧ secondHold e (retNext e (strayReads e)) = some none := by
  obtain ⟨e, he, hc⟩ := Option.any_eq_true .. |>.1 strayMark_checked
  simp only [strayCheck, Bool.and_eq_true, List.all_eq_true, bne_iff_ne, beq_iff_eq, Bool.not_eq_true', imp_and, forall_and] at hc
  obtain ⟨⟨⟨⟨⟨hi, hd⟩, ⟨⟨⟨hva, hpl⟩, hlk⟩, hup⟩, hnow⟩, ho⟩, hb⟩, ha⟩ := hc
  exact ⟨e, ⟨he, hi⟩, hd, strayReads_reached hva hpl hlk, ho, fun p h => ⟨hup p h, hnow p h⟩, hb, ha⟩

theorem secondHold_eq_some {e : Env} {s : State} {k : Option Hold} (h : secondHold e s = some k) :
    ∃ g a, s.dev.group? e.g.gid = some g ∧ g.lanes[1]? = some a ∧ e.lids.contains a.lid = false ∧ a.hold = k := by
  simp only [secondHold, Option.bind_eq_some_iff, Option.map_eq_some_iff, Option.filter_eq_some_iff, Bool.not_eq_true'] at h
  obtain ⟨g, hg, a, ⟨ha, hout⟩, hk⟩ := h
  exact ⟨g, a, hg, ha, hout, hk⟩

/-- A frame keeps the hold of every lane outside the gang. -/
theorem GroupFrame.secondHold_eq {e : Env} {w t : State} {G : Group → Group → Prop} {L : Lane → Lane → Prop} {j k : Option Hold}
    (hf : GroupFrame e w t G L) (hw : secondHold e w = some j) (ht : secondHold e t = some k) : k = j := by
  obtain ⟨g, a, hg, ha, hout, rfl⟩ := secondHold_eq_some hw
  obtain ⟨h, b, hh, hb, -, rfl⟩ := secondHold_eq_some ht
  obtain ⟨h', hh', -, -, hlanes⟩ := hf.2 g hg
  obtain rfl : h' = h := Option.some.inj (hh'.symm.trans hh)
  have hkept := hlanes 1 a b ha hb
  rw [hout, if_neg Bool.false_ne_true] at hkept
  exact (congrArg Lane.hold hkept :)

/-- Refutes O33: the clause on `ret` asks nothing of the other lanes' holds. In `strayMark` the gang of lane 0 returns to an odd address;
the read is given up, which ends every hold that bears its number, that of lane 1 too, though lane 1 is not in the gang. -/
theorem not_transfersChangeOnlyTheWay : ¬ Obligations.TransfersChangeOnlyTheWay := by
  unfold Obligations.TransfersChangeOnlyTheWay
  rintro ⟨-, -, -, -, hret, -⟩
  obtain ⟨e, hr, hd, hreach, ho, hp, hbefore, hafter⟩ := strayMark_ready
  obtain ⟨t, ht, hframe, -⟩ := hret strayMark e (strayReads e) hr hd hreach ho hp
  obtain rfl : retNext e (strayReads e) = t := by simpa using (ret_ready hr hd hreach ho).symm.trans ht
  exact absurd (hframe.secondHold_eq hbefore hafter) (by simp)

end Sys2Proof.Machine
end
